-- ==== Sys2Proof/Word.lean ====
section
/-! DEFINITION. The machine's word types (R3, R37) and their plainest arithmetic. -/

namespace Sys2Proof

/-- A 64-bit register value. -/
abbrev Word := BitVec 64

/-- A byte of memory. -/
abbrev Byte := BitVec 8

/-- An instruction word (R37). -/
abbrev IWord := BitVec 32

/-- A vector register: 4096 bits, 512 bytes (R173). -/
abbrev VWord := BitVec 4096

/-- A natural number as a 64-bit word, modulo 2^64. -/
abbrev w64 (n : Nat) : Word := BitVec.ofNat 64 n

/-- The number that bits [hi:lo] of `n` hold (R3). -/
abbrev field (n hi lo : Nat) : Nat := n / 2 ^ lo % 2 ^ (hi + 1 - lo)

/-- Bit `i` of `n` (R3). -/
abbrev bitOf (n i : Nat) : Bool := n / 2 ^ i % 2 == 1

end Sys2Proof
end

