-- ==== Sys2Proof/Machine/Forms.lean ====
section
/-! DEFINITION. Which field values inside an encoded row the spec reserves (R42, R43, R50, R51,
R53, R56, R76 to R83 of the chapters): a word that holds one traps ILLEGAL. -/

namespace Sys2Proof.Machine

/-- FENCE-major SCOPE 0-5 (R50). -/
def scopeOk (scope : BitVec 3) : Bool := scope.toNat ≤ 5

/-- The element types a VALU function is defined for (R176): ET 0-3 integer, 4-7 float. -/
def valuEtOk (fn : Nat) (et : BitVec 3) : Bool :=
  let isI := et.toNat < 4
  if fn ≤ 8 then true
  else if fn ≤ 0xE then isI
  else if fn ≤ 0x12 then true
  else if fn ≤ 0x14 then isI
  else if fn = 0x15 then true
  else if fn = 0x16 then !isI
  else if fn = 0x17 then isI
  else false

/-- Lanes of a compute type CT (R173): 64 f64, 128 f32, 256 f16 and bf16. -/
def ctLanes (ct : Nat) : Nat := if ct = 0 then 64 else if ct = 1 then 128 else 256

/-- Bits of an element of storage format SF (R21). -/
def sfBits : Nat → Nat
  | 0 => 64 | 1 => 32 | 2 => 16 | 3 => 16 | 4 => 8 | 5 => 8
  | 6 => 6 | 7 => 6 | 8 => 4 | 9 => 8 | 10 => 4 | _ => 0

/-- vcvt and vcvtf: SF at most 10 and the elements within a register (R179). -/
def vcvtOk (ct : BitVec 2) (sf : BitVec 4) : Bool :=
  sf.toNat ≤ 10 && ctLanes ct.toNat * sfBits sf.toNat ≤ 4096

/-- vbscl and vscale: SF 4-10 (R180). -/
def scaleSfOk (sf : BitVec 4) : Bool := 4 ≤ sf.toNat && sf.toNat ≤ 10

/-- VLD and VST: PART 0-3 (R51). -/
def partOk (part : BitVec 3) : Bool := part.toNat ≤ 3

/-- A private cue is c0-c7 (R42, R52). -/
def cueOk (prv : BitVec 1) (cue : BitVec 8) : Bool := prv = 0 || cue.toNat ≤ 7

/-- A stream field holds 0-7 (R52). -/
def streamOk (n : BitVec 5) : Bool := n.toNat ≤ 7

/-- A slot field holds 0-15 (R215). -/
def slotOk (n : BitVec 5) : Bool := n.toNat ≤ 15

/-- An accumulator field holds 0-3 (R215). -/
def accOk (n : BitVec 5) : Bool := n.toNat ≤ 3

/-- EWR of e7 takes no second register (R53). -/
def ewrOk (n : BitVec 3) (b : BitVec 5) : Bool := n.toNat ≠ 7 || b = 0

/-- The CSR numbers of R151. -/
def csrKnown (n : Nat) : Bool :=
  [0x001, 0x002, 0x003, 0x008, 0x009, 0x00A, 0x010, 0x011, 0x012, 0x013, 0x018, 0x020, 0x021,
   0x030, 0x080, 0x0C0, 0x0C1, 0x0C2, 0x0C4, 0x0C8, 0x101, 0x120, 0x121, 0x140, 0x141].contains n

/-- The CSRs whose every field is RO (R151). -/
def csrReadOnly (n : Nat) : Bool := [0x008, 0x00A, 0x021, 0x0C1, 0x0C2, 0x121].contains n

/-- csrr: an assigned number (R43). -/
def csrReadOk (c : BitVec 9) : Bool := csrKnown c.toNat

/-- csrw: an assigned number that is not read-only (R43). -/
def csrWriteOk (c : BitVec 9) : Bool := csrKnown c.toNat && !csrReadOnly c.toNat

/-- csrs, csrc: a read-only number only with RA = x0 (R43). -/
def csrSetOk (a : BitVec 5) (c : BitVec 9) : Bool :=
  csrKnown c.toNat && (a = 0 || !csrReadOnly c.toNat)

/-- The least privilege of a CSR number (R43). -/
def csrPriv (c : Nat) : Nat := c / 128

end Sys2Proof.Machine
end

