-- ==== Sys2Proof/Machine/Flags.lean ====
section
/-! DEFINITION. Number formats, exact values, rounding, saturation and the flags they raise
(R21, R22, R30 to R33, R166 to R168). Values are exact: a sign, a natural mantissa and a power of
two, with a mark when the value lies strictly above that number and below the next mantissa. -/

namespace Sys2Proof.Machine

/-- The five flags of R152, in the bit order of FFLAGS[4:0]. -/
abbrev FlagSet := BitVec 5

/-- Invalid operation. -/
def flagNV : FlagSet := 0b10000
/-- Division by zero. -/
def flagDZ : FlagSet := 0b01000
/-- Overflow. -/
def flagOF : FlagSet := 0b00100
/-- Underflow. -/
def flagUF : FlagSet := 0b00010
/-- Inexact. -/
def flagNX : FlagSet := 0b00001

/-- The five rounding modes of R30. -/
inductive RMode where
  | rne | rtz | rup | rdn | stoch
  deriving DecidableEq, Repr

/-- The mode a RMODE value names; 5 to 7 are reserved (R30). -/
def rmodeOf : Nat → Option RMode
  | 0 => some .rne | 1 => some .rtz | 2 => some .rup | 3 => some .rdn | 4 => some .stoch
  | _ => none

/-- The special values a format has. -/
inductive Specials where
  | ieee | nanOnly | none
  deriving DecidableEq, Repr

/-- A floating-point format: exponent bits, fraction bits, bias, special values (R21). -/
structure FFmt where
  eb : Nat
  mb : Nat
  bias : Nat
  sp : Specials
  deriving DecidableEq, Repr

/-- FP64. -/
def fp64 : FFmt := ⟨11, 52, 1023, .ieee⟩
/-- FP32. -/
def fp32 : FFmt := ⟨8, 23, 127, .ieee⟩
/-- FP16. -/
def fp16 : FFmt := ⟨5, 10, 15, .ieee⟩
/-- BF16. -/
def bf16 : FFmt := ⟨8, 7, 127, .ieee⟩
/-- FP8E4. -/
def fp8e4 : FFmt := ⟨4, 3, 7, .nanOnly⟩
/-- FP8E5. -/
def fp8e5 : FFmt := ⟨5, 2, 15, .ieee⟩
/-- FP6E3. -/
def fp6e3 : FFmt := ⟨3, 2, 3, .none⟩
/-- FP6E2. -/
def fp6e2 : FFmt := ⟨2, 3, 1, .none⟩
/-- FP4. -/
def fp4 : FFmt := ⟨2, 1, 1, .none⟩

/-- An element format: a float, or a two's complement integer of `w` bits. -/
inductive EFmt where
  | flt (f : FFmt)
  | int (w : Nat)
  deriving DecidableEq, Repr

/-- The element format of a format code 1-12 (R21); XE8 elements are FP8E4. -/
def efmtOf : Nat → EFmt
  | 1 => .flt fp64 | 2 => .flt fp32 | 3 => .flt fp16 | 4 => .flt bf16 | 5 => .flt fp8e4
  | 6 => .flt fp8e5 | 7 => .flt fp6e3 | 8 => .flt fp6e2 | 9 => .flt fp4 | 10 => .int 8
  | 11 => .int 4 | _ => .flt fp8e4

/-- Bits of a float format. -/
def FFmt.width (f : FFmt) : Nat := 1 + f.eb + f.mb

/-- Bits of an element. -/
def EFmt.width : EFmt → Nat
  | .flt f => f.width
  | .int w => w

/-- Bits of an element of a format code (R21). -/
def codeBits (c : Nat) : Nat := (efmtOf c).width

/-- The exponent of the least subnormal: its value is 2 to this power. -/
def FFmt.qmin (f : FFmt) : Int := 1 - (f.bias : Int) - (f.mb : Int)

/-- The bits of the largest finite magnitude (R21). -/
def FFmt.maxBits (f : FFmt) : Nat :=
  match f.sp with
  | .ieee => (2 ^ f.eb - 1) * 2 ^ f.mb - 1
  | .nanOnly => 2 ^ (f.eb + f.mb) - 2
  | .none => 2 ^ (f.eb + f.mb) - 1

/-- The bits of +infinity of a format that has it. -/
def FFmt.infBits (f : FFmt) : Nat := (2 ^ f.eb - 1) * 2 ^ f.mb

/-- The canonical NaN (R22); +0 in a format without one (R32). -/
def FFmt.nanBits (f : FFmt) : Nat :=
  match f.sp with
  | .ieee => (2 ^ f.eb - 1) * 2 ^ f.mb + 2 ^ (f.mb - 1)
  | .nanOnly => 2 ^ (f.eb + f.mb) - 1
  | .none => 0

/-- The sign bit in place. -/
def FFmt.signBit (f : FFmt) (neg : Bool) : Nat := if neg then 2 ^ (f.eb + f.mb) else 0

/-- An exact value. `fin neg m e st`: magnitude `m * 2^e`, or with `st` a magnitude strictly
between `m * 2^e` and `(m+1) * 2^e`. -/
inductive FVal where
  | nan (signalling : Bool)
  | inf (neg : Bool)
  | fin (neg : Bool) (m : Nat) (e : Int) (st : Bool)
  deriving DecidableEq, Repr

/-- Zero with a sign. -/
def FVal.zero (neg : Bool) : FVal := .fin neg 0 0 false

/-- Whether a value is a NaN. -/
def FVal.isNan : FVal → Bool
  | .nan _ => true
  | _ => false

/-- Whether a value is a signalling NaN (R165). -/
def FVal.isSnan : FVal → Bool
  | .nan s => s
  | _ => false

/-- Whether a value is infinite. -/
def FVal.isInf : FVal → Bool
  | .inf _ => true
  | _ => false

/-- Whether a value is zero. -/
def FVal.isZero : FVal → Bool
  | .fin _ m _ st => m == 0 && !st
  | _ => false

/-- The sign of a value; NaN counts as positive. -/
def FVal.neg : FVal → Bool
  | .nan _ => false
  | .inf n => n
  | .fin n _ _ _ => n

/-- The value with its sign changed. -/
def FVal.negate : FVal → FVal
  | .nan s => .nan s
  | .inf n => .inf (!n)
  | .fin n m e st => .fin (!n) m e st

/-- The value the bits of a float format hold (R21, R22, R165). -/
def FFmt.decode (f : FFmt) (bits : Nat) : FVal :=
  let s := bitOf bits (f.eb + f.mb)
  let ex := bits / 2 ^ f.mb % 2 ^ f.eb
  let m := bits % 2 ^ f.mb
  if ex = 0 then .fin s m f.qmin false
  else if ex = 2 ^ f.eb - 1 && (f.sp == .ieee || (f.sp == .nanOnly && m == 2 ^ f.mb - 1)) then
    if f.sp == .nanOnly then .nan false
    else if m = 0 then .inf s
    else .nan (!bitOf m (f.mb - 1) && f != fp8e5)
  else .fin s (m + 2 ^ f.mb) (f.qmin + (ex : Int) - 1) false

/-- The exact value of an integer. -/
def intVal (v : Int) : FVal := .fin (v < 0) v.natAbs 0 false

/-- A signed reading of the low `w` bits. -/
def sgn (w n : Nat) : Int :=
  let v := n % 2 ^ w
  if v < 2 ^ (w - 1) then (v : Int) else (v : Int) - (2 ^ w : Nat)

/-- The low `w` bits of an integer. -/
def wrapInt (w : Nat) (v : Int) : Nat := (v % (2 ^ w : Nat)).toNat

/-- The value the bits of an element hold (R21). -/
def EFmt.decode : EFmt → Nat → FVal
  | .flt f, b => f.decode b
  | .int w, b => intVal (sgn w b)

/-- The value times 2^k, exactly (R24). -/
def FVal.scale (k : Int) : FVal → FVal
  | .fin n m e st => if m = 0 && !st then .fin n m e st else .fin n m (e + k) st
  | v => v

/-- The next state of the generator (R31). -/
def lfsrNext (u : BitVec 32) : BitVec 32 :=
  if u.getLsbD 0 then (u >>> 1) ^^^ 0x80200003 else u >>> 1

/-- A rounding: the mode, and the draw of the generator that stochastic rounding uses. -/
structure Rnd where
  mode : RMode
  u : BitVec 32
  deriving DecidableEq, Repr

/-- A magnitude rounded to a multiple of 2^q: the multiple and whether it was inexact. For a
marked magnitude `q` lies at least 33 above `e`, so the mark changes no comparison of R31. -/
def roundMag (r : Rnd) (neg : Bool) (m : Nat) (e : Int) (st : Bool) (q : Int) : Nat × Bool :=
  if q ≤ e then
    let k := m * 2 ^ (e - q).toNat
    (if st && (r.mode == .rup && !neg || r.mode == .rdn && neg) then k + 1 else k, st)
  else
    let d := (q - e).toNat
    let k := m / 2 ^ d
    let rem := m % 2 ^ d
    let up : Bool :=
      match r.mode with
      | .rne => decide (2 ^ d < 2 * rem) || (2 * rem == 2 ^ d && (st || k % 2 == 1))
      | .rtz => false
      | .rup => !neg && (rem != 0 || st)
      | .rdn => neg && (rem != 0 || st)
      | .stoch => decide (r.u.toNat < rem * 2 ^ 32 / 2 ^ d)
    (if up then k + 1 else k, rem != 0 || st)

/-- What a conversion does with the values a destination cannot hold: IEEE results, or the table
of R32 under FRM.SAT. -/
structure Conv where
  rnd : Rnd
  narrow : Bool
  sat : Bool
  deriving DecidableEq, Repr

/-- The IEEE overflow result of a mode is infinite (R32; stochastic acts as RNE). -/
def overInf (mode : RMode) (neg : Bool) : Bool :=
  match mode with
  | .rne => true
  | .stoch => true
  | .rtz => false
  | .rup => !neg
  | .rdn => neg

/-- The bits of an overflow (R32, R166). -/
def FFmt.overBits (f : FFmt) (c : Conv) (neg : Bool) : Nat :=
  match f.sp with
  | .none => f.signBit neg + f.maxBits
  | .nanOnly =>
    if c.sat || !overInf c.rnd.mode neg then f.signBit neg + f.maxBits else f.nanBits
  | .ieee =>
    if (c.narrow && c.sat) || !overInf c.rnd.mode neg then f.signBit neg + f.maxBits
    else f.signBit neg + f.infBits

/-- The quantum exponent at which a magnitude is rounded: its leading bit less the fraction bits,
and never below the least subnormal. -/
def FFmt.quantum (f : FFmt) (m : Nat) (e : Int) : Int :=
  if m = 0 then f.qmin else max ((Nat.log2 m : Int) + e - (f.mb : Int)) f.qmin

/-- A value encoded into a float format: bits and flags (R22, R31, R32, R33, R166). -/
def FFmt.encode (f : FFmt) (c : Conv) (v : FVal) : Nat × FlagSet :=
  match v with
  | .nan s =>
    (f.nanBits, if s || f.sp == .none then flagNV else 0)
  | .inf n =>
    match f.sp with
    | .ieee =>
      if c.narrow && c.sat then (f.signBit n + f.maxBits, flagNV) else (f.signBit n + f.infBits, 0)
    | .nanOnly => (if c.sat then f.signBit n + f.maxBits else f.nanBits, flagNV)
    | .none => (f.signBit n + f.maxBits, flagNV)
  | .fin n m e st =>
    if m = 0 && !st then (f.signBit n, 0)
    else
      let q := f.quantum m e
      let (k, inex) := roundMag c.rnd n m e st q
      let b := (q - f.qmin).toNat * 2 ^ f.mb + k
      if b > f.maxBits then (f.overBits c n, flagOF ||| flagNX)
      else (f.signBit n + b,
            if inex then (if b < 2 ^ f.mb then flagUF ||| flagNX else flagNX) else 0)

/-- A value rounded to an integer by the mode. -/
def roundInt (r : Rnd) : FVal → Int × Bool
  | .fin n m e st =>
    let (k, inex) := roundMag r n m e st 0
    (if n then -(k : Int) else (k : Int), inex)
  | _ => (0, false)

/-- A value converted into INT8 or INT4: round, then clamp (R32, R33). -/
def encodeInt (w : Nat) (c : Conv) (v : FVal) : Nat × FlagSet :=
  let hi : Int := (2 ^ (w - 1) : Nat) - 1
  let lo : Int := -(2 ^ (w - 1) : Nat)
  match v with
  | .nan _ => (0, flagNV)
  | .inf n => (wrapInt w (if n then lo else hi), flagNV)
  | .fin .. =>
    let (k, inex) := roundInt c.rnd v
    if k > hi then (wrapInt w hi, flagNV)
    else if k < lo then (wrapInt w lo, flagNV)
    else (wrapInt w k, if inex then flagNX else 0)

/-- A value encoded into an element format (R32, R33). -/
def EFmt.encode (f : EFmt) (c : Conv) (v : FVal) : Nat × FlagSet :=
  match f with
  | .flt g => g.encode c v
  | .int w => encodeInt w c v

/-- A rounding takes place for a finite value only: a NaN or an infinite result consumes no draw
(log 12 [DEDUCED]). -/
def FVal.draws : FVal → Bool
  | .fin .. => true
  | _ => false

/-! ### Exact arithmetic -/

/-- A signed exact sum of two unmarked finite magnitudes. -/
def sumFin (n1 : Bool) (m1 : Nat) (e1 : Int) (n2 : Bool) (m2 : Nat) (e2 : Int) : Int × Int :=
  let e := min e1 e2
  let a : Int := (m1 * 2 ^ (e1 - e).toNat : Nat)
  let b : Int := (m2 * 2 ^ (e2 - e).toNat : Nat)
  ((if n1 then -a else a) + (if n2 then -b else b), e)

/-- The NaN rule of R166 for two operands: canonical NaN, NV when one signals. -/
def nanOf (a b : FVal) : FVal × FlagSet :=
  (.nan false, if a.isSnan || b.isSnan then flagNV else 0)

/-- The exact sum, its sign of zero by the mode, and its flags (R166). -/
def addVal (mode : RMode) (a b : FVal) : FVal × FlagSet :=
  match a, b with
  | .fin n1 m1 e1 _, .fin n2 m2 e2 _ =>
    let (s, e) := sumFin n1 m1 e1 n2 m2 e2
    if s = 0 then
      (.zero (if m1 = 0 && m2 = 0 && n1 == n2 then n1 else mode == .rdn), 0)
    else (.fin (s < 0) s.natAbs e false, 0)
  | .inf n1, .inf n2 => if n1 == n2 then (.inf n1, 0) else (.nan false, flagNV)
  | .inf n, .fin .. => (.inf n, 0)
  | .fin .., .inf n => (.inf n, 0)
  | _, _ => nanOf a b

/-- The exact product and its flags (R166). -/
def mulVal (a b : FVal) : FVal × FlagSet :=
  match a, b with
  | .fin n1 m1 e1 _, .fin n2 m2 e2 _ => (.fin (n1 != n2) (m1 * m2) (e1 + e2) false, 0)
  | .inf n1, .inf n2 => (.inf (n1 != n2), 0)
  | .inf n1, .fin n2 m2 _ _ => if m2 = 0 then (.nan false, flagNV) else (.inf (n1 != n2), 0)
  | .fin n1 m1 _ _, .inf n2 => if m1 = 0 then (.nan false, flagNV) else (.inf (n1 != n2), 0)
  | _, _ => nanOf a b

/-- The exact c + a * b and its flags (R166): 0 times infinity is invalid even with c a quiet
NaN. -/
def fmaVal (mode : RMode) (a b c : FVal) : FVal × FlagSet :=
  if a.isSnan || b.isSnan || c.isSnan then (.nan false, flagNV)
  else
    let (p, fl) := mulVal a b
    if fl != 0 then (.nan false, fl)
    else if p.isNan || c.isNan then (.nan false, 0)
    else addVal mode c p

/-- The quotient of two magnitudes to at least 128 bits, and whether it is inexact. -/
def divMag (m1 m2 : Nat) : Nat × Int × Bool :=
  let s := 130 + Nat.log2 m2
  (m1 * 2 ^ s / m2, -(s : Int), m1 * 2 ^ s % m2 != 0)

/-- The exact quotient and its flags (R166). -/
def divVal (a b : FVal) : FVal × FlagSet :=
  match a, b with
  | .fin n1 m1 e1 _, .fin n2 m2 e2 _ =>
    if m2 = 0 then (if m1 = 0 then (.nan false, flagNV) else (.inf (n1 != n2), flagDZ))
    else if m1 = 0 then (.zero (n1 != n2), 0)
    else
      let (q, e, st) := divMag m1 m2
      (.fin (n1 != n2) q (e + e1 - e2) st, 0)
  | .inf _, .inf _ => (.nan false, flagNV)
  | .inf n1, .fin n2 .. => (.inf (n1 != n2), 0)
  | .fin n1 .., .inf n2 => (.zero (n1 != n2), 0)
  | _, _ => nanOf a b

/-- The square root of `n` rounded down, bit by bit from bit `k`. -/
def isqrtFrom (n : Nat) : Nat → Nat → Nat
  | 0, r => if (r + 1) * (r + 1) ≤ n then r + 1 else r
  | k + 1, r =>
    let t := r + 2 ^ (k + 1)
    isqrtFrom n k (if t * t ≤ n then t else r)

/-- The square root of `n` rounded down. -/
def isqrt (n : Nat) : Nat := isqrtFrom n (Nat.log2 n / 2 + 1) 0

/-- The exact square root and its flags (R166). -/
def sqrtVal (a : FVal) : FVal × FlagSet :=
  match a with
  | .nan s => (.nan false, if s then flagNV else 0)
  | .inf n => if n then (.nan false, flagNV) else (.inf false, 0)
  | .fin n m e _ =>
    if m = 0 then (.zero n, 0)
    else if n then (.nan false, flagNV)
    else
      let e' := if e % 2 = 0 then e else e - 1
      let m' := (if e % 2 = 0 then m else 2 * m) * 2 ^ 260
      let q := isqrt m'
      (.fin false q (e' / 2 - 130) (q * q != m'), 0)

/-- Whether a finite or infinite value is below another: -0 equals +0. -/
def ltVal (a b : FVal) : Bool :=
  match a, b with
  | .inf n1, .inf n2 => n1 && !n2
  | .inf n, .fin .. => n
  | .fin .., .inf n => !n
  | .fin n1 m1 e1 _, .fin n2 m2 e2 _ => decide ((sumFin n1 m1 e1 (!n2) m2 e2).1 < 0)
  | _, _ => false

/-- Whether two values are equal: +0 = -0, a NaN equals nothing. -/
def eqVal (a b : FVal) : Bool :=
  match a, b with
  | .inf n1, .inf n2 => n1 == n2
  | .fin n1 m1 e1 _, .fin n2 m2 e2 _ => (sumFin n1 m1 e1 (!n2) m2 e2).1 == 0
  | _, _ => false

/-- Minimum or maximum of R167: -0 below +0, a NaN loses to a number, NV for a signalling NaN. -/
def minmaxVal (isMax : Bool) (a b : FVal) : FVal × FlagSet :=
  let fl := if a.isSnan || b.isSnan then flagNV else 0
  let r :=
    if a.isNan then (if b.isNan then .nan false else b)
    else if b.isNan then a
    else if ltVal a b then (if isMax then b else a)
    else if ltVal b a then (if isMax then a else b)
    else if a.neg == isMax then b else a
  (r, fl)

/-- feq, flt and fle of R167: the answer and its flags. -/
def cmpVal (k : Nat) (a b : FVal) : Bool × FlagSet :=
  if a.isNan || b.isNan then
    (false, if k = 0 then (if a.isSnan || b.isSnan then flagNV else 0) else flagNV)
  else
    match k with
    | 0 => (eqVal a b, 0)
    | 1 => (ltVal a b, 0)
    | _ => (ltVal a b || eqVal a b, 0)

/-- fclass of R167: bits [4:0]. -/
def FFmt.classOf (f : FFmt) (bits : Nat) : Nat :=
  let c := match f.decode bits with
    | .nan s => if s then 5 else 4
    | .inf _ => 3
    | .fin _ m _ _ => if m = 0 then 0 else if m < 2 ^ f.mb then 1 else 2
  c + if bitOf bits (f.eb + f.mb) then 16 else 0

/-- fcvt.i and fcvt.iu: a value to a 64-bit integer (R168). -/
def toInt64 (signed : Bool) (r : Rnd) (v : FVal) : Nat × FlagSet :=
  let hi : Int := if signed then 2 ^ 63 - 1 else 2 ^ 64 - 1
  let lo : Int := if signed then -2 ^ 63 else 0
  match v with
  | .nan _ => (wrapInt 64 hi, flagNV)
  | .inf n => (wrapInt 64 (if n then lo else hi), flagNV)
  | .fin .. =>
    let (k, inex) := roundInt r v
    if k > hi then (wrapInt 64 hi, flagNV)
    else if k < lo then (wrapInt 64 lo, flagNV)
    else (wrapInt 64 k, if inex then flagNX else 0)

/-- The exponent of the largest finite values of a format. -/
def FFmt.emax (f : FFmt) : Int :=
  (2 ^ f.eb : Nat) - (if f.sp == .ieee then 2 else 1) - (f.bias : Int)

/-- Whether every value of the source format is a value of the destination: a conversion that
rounds nothing (R168, R179). -/
def holdsAll (dst src : EFmt) : Bool :=
  match dst, src with
  | .flt d, .flt s =>
    d == s || (d.sp == .ieee && d.mb ≥ s.mb && d.qmin ≤ s.qmin && d.emax ≥ s.emax)
  | .flt d, .int w => w ≤ d.mb + 1
  | .int a, .int b => a == b
  | .int _, .flt _ => false

/-- The precision P of an FPU word (R49) or the CT of a vector word as a format. -/
def precFmt : Nat → FFmt
  | 0 => fp32 | 1 => fp64 | 2 => fp16 | _ => bf16

/-- The compute type CT (R51) as a format. -/
def ctFmt : Nat → FFmt
  | 0 => fp64 | 1 => fp32 | 2 => fp16 | _ => bf16

/-- The format code of a float type: FP64 1, FP32 2, FP16 3, BF16 4. -/
def ctCode (ct : Nat) : Nat := ct + 1

end Sys2Proof.Machine
end

