-- ==== Sys2Proof/Machine/Store.lean ====
section
/-! DEFINITION. Sparse storage: maps from numbers to values as sorted lists, and byte memories as
lists of cells in one canonical form (addresses strictly rising, no entry equal to what an
unlisted address reads as). -/

namespace Sys2Proof.Machine

/-- A sparse map: keys strictly rising; an unlisted key reads as a default the reader gives. -/
abbrev SMap (α : Type) := List (Nat × α)

/-- The value at `k`, or `d` when `k` is not listed. -/
def smGet {α : Type} (d : α) : SMap α → Nat → α
  | [], _ => d
  | (j, v) :: m, k => if j = k then v else smGet d m k

/-- The entry at `k`, if it is listed. -/
def smFind {α : Type} : SMap α → Nat → Option α
  | [], _ => none
  | (j, v) :: m, k => if j = k then some v else smFind m k

/-- The map with `v` at `k`. -/
def smSet {α : Type} : SMap α → Nat → α → SMap α
  | [], k, v => [(k, v)]
  | (j, w) :: m, k, v =>
    if j < k then (j, w) :: smSet m k v
    else if j = k then (k, v) :: m
    else (k, v) :: (j, w) :: m

/-- The map without an entry at `k`. -/
def smDel {α : Type} (m : SMap α) (k : Nat) : SMap α := m.filter (fun e => e.1 != k)

/-- The map with the entry at `k` changed by `f`, starting from `d` when it is not listed. -/
def smUpd {α : Type} (d : α) (m : SMap α) (k : Nat) (f : α → α) : SMap α :=
  smSet m k (f (smGet d m k))

/-- The keys in rising order. -/
def smKeys {α : Type} (m : SMap α) : List Nat := m.map (·.1)

/-- Every listed value changed by `f`. -/
def smMap {α : Type} (f : Nat → α → α) (m : SMap α) : SMap α := m.map (fun e => (e.1, f e.1 e.2))

/-- A byte memory: (address, byte) cells in canonical form. -/
abbrev Memory := List Host.Cell

/-- The byte at `a`, `dflt a` when it is not listed. -/
def cellRead (dflt : Nat → Byte) : Memory → Nat → Byte
  | [], a => dflt a
  | (k, b) :: m, a => if k = a then b else cellRead dflt m a

/-- The memory with `b` at `a`; an entry equal to `dflt a` is not listed. -/
def cellWrite (dflt : Nat → Byte) : Memory → Nat → Byte → Memory
  | [], a, b => if b = dflt a then [] else [(a, b)]
  | (k, c) :: m, a, b =>
    if k < a then (k, c) :: cellWrite dflt m a b
    else if k = a then (if b = dflt a then m else (a, b) :: m)
    else if b = dflt a then (k, c) :: m else (a, b) :: (k, c) :: m

/-- The canonical form of a memory: no listed byte equals its default and addresses rise. -/
def cellsWf (dflt : Nat → Byte) : Memory → Bool
  | [] => true
  | [(a, b)] => b != dflt a
  | (a, b) :: (a', b') :: m => b != dflt a && decide (a < a') && cellsWf dflt ((a', b') :: m)

/-- SRAM reads zero where nothing has been written (R352 step 3). -/
def zeroByte : Nat → Byte := fun _ => 0

/-- One byte of an SRAM. -/
def memRead (m : Memory) (a : Nat) : Byte := cellRead zeroByte m a

/-- An SRAM with one byte written. -/
def memWrite (m : Memory) (a : Nat) (b : Byte) : Memory := cellWrite zeroByte m a b

/-- The canonical form of an SRAM memory. -/
def Memory.wf (m : Memory) : Bool := cellsWf zeroByte m

/-- `n` bytes from `a`, lowest address first. -/
def readBytes (m : Memory) (a : Nat) : Nat → List Byte
  | 0 => []
  | n + 1 => memRead m a :: readBytes m (a + 1) n

/-- The bytes written from `a` upward. -/
def writeBytes (m : Memory) (a : Nat) : List Byte → Memory
  | [] => m
  | b :: bs => writeBytes (memWrite m a b) (a + 1) bs

/-- Bytes as a little-endian number (R3). -/
def bytesNat : List Byte → Nat
  | [] => 0
  | b :: bs => b.toNat + 256 * bytesNat bs

/-- The low `n` bytes of a number, little-endian (R3). -/
def natBytes : Nat → Nat → List Byte
  | 0, _ => []
  | n + 1, v => BitVec.ofNat 8 v :: natBytes n (v / 256)

/-- `n` bytes from `a` as a little-endian number (R3). -/
def readLE (m : Memory) (a n : Nat) : Nat := bytesNat (readBytes m a n)

/-- The low `n` bytes of `v` written from `a`, little-endian (R3). -/
def writeLE (m : Memory) (a n v : Nat) : Memory := writeBytes m a (natBytes n v)

/-- The cells of `[a, a+n)`, moved so that `a` becomes `b`. -/
def cellSlice (m : Memory) (a n b : Nat) : Memory :=
  (m.filter (fun c => a ≤ c.1 && c.1 < a + n)).map (fun c => (c.1 - a + b, c.2))

/-- The memory with every byte of `[a, a+n)` zero. -/
def clearRange (m : Memory) (a n : Nat) : Memory := m.filter (fun c => !(a ≤ c.1 && c.1 < a + n))

/-- Each cell of `cs` written. -/
def writeCells (m : Memory) (cs : Memory) : Memory := cs.foldl (fun m c => memWrite m c.1 c.2) m

/-- The memory `dst` with `[b, b+n)` replaced by the bytes `[a, a+n)` of `src`. -/
def copyRange (src : Memory) (a n : Nat) (dst : Memory) (b : Nat) : Memory :=
  writeCells (clearRange dst b n) (cellSlice src a n b)

/-- `n` chunks of `w` bits of `v`, lowest first. -/
def chunks (w : Nat) : Nat → Nat → List Nat
  | 0, _ => []
  | n + 1, v => v % 2 ^ w :: chunks w n (v / 2 ^ w)

/-- Values of `w` bits packed, the first lowest. -/
def packChunks (w : Nat) : List Nat → Nat
  | [] => 0
  | v :: vs => v % 2 ^ w + 2 ^ w * packChunks w vs

/-- `f n`, with `n` evaluated first (no other meaning: `strictN_eq` under Laws). -/
def strictN {α : Type} (n : Nat) (f : Nat → α) : α :=
  match n with
  | 0 => f 0
  | k + 1 => f (k + 1)

/-- `f l`, with the list and its numbers evaluated first. -/
def strictL {α : Type} (l : List Nat) (f : List Nat → α) : α :=
  match l with
  | [] => f []
  | x :: xs => strictN x fun v => strictL xs fun vs => f (v :: vs)

/-- A list without its element `n`. -/
def dropAt {α : Type} : List α → Nat → List α
  | [], _ => []
  | _ :: l, 0 => l
  | x :: l, n + 1 => x :: dropAt l n

/-- A number put into an ascending list, before those of an equal key. -/
def insertBy (key : Nat → Nat) (n : Nat) : List Nat → List Nat
  | [] => [n]
  | m :: ms => if key m < key n then m :: insertBy key n ms else n :: m :: ms

end Sys2Proof.Machine
end

