-- ==== Sys2Proof/Machine/Hbm.lean ====
section
/-! DEFINITION. HBM4E: where a sector of a frame lies (R64, R65, R67), the Reed-Solomon codes that
guard it (R69 to R71), and reads and writes of granules (R73, R74). The storage is a byte memory:
data byte `o` of pseudo-channel `g` at `g * 2^30 + o`, metadata byte `m` of burst `b` at
`2^40 + (g * 2^25 + b) * 8 + m`. -/

namespace Sys2Proof.Machine

/-- CRC-32C of one byte into the running value. -/
def crcBits : Nat → Nat → Nat
  | 0, c => c
  | n + 1, c => crcBits n (if c % 2 = 1 then (c / 2) ^^^ 0x82F63B78 else c / 2)

/-- CRC-32C of a list of bytes (R69). -/
def crc32c (bs : List Nat) : Nat :=
  bs.foldl (fun c b => crcBits 8 (c ^^^ (b % 256))) 0xFFFFFFFF ^^^ 0xFFFFFFFF

/-- The low `n` bytes of a number as numbers, little-endian. -/
def nbytes : Nat → Nat → List Nat
  | 0, _ => []
  | n + 1, v => v % 256 :: nbytes n (v / 256)

/-- Bytes as a little-endian number. -/
def ofNbytes : List Nat → Nat
  | [] => 0
  | b :: bs => b % 256 + 256 * ofNbytes bs

/-- ADRCHK of sector `i` of frame `f`, as four bytes (R69). -/
def adrchk (f i : Nat) : List Nat := nbytes 4 (crc32c (nbytes 8 (f * 2 ^ 11 + i)))

/-! ### GF(2^8) and the codes -/

/-- A product in GF(2^8), eight steps. -/
def gfMulN : Nat → Nat → Nat → Nat
  | 0, _, _ => 0
  | n + 1, a, b =>
    strictN (if a < 128 then a * 2 else (a * 2) ^^^ 0x11D) fun a' => strictN (b / 2) fun b' =>
      (if b % 2 = 1 then a else 0) ^^^ gfMulN n a' b'

/-- A product in GF(2^8) modulo x^8 + x^4 + x^3 + x^2 + 1 (R69). -/
def gfMul (a b : Nat) : Nat :=
  strictN a fun a => strictN b fun b => if a = 0 || b = 0 then 0 else gfMulN 8 a b

/-- A power in GF(2^8). -/
def gfPow (a : Nat) : Nat → Nat
  | 0 => 1
  | n + 1 => gfMul a (gfPow a n)

/-- An inverse in GF(2^8): the 254th power. -/
def gfInv (a : Nat) : Nat := gfPow a 254

/-- A polynomial's value after coefficients worth `v`, the rest from the highest degree down. -/
def gfEvalFrom (x : Nat) : Nat → List Nat → Nat
  | v, [] => v
  | v, c :: cs => strictN (gfMul v x ^^^ c) fun v => gfEvalFrom x v cs

/-- A polynomial's value, coefficients from the highest degree down. -/
def gfEval (x : Nat) (p : List Nat) : Nat := strictN x fun x => gfEvalFrom x 0 p

/-- The syndromes of a codeword: its values at alpha^0 to alpha^(r-1) (R69). -/
def rsSyndromes (r : Nat) (cw : List Nat) : List Nat :=
  strictL ((List.range r).map (fun i => gfEval (gfPow 2 i) cw)) id

/-- A product of polynomials, coefficients from degree 0 up, cut to degree below `n`. -/
def gfPolyMul (n : Nat) (p q : List Nat) : List Nat :=
  (List.range n).map fun k =>
    (List.range (k + 1)).foldl (fun v i => v ^^^ gfMul (p.getD i 0) (q.getD (k - i) 0)) 0

/-- The generator's coefficients below the leading one, from degree r - 1 down (R69). -/
def rsGen (r : Nat) : List Nat :=
  let up := (List.range r).foldl (fun g i => gfPolyMul (g.length + 1) g [gfPow 2 i, 1]) [1]
  (up.take r).reverse

/-- One step of the division that gives the check bytes. -/
def rsDivStep (gen reg : List Nat) (d : Nat) : List Nat :=
  strictN (d ^^^ reg.headD 0) fun fb =>
    strictL (List.zipWith (fun a g => a ^^^ gfMul fb g) (reg.drop 1 ++ [0]) gen) id

/-- The check bytes 0 to r - 1 of the data bytes (R69). -/
def rsChecks (r : Nat) (data : List Nat) : List Nat :=
  strictL (rsGen r) fun gen => data.foldl (rsDivStep gen) (List.replicate r 0)

/-- The degree of a polynomial from degree 0 up. -/
def gfDeg (p : List Nat) : Nat :=
  (List.range p.length).foldl (fun d i => if p.getD i 0 = 0 then d else i) 0

/-- State of the Berlekamp-Massey iteration: locator, auxiliary polynomial, length. -/
abbrev BmState := List Nat × List Nat × Nat

/-- One Berlekamp-Massey step at index `k`, with `e` erasures. -/
def bmStep (n e : Nat) (syn : List Nat) (st : BmState) (k : Nat) : BmState :=
  let (lam, b, l) := st
  let b := (0 :: b).take n
  let d := (List.range (k + 1)).foldl
    (fun v i => v ^^^ gfMul (lam.getD i 0) (syn.getD (k - i) 0)) 0
  if d = 0 then (lam, b, l)
  else
    let lam' := (List.range n).map (fun i => lam.getD i 0 ^^^ gfMul d (b.getD i 0))
    if 2 * l ≤ k + e then (lam', lam.map (gfMul (gfInv d)), k + 1 + e - l) else (lam', b, l)

/-- A codeword decoded with the byte positions `er` erased: the corrected codeword, or none when
no codeword lies within 2 errors + erasures at most `r` (R70). -/
def rsDecode (r : Nat) (er : List Nat) (cw : List Nat) : Option (List Nat) :=
  strictL cw fun cw => strictL (rsSyndromes r cw) fun syn =>
  if syn.all (· == 0) then some cw
  else
    let n := cw.length
    let m := r + 1
    let loc := fun idx => gfPow 2 (n - 1 - idx)
    let gam := er.foldl (fun g i => gfPolyMul m g [1, loc i]) [1]
    let e := er.length
    let gam := (List.range m).map (fun i => gam.getD i 0)
    let (lam, _, l) := (List.range' e (r - e)).foldl (bmStep m e syn) (gam, gam, e)
    let om := gfPolyMul r syn lam
    let errs := (List.range n).filterMap fun idx =>
      let xi := gfInv (loc idx)
      if gfEval xi lam.reverse = 0 then
        let der := gfEval xi (((List.range m).map
          (fun i => if i % 2 = 0 then lam.getD (i + 1) 0 else 0)).reverse)
        some (idx, gfMul (loc idx) (gfMul (gfEval xi om.reverse) (gfInv der)))
      else none
    let fixed := (List.range n).map fun idx =>
      cw.getD idx 0 ^^^ ((errs.find? (fun p => p.1 == idx)).map (·.2)).getD 0
    let extra := (errs.filter (fun p => !er.contains p.1)).length
    if errs.length = gfDeg lam && l = gfDeg lam && 2 * extra + e ≤ r
        && (rsSyndromes r fixed).all (· == 0) then some fixed
    else none

/-! ### Places -/

/-- Pseudo-channels per granule (R66). -/
def granP (gran : Nat) : Nat := 2 ^ gran

/-- The bytes of a granule (R66). -/
def granBytes (gran : Nat) : Nat := 32 * granP gran

/-- The pseudo-channel and its byte offset of sector `i` of frame `f` (R67). -/
def sectorPlace (gran f i : Nat) : Nat × Nat :=
  let p := granP gran
  let n := 1024 / p
  let j := i / p
  (((j + f) % n) * p + i % p, 64 * f + 32 * (j / n))

/-- The home channel of a granule: its number in the package (R67). -/
def homeChannel (gran f i : Nat) : Nat :=
  let p := granP gran
  ((i / p + f) % (1024 / p)) * p / 2

/-- The storage key of a data byte. -/
def dataKey (g o : Nat) : Nat := g * 2 ^ 30 + o

/-- The storage key of a metadata byte of the burst that holds data offset `o`. -/
def metaKey (g o m : Nat) : Nat := 2 ^ 40 + (g * 2 ^ 25 + o / 32) * 8 + m

/-- What storage holds where nothing has been written: zeros encoded under S32 (R352 step 4). -/
def hbmDefault (k : Nat) : Byte :=
  if k < 2 ^ 40 then 0
  else
    let m := k % 8
    if m < 4 then 0
    else
      let b := (k - 2 ^ 40) / 8
      let g := b / 2 ^ 25
      let f := b % 2 ^ 25 / 2
      let i := 1024 * (b % 2) + (g + 1024 - f % 1024) % 1024
      BitVec.ofNat 8 ((adrchk f i).getD (m - 4) 0)

/-- `n` storage bytes from a key. -/
def hbmBytes (h : Memory) (k n : Nat) : List Nat :=
  (List.range n).map (fun i => (cellRead hbmDefault h (k + i)).toNat)

/-- Storage with bytes written from a key. -/
def hbmPut (h : Memory) (k : Nat) (bs : List Nat) : Memory :=
  match bs with
  | [] => h
  | b :: bs =>
    strictN b fun v => strictN k fun k =>
      hbmPut (cellWrite hbmDefault h k (BitVec.ofNat 8 v)) (k + 1) bs

/-- A granule as the controller holds it: per sector its 32 bytes and how it was delivered: 0 clean,
1 corrected, 2 poisoned as stored, 3 uncorrectable; 2 and 3 are delivered poisoned (R70, R71). -/
abbrev Granule := List (List Nat × Nat)

/-- Bytes a codeword takes from each sector. -/
def cwBytes (gran : Nat) : Nat := if gran < 2 then 32 else 64 / granP gran

/-- Codewords per granule. -/
def cwCount (gran : Nat) : Nat := 32 / cwBytes gran

/-- Check bytes per codeword (R66). -/
def cwChecks (gran : Nat) : Nat := if gran = 0 then 4 else if gran = 1 then 8 else 16

/-- The check bytes of codeword `c` taken out of the metadata of the granule's bursts (R69). -/
def checksOf (gran c : Nat) (meta_ : List (List Nat)) : List Nat :=
  if gran < 2 then (meta_.map (fun m => m.take 4)).flatten
  else
    let w := 16 / granP gran
    (List.range 16).map (fun k => (meta_.getD (k / w) []).getD (c * w + k % w) 0)

/-- The metadata bytes of the granule's bursts from its codewords' checks (R69). -/
def metaOf (gran f i0 : Nat) (checks : List (List Nat)) : List (List Nat) :=
  (List.range (granP gran)).map fun p =>
    if gran < 2 then ((checks.getD 0 []).drop (4 * p)).take 4 ++ adrchk f (i0 + p)
    else
      let w := 16 / granP gran
      (List.range 8).map (fun m => (checks.getD (m / w) []).getD (p * w + m % w) 0)

/-- The places in a codeword of the bytes that lie on pseudo-channel `q` of its granule, of `n` data
bytes (R69). -/
def cwPlaces (gran n q : Nat) : List Nat :=
  let per := cwBytes gran
  let ck := if gran < 2 then 4 else 16 / granP gran
  (List.range per).map (· + q * per) ++ (List.range ck).map (· + n + q * ck)

/-- What the decoding of a codeword gives: its data, how it is delivered (0 to 3 as in `Granule`), and
the pseudo-channels of the granule whose bytes an error touched: those corrected, or every one where
the codeword is uncorrectable (log 38 [DESIGN CHOICE]). -/
structure Decoded where
  data : List Nat
  code : Nat
  hit : List Nat
  deriving DecidableEq, Repr

/-- A codeword that decodes to `w`. -/
def cwFixed (gran : Nat) (cw w : List Nat) (n : Nat) : Decoded :=
  let hit := (List.range (granP gran)).filter fun q =>
    (cwPlaces gran n q).any (fun i => cw.getD i 0 != w.getD i 0)
  ⟨w.take n, if hit.isEmpty then 0 else 1, hit⟩

/-- One codeword decoded (R70, R71). A codeword that step 1 fails is tested for the poison mark before
the retry of step 3, so that one stored as poisoned never comes out corrected. What a pseudo-channel
that the stack's lane repair reports as lost changes is not stated: the model holds no such report
(log 38 [DESIGN CHOICE]). -/
def cwDecode (gran : Nat) (data checks : List Nat) : Decoded :=
  let r := cwChecks gran
  let n := data.length
  let cw := data ++ checks
  match rsDecode r [] cw with
  | some w => cwFixed gran cw w n
  | none =>
    match rsDecode r [] (data ++ checks.map (· ^^^ 0x5A)) with
    | some w => ⟨w.take n, 2, []⟩
    | none =>
      let all := List.range (granP gran)
      let trials := if gran < 3 then [] else all.filterMap fun q => rsDecode r (cwPlaces gran n q) cw
      match trials with
      | [w] => cwFixed gran cw w n
      | _ => ⟨data, 3, all⟩

/-- An error that a controller met in a granule: 1 corrected or 3 uncorrectable, and the sectors of the
granule that it touched, each on a pseudo-channel of its own (R71). -/
abbrev MemError := Nat × List Nat

/-- A granule read with the errors met: sector `i0` is its first (R70). -/
def granDecode (h : Memory) (gran f i0 : Nat) : Granule × List MemError :=
  let p := granP gran
  let places := (List.range p).map (fun k => sectorPlace gran f (i0 + k))
  let raw := places.map (fun q => hbmBytes h (dataKey q.1 q.2) 32)
  let meta_ := places.map (fun q => hbmBytes h (metaKey q.1 q.2 0) 8)
  let per := cwBytes gran
  let cws := (List.range (cwCount gran)).map fun c =>
    cwDecode gran ((raw.map (fun b => (b.drop (c * per)).take per)).flatten) (checksOf gran c meta_)
  let badAdr := fun k => gran < 2 && (meta_.getD k []).drop 4 != adrchk f (i0 + k)
  ((List.range p).map fun k =>
    let bytes := (cws.map (fun w => (w.data.drop (k * per)).take per)).flatten
    (bytes, if badAdr k then 3 else (cws.map (·.code)).foldl max 0),
   (cws.filter (fun w => w.code == 1 || w.code == 3)).map (fun w => (w.code, w.hit))
     ++ ((List.range p).filter badAdr).map (fun k => (3, [k])))

/-- A granule read (R70). -/
def granRead (h : Memory) (gran f i0 : Nat) : Granule := (granDecode h gran f i0).1

/-- A granule written: a poisoned sector poisons each codeword it takes part in (R69, R71). -/
def granWrite (h : Memory) (gran f i0 : Nat) (g : Granule) : Memory :=
  let per := cwBytes gran
  let poison := g.any (fun s => 2 ≤ s.2)
  let checks := (List.range (cwCount gran)).map fun c =>
    let ck := rsChecks (cwChecks gran) ((g.map (fun s => (s.1.drop (c * per)).take per)).flatten)
    if poison then ck.map (· ^^^ 0x5A) else ck
  let meta_ := metaOf gran f i0 checks
  (List.range (granP gran)).foldl (fun h k =>
    let q := sectorPlace gran f (i0 + k)
    hbmPut (hbmPut h (dataKey q.1 q.2) ((g.getD k ([], 0)).1)) (metaKey q.1 q.2 0)
      (meta_.getD k [])) h

/-- Sector `i` of frame `f`: its bytes as a number and how it is delivered. -/
def sectorRead (h : Memory) (gran f i : Nat) : Nat × Nat :=
  let p := granP gran
  let s := (granRead h gran f (i / p * p)).getD (i % p) ([], 0)
  (ofNbytes s.1, s.2)

/-- Whole sectors of one granule written: `w` gives the new bytes of some of its sectors, the
others are read, merged and encoded again (R73). A granule all of whose sectors are written is not
read. -/
def sectorsWrite (h : Memory) (gran f i0 : Nat) (w : List (Nat × Nat × Bool)) : Memory :=
  let p := granP gran
  let old : Granule :=
    if w.length = p then List.replicate p ([], 0) else granRead h gran f i0
  granWrite h gran f i0 ((List.range p).map fun k =>
    match w.find? (fun e => e.1 == k) with
    | some (_, v, b) => (nbytes 32 v, if b then 2 else 0)
    | none => old.getD k ([], 0))

/-- Bytes `[b, b + n)` of a number of bytes replaced. -/
def putBytes (v b n x : Nat) : Nat :=
  v % 2 ^ (8 * b) + (x % 2 ^ (8 * n)) * 2 ^ (8 * b) + v / 2 ^ (8 * (b + n)) * 2 ^ (8 * (b + n))

/-- `n` bytes at offset `b` of a number of bytes. -/
def getBytes (v b n : Nat) : Nat := v / 2 ^ (8 * b) % 2 ^ (8 * n)

/-- `n` bytes within one sector at physical address `pa`: value and poison. -/
def physRead (h : Memory) (gran pa n : Nat) : Nat × Bool :=
  let (v, b) := sectorRead h gran (pa / 65536) (pa % 65536 / 32)
  (getBytes v (pa % 32) n, 2 ≤ b)

/-- `n` bytes within one sector written at physical address `pa`. -/
def physWrite (h : Memory) (gran pa n x : Nat) : Memory :=
  let f := pa / 65536
  let i := pa % 65536 / 32
  let p := granP gran
  let (v, b) := sectorRead h gran f i
  sectorsWrite h gran f (i / p * p) [(i % p, putBytes v (pa % 32) n x, 2 ≤ b && n < 32)]

/-- The doubleword at `pa` under S32, zero address beyond memory. -/
def phys64 (h : Memory) (pa : Nat) : Nat := (physRead h 0 pa 8).1

/-- The doubleword at `pa` written under S32. -/
def physPut64 (h : Memory) (pa v : Nat) : Memory := physWrite h 0 pa 8 v

end Sys2Proof.Machine
end

