-- ==== Sys2Proof/Config.lean ====
section
/-! DEFINITION. What an implementation fixes and the spec leaves open: free values. None of the
constants below has a body, so no proof can see a value of one; a statement holds whatever they
are. Each is named in an assumption log entry. -/

namespace Sys2Proof.Config

/-- A free choice of the device, one per draw (R8: "may" marks a choice of the device; R391:
variable latencies). Log 4 [DESIGN CHOICE]. -/
opaque choice : Nat → Nat

/-- A free byte, one per draw: a byte the device does not define (R109, two mappings of one
frame; R327, the records only the device reads). Log 6 [DESIGN CHOICE]. -/
opaque freeByte : Nat → Byte

/-- The first doubleword of the stagehand section of the area that the n-th save writes: bytes that
only the device reads (R327). Log 21 [DESIGN CHOICE]. -/
opaque saveKey : Nat → BitVec 64

/-- Whether the PUF's helper-data check passes at the n-th start (R352 step 1). Log 8 [DESIGN CHOICE]. -/
opaque pufOk : Nat → Bool

/-- SHA-256 of the identity public key that the PUF's root seed gives (R352, R357). Log 8 [DESIGN CHOICE]. -/
opaque identityHash : Nat

/-- The modulus and public exponent of the Waleno record key (R358). Log 8 [DESIGN CHOICE]. -/
opaque recordKey : Nat

/-- See `recordKey`. -/
opaque recordExp : Nat

/-- The modulus and private exponent of the identity key that the PUF's root seed gives (R352, R359).
Log 8 [DESIGN CHOICE]. -/
opaque identityKey : Nat

/-- See `identityKey`. -/
opaque identityExp : Nat

/-- Whether this package is an XDL880-M, on a module with power and coolant sensors (R362). Log 8
[DESIGN CHOICE]. -/
opaque onModule : Bool

/-- Whether a tile passes the self-test of the n-th start (R352 step 3). Log 8 [DESIGN CHOICE]. -/
opaque tileOk : Nat → Nat → Bool

/-- Whether the SRAM arrays outside the tiles pass the self-test of the n-th start (R352 step 3). Log 8 [DESIGN CHOICE]. -/
opaque bistOk : Nat → Bool

/-- Whether HBM4E training and the memory test of the n-th start pass (R352 step 4). Log 8 [DESIGN CHOICE]. -/
opaque trainOk : Nat → Bool

/-- Whether the memory test of the n-th start passes (R352 step 4). Log 8 [DESIGN CHOICE]. -/
opaque memTestOk : Nat → Bool

/-- Whether a flash-volume handle is one that the control node issued to a partition (R79). Log 8 [DESIGN CHOICE]. -/
opaque volumeOk : Nat → Nat → Bool

end Sys2Proof.Config
end

