-- ==== Sys2Proof/Syntax.lean ====
section
/-! DEFINITION. The instruction syntax: one constructor per row of the operation table. A word
keeps the field values of its format (R38); a device step (a row that has no word) names the
pending item it acts on by number. -/

namespace Sys2Proof

/-- An instruction word with its fields as they stand in it (`stl` is STL[25:23]), or a step of
the device. Field values a chapter marks reserved inside a row are kept and trap ILLEGAL (R56)
in the meaning. -/
inductive Instr where
  /-- ADD (R158). Sets x[rd] to the sum of two registers, modulo 2^64. -/
  | add (stl : BitVec 3) (rd : BitVec 5) (ra : BitVec 5) (rb : BitVec 5)
  /-- SUB (R158). Sets x[rd] to the difference of two registers, modulo 2^64. -/
  | sub (stl : BitVec 3) (rd : BitVec 5) (ra : BitVec 5) (rb : BitVec 5)
  /-- AND (R158). Sets x[rd] to the bitwise AND of two registers. -/
  | and (stl : BitVec 3) (rd : BitVec 5) (ra : BitVec 5) (rb : BitVec 5)
  /-- OR (R158). Sets x[rd] to the bitwise OR of two registers. -/
  | or (stl : BitVec 3) (rd : BitVec 5) (ra : BitVec 5) (rb : BitVec 5)
  /-- XOR (R158). Sets x[rd] to the bitwise XOR of two registers. -/
  | xor (stl : BitVec 3) (rd : BitVec 5) (ra : BitVec 5) (rb : BitVec 5)
  /-- ANDN (R158). Sets x[rd] to a AND NOT b. -/
  | andn (stl : BitVec 3) (rd : BitVec 5) (ra : BitVec 5) (rb : BitVec 5)
  /-- ORN (R158). Sets x[rd] to a OR NOT b. -/
  | orn (stl : BitVec 3) (rd : BitVec 5) (ra : BitVec 5) (rb : BitVec 5)
  /-- SLL (R158). Shifts a left by b[5:0]. -/
  | sll (stl : BitVec 3) (rd : BitVec 5) (ra : BitVec 5) (rb : BitVec 5)
  /-- SRL (R158). Shifts a right logically by b[5:0]. -/
  | srl (stl : BitVec 3) (rd : BitVec 5) (ra : BitVec 5) (rb : BitVec 5)
  /-- SRA (R158). Shifts a right arithmetically by b[5:0]. -/
  | sra (stl : BitVec 3) (rd : BitVec 5) (ra : BitVec 5) (rb : BitVec 5)
  /-- ROL (R158). Rotates a left by b[5:0]. -/
  | rol (stl : BitVec 3) (rd : BitVec 5) (ra : BitVec 5) (rb : BitVec 5)
  /-- ROR (R158). Rotates a right by b[5:0]. -/
  | ror (stl : BitVec 3) (rd : BitVec 5) (ra : BitVec 5) (rb : BitVec 5)
  /-- SLT (R158). Sets x[rd] to 1 when a is below b, signed. -/
  | slt (stl : BitVec 3) (rd : BitVec 5) (ra : BitVec 5) (rb : BitVec 5)
  /-- SLTU (R158). Sets x[rd] to 1 when a is below b, unsigned. -/
  | sltu (stl : BitVec 3) (rd : BitVec 5) (ra : BitVec 5) (rb : BitVec 5)
  /-- SEQ (R158). Sets x[rd] to 1 when a equals b. -/
  | seq (stl : BitVec 3) (rd : BitVec 5) (ra : BitVec 5) (rb : BitVec 5)
  /-- SNE (R158). Sets x[rd] to 1 when a differs from b. -/
  | sne (stl : BitVec 3) (rd : BitVec 5) (ra : BitVec 5) (rb : BitVec 5)
  /-- MIN (R158). Sets x[rd] to the signed minimum. -/
  | min (stl : BitVec 3) (rd : BitVec 5) (ra : BitVec 5) (rb : BitVec 5)
  /-- MAX (R158). Sets x[rd] to the signed maximum. -/
  | max (stl : BitVec 3) (rd : BitVec 5) (ra : BitVec 5) (rb : BitVec 5)
  /-- MINU (R158). Sets x[rd] to the unsigned minimum. -/
  | minu (stl : BitVec 3) (rd : BitVec 5) (ra : BitVec 5) (rb : BitVec 5)
  /-- MAXU (R158). Sets x[rd] to the unsigned maximum. -/
  | maxu (stl : BitVec 3) (rd : BitVec 5) (ra : BitVec 5) (rb : BitVec 5)
  /-- CLZ (R158). Counts the leading zero bits of a. -/
  | clz (stl : BitVec 3) (rd : BitVec 5) (ra : BitVec 5)
  /-- CTZ (R158). Counts the trailing zero bits of a. -/
  | ctz (stl : BitVec 3) (rd : BitVec 5) (ra : BitVec 5)
  /-- POPC (R158). Counts the 1 bits of a. -/
  | popc (stl : BitVec 3) (rd : BitVec 5) (ra : BitVec 5)
  /-- BSWAP (R158). Reverses the byte order of a. -/
  | bswap (stl : BitVec 3) (rd : BitVec 5) (ra : BitVec 5)
  /-- SEXTB (R158). Sign-extends a[7:0]. -/
  | sextb (stl : BitVec 3) (rd : BitVec 5) (ra : BitVec 5)
  /-- SEXTH (R158). Sign-extends a[15:0]. -/
  | sexth (stl : BitVec 3) (rd : BitVec 5) (ra : BitVec 5)
  /-- SEXTW (R158). Sign-extends a[31:0]. -/
  | sextw (stl : BitVec 3) (rd : BitVec 5) (ra : BitVec 5)
  /-- ZEXTW (R158). Zero-extends a[31:0]. -/
  | zextw (stl : BitVec 3) (rd : BitVec 5) (ra : BitVec 5)
  /-- ADDI (R159). Adds a sign-extended 13-bit immediate. -/
  | addi (stl : BitVec 3) (rd : BitVec 5) (ra : BitVec 5) (imm : BitVec 13)
  /-- ANDI (R159). ANDs a sign-extended immediate. -/
  | andi (stl : BitVec 3) (rd : BitVec 5) (ra : BitVec 5) (imm : BitVec 13)
  /-- ORI (R159). ORs a sign-extended immediate. -/
  | ori (stl : BitVec 3) (rd : BitVec 5) (ra : BitVec 5) (imm : BitVec 13)
  /-- XORI (R159). XORs a sign-extended immediate. -/
  | xori (stl : BitVec 3) (rd : BitVec 5) (ra : BitVec 5) (imm : BitVec 13)
  /-- SLTI (R159). Signed compare against an immediate. -/
  | slti (stl : BitVec 3) (rd : BitVec 5) (ra : BitVec 5) (imm : BitVec 13)
  /-- SLTIU (R159). Unsigned compare against the sign-extended immediate. -/
  | sltiu (stl : BitVec 3) (rd : BitVec 5) (ra : BitVec 5) (imm : BitVec 13)
  /-- SLLI (R159). Shifts left by an immediate amount. -/
  | slli (stl : BitVec 3) (rd : BitVec 5) (ra : BitVec 5) (amt : BitVec 6)
  /-- SRLI (R159). Shifts right logically by an immediate amount. -/
  | srli (stl : BitVec 3) (rd : BitVec 5) (ra : BitVec 5) (amt : BitVec 6)
  /-- SRAI (R159). Shifts right arithmetically by an immediate amount. -/
  | srai (stl : BitVec 3) (rd : BitVec 5) (ra : BitVec 5) (amt : BitVec 6)
  /-- RORI (R159). Rotates right by an immediate amount. -/
  | rori (stl : BitVec 3) (rd : BitVec 5) (ra : BitVec 5) (amt : BitVec 6)
  /-- LUI (R160). Sets x[rd] to sext(IMM18) << 13. -/
  | lui (stl : BitVec 3) (rd : BitVec 5) (imm : BitVec 18)
  /-- AUIPC (R160). Sets x[rd] to pc plus sext(IMM18) << 13. -/
  | auipc (stl : BitVec 3) (rd : BitVec 5) (imm : BitVec 18)
  /-- PADD (R162). Adds a signed value to a pointer's offset, trapping PTR_OVF outside 52 bits. -/
  | padd (stl : BitVec 3) (rd : BitVec 5) (ra : BitVec 5) (rb : BitVec 5)
  /-- PSUB (R162). Gives the signed difference of two pointer offsets. -/
  | psub (stl : BitVec 3) (rd : BitVec 5) (ra : BitVec 5) (rb : BitVec 5)
  /-- PTAG (R162). Replaces a pointer's tag bits [63:52]. -/
  | ptag (stl : BitVec 3) (rd : BitVec 5) (ra : BitVec 5) (rb : BitVec 5)
  /-- PFMT (R162). Replaces a pointer's FMT and BLKL. -/
  | pfmt (stl : BitVec 3) (rd : BitVec 5) (ra : BitVec 5) (rb : BitVec 5)
  /-- PCHK (R163). Returns the code of the first check an access of n bytes at the pointer would fail. -/
  | pchk (stl : BitVec 3) (rd : BitVec 5) (ra : BitVec 5) (rb : BitVec 5)
  /-- PSPC (R162). Replaces a pointer's SPACE and, for spaces 01 and 11, its cluster or tile field. -/
  | pspc (stl : BitVec 3) (rd : BitVec 5) (ra : BitVec 5) (rb : BitVec 5)
  /-- PADDI (R164). Adds a sign-extended immediate to a pointer offset. -/
  | paddi (stl : BitVec 3) (rd : BitVec 5) (ra : BitVec 5) (imm : BitVec 13)
  /-- FADD (R166). Floating-point add rounded once by FRM. -/
  | fadd (stl : BitVec 3) (rd : BitVec 5) (ra : BitVec 5) (rb : BitVec 5) (prec : BitVec 2)
  /-- FSUB (R166). Floating-point subtract rounded once by FRM. -/
  | fsub (stl : BitVec 3) (rd : BitVec 5) (ra : BitVec 5) (rb : BitVec 5) (prec : BitVec 2)
  /-- FMUL (R166). Floating-point multiply rounded once by FRM. -/
  | fmul (stl : BitVec 3) (rd : BitVec 5) (ra : BitVec 5) (rb : BitVec 5) (prec : BitVec 2)
  /-- FDIV (R166). Floating-point divide rounded once by FRM. -/
  | fdiv (stl : BitVec 3) (rd : BitVec 5) (ra : BitVec 5) (rb : BitVec 5) (prec : BitVec 2)
  /-- FSQRT (R166). Floating-point square root rounded once by FRM. -/
  | fsqrt (stl : BitVec 3) (rd : BitVec 5) (ra : BitVec 5) (prec : BitVec 2)
  /-- FMIN (R167). Floating-point minimum with -0 below +0. -/
  | fmin (stl : BitVec 3) (rd : BitVec 5) (ra : BitVec 5) (rb : BitVec 5) (prec : BitVec 2)
  /-- FMAX (R167). Floating-point maximum with -0 below +0. -/
  | fmax (stl : BitVec 3) (rd : BitVec 5) (ra : BitVec 5) (rb : BitVec 5) (prec : BitVec 2)
  /-- FFMA (R166). Fused c + a*b with one rounding. -/
  | ffma (stl : BitVec 3) (rd : BitVec 5) (ra : BitVec 5) (rb : BitVec 5) (prec : BitVec 2)
  /-- FFMS (R166). Fused c - a*b with one rounding. -/
  | ffms (stl : BitVec 3) (rd : BitVec 5) (ra : BitVec 5) (rb : BitVec 5) (prec : BitVec 2)
  /-- FEQ (R167). Sets 1 when a equals b. -/
  | feq (stl : BitVec 3) (rd : BitVec 5) (ra : BitVec 5) (rb : BitVec 5) (prec : BitVec 2)
  /-- FLT (R167). Sets 1 when a is less than b. -/
  | flt (stl : BitVec 3) (rd : BitVec 5) (ra : BitVec 5) (rb : BitVec 5) (prec : BitVec 2)
  /-- FLE (R167). Sets 1 when a is at most b. -/
  | fle (stl : BitVec 3) (rd : BitVec 5) (ra : BitVec 5) (rb : BitVec 5) (prec : BitVec 2)
  /-- FCLASS (R167). Writes the class and sign of a. -/
  | fclass (stl : BitVec 3) (rd : BitVec 5) (ra : BitVec 5) (prec : BitVec 2)
  /-- FSGNJ (R167). Copies a with the sign of b. -/
  | fsgnj (stl : BitVec 3) (rd : BitVec 5) (ra : BitVec 5) (rb : BitVec 5) (prec : BitVec 2)
  /-- FSGNJN (R167). Copies a with the inverted sign of b. -/
  | fsgnjn (stl : BitVec 3) (rd : BitVec 5) (ra : BitVec 5) (rb : BitVec 5) (prec : BitVec 2)
  /-- FSGNJX (R167). Copies a with sign(a) xor sign(b). -/
  | fsgnjx (stl : BitVec 3) (rd : BitVec 5) (ra : BitVec 5) (rb : BitVec 5) (prec : BitVec 2)
  /-- FCVT_I (R168). Converts to a signed 64-bit integer. -/
  | fcvtI (stl : BitVec 3) (rd : BitVec 5) (ra : BitVec 5) (prec : BitVec 2)
  /-- FCVT_IU (R168). Converts to an unsigned 64-bit integer. -/
  | fcvtIu (stl : BitVec 3) (rd : BitVec 5) (ra : BitVec 5) (prec : BitVec 2)
  /-- FCVT_F (R168). Converts a signed integer into precision P. -/
  | fcvtF (stl : BitVec 3) (rd : BitVec 5) (ra : BitVec 5) (prec : BitVec 2)
  /-- FCVT_FU (R168). Converts an unsigned integer into precision P. -/
  | fcvtFu (stl : BitVec 3) (rd : BitVec 5) (ra : BitVec 5) (prec : BitVec 2)
  /-- FCVT_P (R168). Converts between floating-point precisions. -/
  | fcvtP (stl : BitVec 3) (rd : BitVec 5) (ra : BitVec 5) (sprec : BitVec 2) (prec : BitVec 2)
  /-- MUL (R161). Low 64 bits of the product. -/
  | mul (stl : BitVec 3) (rd : BitVec 5) (ra : BitVec 5) (rb : BitVec 5)
  /-- MULH (R161). High 64 bits of the signed product. -/
  | mulh (stl : BitVec 3) (rd : BitVec 5) (ra : BitVec 5) (rb : BitVec 5)
  /-- MULHU (R161). High 64 bits of the unsigned product. -/
  | mulhu (stl : BitVec 3) (rd : BitVec 5) (ra : BitVec 5) (rb : BitVec 5)
  /-- MULHSU (R161). High 64 bits of signed by unsigned product. -/
  | mulhsu (stl : BitVec 3) (rd : BitVec 5) (ra : BitVec 5) (rb : BitVec 5)
  /-- DIV (R161). Signed saturating quotient. -/
  | div (stl : BitVec 3) (rd : BitVec 5) (ra : BitVec 5) (rb : BitVec 5)
  /-- DIVU (R161). Unsigned quotient, saturating on zero divisor. -/
  | divu (stl : BitVec 3) (rd : BitVec 5) (ra : BitVec 5) (rb : BitVec 5)
  /-- REM (R161). Signed remainder. -/
  | rem (stl : BitVec 3) (rd : BitVec 5) (ra : BitVec 5) (rb : BitVec 5)
  /-- REMU (R161). Unsigned remainder. -/
  | remu (stl : BitVec 3) (rd : BitVec 5) (ra : BitVec 5) (rb : BitVec 5)
  /-- BEQ (R171). Branches when the registers are equal. -/
  | beq (stl : BitVec 3) (ra : BitVec 5) (rb : BitVec 5) (off : BitVec 13)
  /-- BNE (R171). Branches when the registers differ. -/
  | bne (stl : BitVec 3) (ra : BitVec 5) (rb : BitVec 5) (off : BitVec 13)
  /-- BLT (R171). Branches on signed less than. -/
  | blt (stl : BitVec 3) (ra : BitVec 5) (rb : BitVec 5) (off : BitVec 13)
  /-- BGE (R171). Branches on signed greater or equal. -/
  | bge (stl : BitVec 3) (ra : BitVec 5) (rb : BitVec 5) (off : BitVec 13)
  /-- BLTU (R171). Branches on unsigned less than. -/
  | bltu (stl : BitVec 3) (ra : BitVec 5) (rb : BitVec 5) (off : BitVec 13)
  /-- BGEU (R171). Branches on unsigned greater or equal. -/
  | bgeu (stl : BitVec 3) (ra : BitVec 5) (rb : BitVec 5) (off : BitVec 13)
  /-- J (R172). Jumps pc-relative by OFF23 words. -/
  | j (stl : BitVec 3) (off : BitVec 23)
  /-- JAL (R172). Jumps pc-relative and links pc + 4 in x1. -/
  | jal (stl : BitVec 3) (off : BitVec 23)
  /-- JALR (R172). Jumps to a register plus word offset and links in x[rd]. -/
  | jalr (stl : BitVec 3) (rd : BitVec 5) (ra : BitVec 5) (imm : BitVec 13)
  /-- LB (R131). Loads a sign-extended byte. -/
  | lb (stl : BitVec 3) (rd : BitVec 5) (ra : BitVec 5) (off : BitVec 10)
  /-- LBU (R131). Loads a zero-extended byte. -/
  | lbu (stl : BitVec 3) (rd : BitVec 5) (ra : BitVec 5) (off : BitVec 10)
  /-- LH (R131). Loads a sign-extended halfword. -/
  | lh (stl : BitVec 3) (rd : BitVec 5) (ra : BitVec 5) (off : BitVec 10)
  /-- LHU (R131). Loads a zero-extended halfword. -/
  | lhu (stl : BitVec 3) (rd : BitVec 5) (ra : BitVec 5) (off : BitVec 10)
  /-- LW (R131). Loads a sign-extended word. -/
  | lw (stl : BitVec 3) (rd : BitVec 5) (ra : BitVec 5) (off : BitVec 10)
  /-- LWU (R131). Loads a zero-extended word. -/
  | lwu (stl : BitVec 3) (rd : BitVec 5) (ra : BitVec 5) (off : BitVec 10)
  /-- LD (R131). Loads a doubleword. -/
  | ld (stl : BitVec 3) (rd : BitVec 5) (ra : BitVec 5) (off : BitVec 10)
  /-- SB (R131). Stores a byte. -/
  | sb (stl : BitVec 3) (rd : BitVec 5) (ra : BitVec 5) (off : BitVec 10)
  /-- SH (R131). Stores a halfword. -/
  | sh (stl : BitVec 3) (rd : BitVec 5) (ra : BitVec 5) (off : BitVec 10)
  /-- SW (R131). Stores a word. -/
  | sw (stl : BitVec 3) (rd : BitVec 5) (ra : BitVec 5) (off : BitVec 10)
  /-- SD (R131). Stores a doubleword. -/
  | sd (stl : BitVec 3) (rd : BitVec 5) (ra : BitVec 5) (off : BitVec 10)
  /-- LBX (R134). Indexed sign-extended byte load. -/
  | lbx (stl : BitVec 3) (rd : BitVec 5) (ra : BitVec 5) (rb : BitVec 5) (sh : BitVec 2)
  /-- LBUX (R134). Indexed zero-extended byte load. -/
  | lbux (stl : BitVec 3) (rd : BitVec 5) (ra : BitVec 5) (rb : BitVec 5) (sh : BitVec 2)
  /-- LHX (R134). Indexed sign-extended halfword load. -/
  | lhx (stl : BitVec 3) (rd : BitVec 5) (ra : BitVec 5) (rb : BitVec 5) (sh : BitVec 2)
  /-- LHUX (R134). Indexed zero-extended halfword load. -/
  | lhux (stl : BitVec 3) (rd : BitVec 5) (ra : BitVec 5) (rb : BitVec 5) (sh : BitVec 2)
  /-- LWX (R134). Indexed sign-extended word load. -/
  | lwx (stl : BitVec 3) (rd : BitVec 5) (ra : BitVec 5) (rb : BitVec 5) (sh : BitVec 2)
  /-- LWUX (R134). Indexed zero-extended word load. -/
  | lwux (stl : BitVec 3) (rd : BitVec 5) (ra : BitVec 5) (rb : BitVec 5) (sh : BitVec 2)
  /-- LDX (R134). Indexed doubleword load. -/
  | ldx (stl : BitVec 3) (rd : BitVec 5) (ra : BitVec 5) (rb : BitVec 5) (sh : BitVec 2)
  /-- SBX (R134). Indexed byte store. -/
  | sbx (stl : BitVec 3) (rd : BitVec 5) (ra : BitVec 5) (rb : BitVec 5) (sh : BitVec 2)
  /-- SHX (R134). Indexed halfword store. -/
  | shx (stl : BitVec 3) (rd : BitVec 5) (ra : BitVec 5) (rb : BitVec 5) (sh : BitVec 2)
  /-- SWX (R134). Indexed word store. -/
  | swx (stl : BitVec 3) (rd : BitVec 5) (ra : BitVec 5) (rb : BitVec 5) (sh : BitVec 2)
  /-- SDX (R134). Indexed doubleword store. -/
  | sdx (stl : BitVec 3) (rd : BitVec 5) (ra : BitVec 5) (rb : BitVec 5) (sh : BitVec 2)
  /-- AMOADD (R137). Atomic add at the target's executor, returning the old value. -/
  | amoadd (stl : BitVec 3) (rd : BitVec 5) (ra : BitVec 5) (rb : BitVec 5) (w : BitVec 1)
  /-- AMOAND (R137). Atomic AND. -/
  | amoand (stl : BitVec 3) (rd : BitVec 5) (ra : BitVec 5) (rb : BitVec 5) (w : BitVec 1)
  /-- AMOOR (R137). Atomic OR. -/
  | amoor (stl : BitVec 3) (rd : BitVec 5) (ra : BitVec 5) (rb : BitVec 5) (w : BitVec 1)
  /-- AMOXOR (R137). Atomic XOR. -/
  | amoxor (stl : BitVec 3) (rd : BitVec 5) (ra : BitVec 5) (rb : BitVec 5) (w : BitVec 1)
  /-- AMOMIN (R137). Atomic signed minimum. -/
  | amomin (stl : BitVec 3) (rd : BitVec 5) (ra : BitVec 5) (rb : BitVec 5) (w : BitVec 1)
  /-- AMOMAX (R137). Atomic signed maximum. -/
  | amomax (stl : BitVec 3) (rd : BitVec 5) (ra : BitVec 5) (rb : BitVec 5) (w : BitVec 1)
  /-- AMOMINU (R137). Atomic unsigned minimum. -/
  | amominu (stl : BitVec 3) (rd : BitVec 5) (ra : BitVec 5) (rb : BitVec 5) (w : BitVec 1)
  /-- AMOMAXU (R137). Atomic unsigned maximum. -/
  | amomaxu (stl : BitVec 3) (rd : BitVec 5) (ra : BitVec 5) (rb : BitVec 5) (w : BitVec 1)
  /-- AMOSWAP (R137). Atomic swap. -/
  | amoswap (stl : BitVec 3) (rd : BitVec 5) (ra : BitVec 5) (rb : BitVec 5) (w : BitVec 1)
  /-- AMOCAS (R137). Atomic compare-and-swap against x[rd]. -/
  | amocas (stl : BitVec 3) (rd : BitVec 5) (ra : BitVec 5) (rb : BitVec 5) (w : BitVec 1)
  /-- AMOFADD (R138). Atomic FP32 or FP64 add, RNE. -/
  | amofadd (stl : BitVec 3) (rd : BitVec 5) (ra : BitVec 5) (rb : BitVec 5) (w : BitVec 1)
  /-- AMOFADD_BF (R137). Atomic paired BF16 add on a word. -/
  | amofaddBf (stl : BitVec 3) (rd : BitVec 5) (ra : BitVec 5) (rb : BitVec 5)
  /-- AMOFMIN (R138). Atomic floating-point minimum. -/
  | amofmin (stl : BitVec 3) (rd : BitVec 5) (ra : BitVec 5) (rb : BitVec 5) (w : BitVec 1)
  /-- AMOFMAX (R138). Atomic floating-point maximum. -/
  | amofmax (stl : BitVec 3) (rd : BitVec 5) (ra : BitVec 5) (rb : BitVec 5) (w : BitVec 1)
  /-- AMOLD (R137). Atomic read at the executor. -/
  | amold (stl : BitVec 3) (rd : BitVec 5) (ra : BitVec 5) (w : BitVec 1)
  /-- TLOOK (R142). Looks up a global line in the tag table, returning a hit pointer or miss code. -/
  | tlook (stl : BitVec 3) (rd : BitVec 5) (ra : BitVec 5)
  /-- TSET (R142). Installs a line in a tag-table slot. -/
  | tset (stl : BitVec 3) (ra : BitVec 5) (rb : BitVec 5)
  /-- TINV (R142). Invalidates the matching tag entry. -/
  | tinv (stl : BitVec 3) (ra : BitVec 5)
  /-- TVICT (R142). Returns and clears the tag word of a slot. -/
  | tvict (stl : BitVec 3) (rd : BitVec 5) (ra : BitVec 5)
  /-- TDIRTY (R142). Looks up a line and marks the hit entry dirty. -/
  | tdirty (stl : BitVec 3) (rd : BitVec 5) (ra : BitVec 5)
  /-- FENCE (R246). Orders the thread's pred-path accesses before its succ-path accesses at a scope. -/
  | fence (stl : BitVec 3) (pred : BitVec 6) (succ : BitVec 6) (scope : BitVec 3)
  /-- PHASE (R247). Arrives at the phase group and waits for it to complete. -/
  | phase (stl : BitVec 3) (pred : BitVec 6) (succ : BitVec 6) (scope : BitVec 3)
  /-- IFENCE (R248). Waits until every tile in the scope has invalidated its instruction cache. -/
  | ifence (stl : BitVec 3) (scope : BitVec 3)
  /-- REP (R193). Repeats the following body word COUNT times with stepped fields. -/
  | rep (count : BitVec 6) (step : BitVec 3) (ssize : BitVec 2)
  /-- REP_REG (R193). Repeats the body word a count read from a register. -/
  | repReg (xreg : BitVec 5) (step : BitVec 3) (ssize : BitVec 2)
  /-- VADD (R176). Lane-wise add. -/
  | vadd (stl : BitVec 3) (rd : BitVec 5) (ra : BitVec 5) (rb : BitVec 5) (et : BitVec 3)
  /-- VSUB (R176). Lane-wise subtract. -/
  | vsub (stl : BitVec 3) (rd : BitVec 5) (ra : BitVec 5) (rb : BitVec 5) (et : BitVec 3)
  /-- VMUL (R176). Lane-wise multiply. -/
  | vmul (stl : BitVec 3) (rd : BitVec 5) (ra : BitVec 5) (rb : BitVec 5) (et : BitVec 3)
  /-- VFMA (R176). Lane-wise fused d + a*b. -/
  | vfma (stl : BitVec 3) (rd : BitVec 5) (ra : BitVec 5) (rb : BitVec 5) (et : BitVec 3)
  /-- VFMS (R176). Lane-wise fused d - a*b. -/
  | vfms (stl : BitVec 3) (rd : BitVec 5) (ra : BitVec 5) (rb : BitVec 5) (et : BitVec 3)
  /-- VMIN (R176). Lane-wise minimum. -/
  | vmin (stl : BitVec 3) (rd : BitVec 5) (ra : BitVec 5) (rb : BitVec 5) (et : BitVec 3)
  /-- VMAX (R176). Lane-wise maximum. -/
  | vmax (stl : BitVec 3) (rd : BitVec 5) (ra : BitVec 5) (rb : BitVec 5) (et : BitVec 3)
  /-- VABS (R176). Lane-wise absolute value. -/
  | vabs (stl : BitVec 3) (rd : BitVec 5) (ra : BitVec 5) (et : BitVec 3)
  /-- VNEG (R176). Lane-wise negation. -/
  | vneg (stl : BitVec 3) (rd : BitVec 5) (ra : BitVec 5) (et : BitVec 3)
  /-- VAND (R176). Lane-wise AND. -/
  | vand (stl : BitVec 3) (rd : BitVec 5) (ra : BitVec 5) (rb : BitVec 5) (et : BitVec 3)
  /-- VOR (R176). Lane-wise OR. -/
  | vor (stl : BitVec 3) (rd : BitVec 5) (ra : BitVec 5) (rb : BitVec 5) (et : BitVec 3)
  /-- VXOR (R176). Lane-wise XOR. -/
  | vxor (stl : BitVec 3) (rd : BitVec 5) (ra : BitVec 5) (rb : BitVec 5) (et : BitVec 3)
  /-- VSHL (R176). Lane-wise shift left. -/
  | vshl (stl : BitVec 3) (rd : BitVec 5) (ra : BitVec 5) (rb : BitVec 5) (et : BitVec 3)
  /-- VSHR (R176). Lane-wise logical shift right. -/
  | vshr (stl : BitVec 3) (rd : BitVec 5) (ra : BitVec 5) (rb : BitVec 5) (et : BitVec 3)
  /-- VSRA (R176). Lane-wise arithmetic shift right. -/
  | vsra (stl : BitVec 3) (rd : BitVec 5) (ra : BitVec 5) (rb : BitVec 5) (et : BitVec 3)
  /-- VCEQ (R176). Lane-wise equal compare. -/
  | vceq (stl : BitVec 3) (rd : BitVec 5) (ra : BitVec 5) (rb : BitVec 5) (et : BitVec 3)
  /-- VCLT (R176). Lane-wise less-than compare. -/
  | vclt (stl : BitVec 3) (rd : BitVec 5) (ra : BitVec 5) (rb : BitVec 5) (et : BitVec 3)
  /-- VCLE (R176). Lane-wise less-or-equal compare. -/
  | vcle (stl : BitVec 3) (rd : BitVec 5) (ra : BitVec 5) (rb : BitVec 5) (et : BitVec 3)
  /-- VSEL (R176). Lane-wise select by d. -/
  | vsel (stl : BitVec 3) (rd : BitVec 5) (ra : BitVec 5) (rb : BitVec 5) (et : BitVec 3)
  /-- VADDS (R176). Lane-wise saturating add. -/
  | vadds (stl : BitVec 3) (rd : BitVec 5) (ra : BitVec 5) (rb : BitVec 5) (et : BitVec 3)
  /-- VSUBS (R176). Lane-wise saturating subtract. -/
  | vsubs (stl : BitVec 3) (rd : BitVec 5) (ra : BitVec 5) (rb : BitVec 5) (et : BitVec 3)
  /-- VMOV (R176). Lane-wise bit copy. -/
  | vmov (stl : BitVec 3) (rd : BitVec 5) (ra : BitVec 5) (et : BitVec 3)
  /-- VDIV (R176). Lane-wise floating-point divide. -/
  | vdiv (stl : BitVec 3) (rd : BitVec 5) (ra : BitVec 5) (rb : BitVec 5) (et : BitVec 3)
  /-- VMULHI (R176). Lane-wise high half of a signed product. -/
  | vmulhi (stl : BitVec 3) (rd : BitVec 5) (ra : BitVec 5) (rb : BitVec 5) (et : BitVec 3)
  /-- VRCP (R178). Correctly rounded reciprocal per lane. -/
  | vrcp (stl : BitVec 3) (rd : BitVec 5) (ra : BitVec 5) (ct : BitVec 2) (rm : BitVec 2)
  /-- VRSQ (R178). Correctly rounded reciprocal square root per lane. -/
  | vrsq (stl : BitVec 3) (rd : BitVec 5) (ra : BitVec 5) (ct : BitVec 2) (rm : BitVec 2)
  /-- VSQRT (R178). Correctly rounded square root per lane. -/
  | vsqrt (stl : BitVec 3) (rd : BitVec 5) (ra : BitVec 5) (ct : BitVec 2) (rm : BitVec 2)
  /-- VEXP2 (R178). Correctly rounded 2^a per lane. -/
  | vexp2 (stl : BitVec 3) (rd : BitVec 5) (ra : BitVec 5) (ct : BitVec 2) (rm : BitVec 2)
  /-- VLOG2 (R178). Correctly rounded log2 per lane. -/
  | vlog2 (stl : BitVec 3) (rd : BitVec 5) (ra : BitVec 5) (ct : BitVec 2) (rm : BitVec 2)
  /-- VTANH (R178). Correctly rounded tanh per lane. -/
  | vtanh (stl : BitVec 3) (rd : BitVec 5) (ra : BitVec 5) (ct : BitVec 2) (rm : BitVec 2)
  /-- VSIGM (R178). Correctly rounded sigmoid per lane. -/
  | vsigm (stl : BitVec 3) (rd : BitVec 5) (ra : BitVec 5) (ct : BitVec 2) (rm : BitVec 2)
  /-- VCVT (R179). Converts compute-type lanes into a packed storage format. -/
  | vcvt (stl : BitVec 3) (rd : BitVec 5) (ra : BitVec 5) (ct : BitVec 2) (sf : BitVec 4) (rm : BitVec 2)
  /-- VCVTF (R179). Converts packed storage-format elements into compute-type lanes. -/
  | vcvtf (stl : BitVec 3) (rd : BitVec 5) (ra : BitVec 5) (ct : BitVec 2) (sf : BitVec 4) (rm : BitVec 2)
  /-- VPACK (R181). Encodes four XE8 blocks from FP8E4 bytes and scales. -/
  | vpack (stl : BitVec 3) (rd : BitVec 5) (ra : BitVec 5)
  /-- VUNPACK (R181). Decodes four XE8 blocks into FP8E4 bytes and scales. -/
  | vunpack (stl : BitVec 3) (rd : BitVec 5) (ra : BitVec 5)
  /-- VSCALE (R180). Multiplies each lane by 2 raised to its block's scale. -/
  | vscale (stl : BitVec 3) (rd : BitVec 5) (ra : BitVec 5) (ct : BitVec 2) (sf : BitVec 4) (rm : BitVec 2)
  /-- VBSCL (R180). Computes the block scale of each 32-lane block for a format. -/
  | vbscl (stl : BitVec 3) (rd : BitVec 5) (ra : BitVec 5) (ct : BitVec 2) (sf : BitVec 4)
  /-- VRSUM (R183). Pairwise-tree sum of all lanes into lane 0. -/
  | vrsum (stl : BitVec 3) (rd : BitVec 5) (ra : BitVec 5) (et : BitVec 3)
  /-- VRMAX (R183). Tree maximum of all lanes. -/
  | vrmax (stl : BitVec 3) (rd : BitVec 5) (ra : BitVec 5) (et : BitVec 3)
  /-- VRMIN (R183). Tree minimum of all lanes. -/
  | vrmin (stl : BitVec 3) (rd : BitVec 5) (ra : BitVec 5) (et : BitVec 3)
  /-- VPERM (R183). Permutes lanes by an index register. -/
  | vperm (stl : BitVec 3) (rd : BitVec 5) (ra : BitVec 5) (rb : BitVec 5) (et : BitVec 3)
  /-- VROTX (R183). Rotates lanes by a scalar amount. -/
  | vrotx (stl : BitVec 3) (rd : BitVec 5) (ra : BitVec 5) (rb : BitVec 5) (et : BitVec 3)
  /-- VBCAST (R183). Broadcasts a scalar to every lane. -/
  | vbcast (stl : BitVec 3) (rd : BitVec 5) (ra : BitVec 5) (et : BitVec 3)
  /-- VEXT (R183). Extracts one lane into a scalar register. -/
  | vext (stl : BitVec 3) (rd : BitVec 5) (ra : BitVec 5) (rb : BitVec 5) (et : BitVec 3)
  /-- VINS (R183). Inserts a scalar into one lane. -/
  | vins (stl : BitVec 3) (rd : BitVec 5) (ra : BitVec 5) (rb : BitVec 5) (et : BitVec 3)
  /-- VIOTA (R183). Writes each lane's index. -/
  | viota (stl : BitVec 3) (rd : BitVec 5) (et : BitVec 3)
  /-- VLD (R184). Loads 64 to 512 bytes into a vector register. -/
  | vld (stl : BitVec 3) (rd : BitVec 5) (ra : BitVec 5) (part : BitVec 3) (off : BitVec 10)
  /-- VST (R184). Stores 64 to 512 bytes of a vector register. -/
  | vst (stl : BitVec 3) (rd : BitVec 5) (ra : BitVec 5) (part : BitVec 3) (off : BitVec 10)
  /-- VLDX_W (R186). Gathers 128 words from the home scratchpad. -/
  | vldxW (stl : BitVec 3) (rd : BitVec 5) (ra : BitVec 5) (rb : BitVec 5)
  /-- VLDX_D (R186). Gathers 64 doublewords from the home scratchpad. -/
  | vldxD (stl : BitVec 3) (rd : BitVec 5) (ra : BitVec 5) (rb : BitVec 5)
  /-- VSTX_W (R186). Scatters 128 words to the home scratchpad. -/
  | vstxW (stl : BitVec 3) (rd : BitVec 5) (ra : BitVec 5) (rb : BitVec 5)
  /-- VSTX_D (R186). Scatters 64 doublewords to the home scratchpad. -/
  | vstxD (stl : BitVec 3) (rd : BitVec 5) (ra : BitVec 5) (rb : BitVec 5)
  /-- VMERGE (R188). Merges the max-and-sum pairs of two registers. -/
  | vmerge (stl : BitVec 3) (rd : BitVec 5) (ra : BitVec 5) (rb : BitVec 5) (et : BitVec 1)
  /-- PMX (R189). Merges a pair register across N tiles as a left fold. -/
  | pmx (stl : BitVec 3) (rd : BitVec 5) (ra : BitVec 5) (rb : BitVec 5) (et : BitVec 1)
  /-- PMSEND (R190). Sends 512 B to another tile's pair-merge entries under a key. -/
  | pmsend (stl : BitVec 3) (ra : BitVec 5) (rb : BitVec 5)
  /-- PMRECV (R190). Takes the oldest matching pair-merge entry. -/
  | pmrecv (stl : BitVec 3) (rd : BitVec 5) (rb : BitVec 5)
  /-- SBIND (R119). Binds a stream register from a descriptor. -/
  | sbind (stl : BitVec 3) (rd : BitVec 5) (ra : BitVec 5)
  /-- SUNBIND (R119). Releases a stream binding after pushed entries are performed. -/
  | sunbind (stl : BitVec 3) (rd : BitVec 5)
  /-- SSTAT (R120). Returns a stream's status word. -/
  | sstat (stl : BitVec 3) (rd : BitVec 5) (ra : BitVec 5)
  /-- SDRAIN (R119). Discards fetched entries and clears an error, or waits for pushes. -/
  | sdrain (stl : BitVec 3) (rd : BitVec 5)
  /-- SSKIP (R119). Discards or skips a number of stream entries. -/
  | sskip (stl : BitVec 3) (rd : BitVec 5) (ra : BitVec 5)
  /-- SPAWN (R260). Creates a thread on the home tile from a spawn descriptor. -/
  | spawn (stl : BitVec 3) (rd : BitVec 5) (ra : BitVec 5) (rb : BitVec 5)
  /-- JOIN (R260). Waits for a thread's exit and takes its value and slot. -/
  | join (stl : BitVec 3) (rd : BitVec 5) (ra : BitVec 5)
  /-- EXIT (R261). Ends the issuing thread with an exit value. -/
  | exit (stl : BitVec 3) (ra : BitVec 5)
  /-- YIELD (R260). Sets the yield flag. -/
  | yield (stl : BitVec 3)
  /-- PRIO (R260). Sets the base priority. -/
  | prio (stl : BitVec 3) (ra : BitVec 5)
  /-- TID (R260). Returns the thread's own identifier. -/
  | tid (stl : BitVec 3) (rd : BitVec 5)
  /-- DETACH (R260). Marks a thread detached, freeing it if already exited. -/
  | detach (stl : BitVec 3) (ra : BitVec 5)
  /-- KILL (R260). Ends a target thread with exit value all ones. -/
  | kill (stl : BitVec 3) (ra : BitVec 5)
  /-- CINIT (R264). Sets a cue's value and clears its error mark. -/
  | cinit (stl : BitVec 3) (prv : BitVec 1) (cue : BitVec 8) (ra : BitVec 5)
  /-- CWAIT (R264). Queues as a waiter on a cue for a count. -/
  | cwait (stl : BitVec 3) (prv : BitVec 1) (cue : BitVec 8) (ra : BitVec 5)
  /-- CSIG (R264). Adds a count to a cue and serves waiters. -/
  | csig (stl : BitVec 3) (prv : BitVec 1) (cue : BitVec 8) (ra : BitVec 5)
  /-- CREAD (R264). Reads a cue's value and error mark. -/
  | cread (stl : BitVec 3) (prv : BitVec 1) (cue : BitVec 8) (rd : BitVec 5)
  /-- CTRY (R264). Takes a count from a cue if available without waiting. -/
  | ctry (stl : BitVec 3) (prv : BitVec 1) (cue : BitVec 8) (ra : BitVec 5) (rd : BitVec 5)
  /-- CWAITT (R264). Waits on a cue with a rotation limit. -/
  | cwaitt (stl : BitVec 3) (prv : BitVec 1) (cue : BitVec 8) (ra : BitVec 5) (rd : BitVec 5)
  /-- CSIGR (R264). Posts a signal to a tile cue of another logical tile. -/
  | csigr (stl : BitVec 3) (cue : BitVec 8) (ra : BitVec 5) (rd : BitVec 5)
  /-- SEND (R267). Delivers a 64-bit message to a thread's mailbox. -/
  | send (stl : BitVec 3) (ra : BitVec 5) (rb : BitVec 5)
  /-- RECV (R267). Takes the oldest mailbox message, waiting while empty. -/
  | recv (stl : BitVec 3) (rd : BitVec 5)
  /-- RECVT (R267). Returns the mailbox count when nonzero or at a limit. -/
  | recvt (stl : BitVec 3) (rd : BitVec 5) (ra : BitVec 5)
  /-- MCLAIM (R200). Claims slots and accumulators, waiting until all are free. -/
  | mclaim (stl : BitVec 3) (ra : BitVec 5)
  /-- MREL (R200). Releases claimed resources after their commands complete. -/
  | mrel (stl : BitVec 3) (ra : BitVec 5)
  /-- MLOAD (R203). Issues a load of scratchpad rows into an operand slot. -/
  | mload (stl : BitVec 3) (tag : BitVec 4) (ra : BitVec 5) (rb : BitVec 5)
  /-- MMA (R206). Issues a dense matrix step into an accumulator. -/
  | mma (stl : BitVec 3) (tag : BitVec 4) (ra : BitVec 5) (rb : BitVec 5)
  /-- MMAS (R207). Issues a structured-sparse matrix step. -/
  | mmas (stl : BitVec 3) (tag : BitVec 4) (ra : BitVec 5) (rb : BitVec 5)
  /-- MGEMM (R209). Issues a macro sequence of load and mma steps. -/
  | mgemm (stl : BitVec 3) (tag : BitVec 4) (ra : BitVec 5) (rb : BitVec 5)
  /-- MDRAIN (R211). Issues a drain of accumulator rows to the scratchpad. -/
  | mdrain (stl : BitVec 3) (tag : BitVec 4) (ra : BitVec 5) (rb : BitVec 5)
  /-- MZERO (R210). Issues zeroing of an accumulator. -/
  | mzero (stl : BitVec 3) (tag : BitVec 4) (ra : BitVec 5)
  /-- MTOV (R212). Issues a copy of accumulator rows into vector registers. -/
  | mtov (stl : BitVec 3) (tag : BitVec 4) (ra : BitVec 5)
  /-- CPY (R108). Issues a contiguous stagehand copy. -/
  | cpy (stl : BitVec 3) (tag : BitVec 4) (ra : BitVec 5) (rb : BitVec 5)
  /-- CPYS (R108). Issues a strided stagehand copy. -/
  | cpys (stl : BitVec 3) (tag : BitVec 4) (ra : BitVec 5) (rb : BitVec 5)
  /-- CPYG (R108). Issues an index gather copy. -/
  | cpyg (stl : BitVec 3) (tag : BitVec 4) (ra : BitVec 5) (rb : BitVec 5)
  /-- CPYX (R108). Issues an index scatter copy. -/
  | cpyx (stl : BitVec 3) (tag : BitVec 4) (ra : BitVec 5) (rb : BitVec 5)
  /-- CPYF (R108). Issues a pattern fill. -/
  | cpyf (stl : BitVec 3) (tag : BitVec 4) (ra : BitVec 5) (rb : BitVec 5)
  /-- TQPOST (R223). Posts a tile-task record to a stage-manager queue. -/
  | tqpost (stl : BitVec 3) (tag : BitVec 4) (ra : BitVec 5) (rb : BitVec 5)
  /-- TQFLUSH (R223). Removes the unstarted tasks of a queue. -/
  | tqflush (stl : BitVec 3) (tag : BitVec 4) (ra : BitVec 5)
  /-- SWPIN (R79). Issues swap-in of listed pages from flash. -/
  | swpin (stl : BitVec 3) (tag : BitVec 4) (ra : BitVec 5) (rb : BitVec 5)
  /-- SWPOUT (R79). Issues swap-out of listed pages to flash. -/
  | swpout (stl : BitVec 3) (tag : BitVec 4) (ra : BitVec 5) (rb : BitVec 5)
  /-- SWPPULL (R79). Issues a pull of listed remote pages from their owners. -/
  | swppull (stl : BitVec 3) (tag : BitVec 4) (ra : BitVec 5) (rb : BitVec 5)
  /-- EWR (R102). Writes one or two engine registers. -/
  | ewr (stl : BitVec 3) (ra : BitVec 5) (rb : BitVec 5) (n : BitVec 3)
  /-- ERD (R103). Reads an engine register. -/
  | erd (stl : BitVec 3) (rd : BitVec 5) (n : BitVec 3)
  /-- ERDST (R103). Reads the status word of port 0 to 3. -/
  | erdst (stl : BitVec 3) (rd : BitVec 5) (port : BitVec 2)
  /-- GOPEN (R297). Opens a handle on a gate with rights. -/
  | gopen (stl : BitVec 3) (rd : BitVec 5) (ra : BitVec 5)
  /-- GCLOSE (R297). Closes a gate handle locally. -/
  | gclose (stl : BitVec 3) (ra : BitVec 5)
  /-- GSIG (R297). Requests a counted signal on a gate, publishing window writes. -/
  | gsig (stl : BitVec 3) (rd : BitVec 5) (ra : BitVec 5) (rb : BitVec 5)
  /-- GWAIT (R297). Takes a count from a gate counter or queues as a waiter. -/
  | gwait (stl : BitVec 3) (rd : BitVec 5) (ra : BitVec 5) (rb : BitVec 5)
  /-- GREAD (R297). Reads a gate's counter. -/
  | gread (stl : BitVec 3) (rd : BitVec 5) (ra : BitVec 5)
  /-- GPOST (R297). Posts a word to a gate's mailbox. -/
  | gpost (stl : BitVec 3) (rd : BitVec 5) (ra : BitVec 5) (rb : BitVec 5)
  /-- GTAKE (R297). Takes a mailbox word or queues as a waiter. -/
  | gtake (stl : BitVec 3) (rd : BitVec 5) (ra : BitVec 5) (rb : BitVec 5)
  /-- CSRR (R156). Reads a CSR. -/
  | csrr (stl : BitVec 3) (rd : BitVec 5) (csr : BitVec 9)
  /-- CSRW (R156). Writes a CSR and returns its old value. -/
  | csrw (stl : BitVec 3) (rd : BitVec 5) (ra : BitVec 5) (csr : BitVec 9)
  /-- CSRS (R156). Sets bits of a CSR. -/
  | csrs (stl : BitVec 3) (rd : BitVec 5) (ra : BitVec 5) (csr : BitVec 9)
  /-- CSRC (R156). Clears bits of a CSR. -/
  | csrc (stl : BitVec 3) (rd : BitVec 5) (ra : BitVec 5) (csr : BitVec 9)
  /-- TRAP (R310). Raises SWTRAP with a code. -/
  | trap (stl : BitVec 3) (code : BitVec 9)
  /-- TRET (R310). Returns from a trap handler to TPC. -/
  | tret (stl : BitVec 3)
  /-- BREAK (R310). Raises BREAK. -/
  | brk (stl : BitVec 3)
  /-- REPART (R270). Changes a quiescent tile's register mode. -/
  | repart (stl : BitVec 3) (rd : BitVec 5) (ra : BitVec 5)
  /-- ROSET (R271). Sets one running-order position's troupe and on state. -/
  | roset (stl : BitVec 3) (ra : BitVec 5) (pos : BitVec 4)
  /-- IDLE (R272). Deschedules until a message or private-cue signal. -/
  | idle (stl : BitVec 3)
  /-- CURTAIN (R321). Submits a curtain record for a partition. -/
  | curtain (stl : BitVec 3) (rd : BitVec 5) (ra : BitVec 5)
  /-- MIGR (R321). Submits a migration record. -/
  | migr (stl : BitVec 3) (rd : BitVec 5) (ra : BitVec 5)
  /-- RLD (R344). Loads 8 bytes from memory of another rank. -/
  | rld (stl : BitVec 3) (rd : BitVec 5) (ra : BitVec 5) (rb : BitVec 5)
  /-- RST (R344). Posts an 8-byte store to another rank. -/
  | rst (stl : BitVec 3) (rd : BitVec 5) (ra : BitVec 5) (rb : BitVec 5)
  /-- RAMO (R344). Sends an op packet to a memory-side unit of another rank. -/
  | ramo (stl : BitVec 3) (rd : BitVec 5) (ra : BitVec 5) (rb : BitVec 5)
  /-- SPAWNR (R344). Sends a spawn descriptor to a logical tile of a rank. -/
  | spawnr (stl : BitVec 3) (rd : BitVec 5) (ra : BitVec 5) (rb : BitVec 5)
  /-- CSIGR_RANK (R344). Posts a cue signal to a tile of another rank. -/
  | csigrRank (stl : BitVec 3) (ra : BitVec 5) (rb : BitVec 5)
  /-- STALL_EXPIRY (R251). A thread's issued window of 16 x (STL + 1) cycles ends and it becomes ready or waiting. -/
  | stallExpiry (tile : Nat) (slot : Nat)
  /-- PROMPTER_ISSUE (R254). At an on position the prompter issues one ready thread of the position's troupe. -/
  | prompterIssue (tile : Nat)
  /-- ROTATION_END (R255). At the end of a rotation non-issuing candidates age and boosts rise. -/
  | rotationEnd (tile : Nat)
  /-- ROSET_APPLY (R271). The target tile applies a running-order entry at its next rotation boundary. -/
  | rosetApply (tile : Nat)
  /-- ACCESS_REPLY (R129). The reply of a remote or global load or atomic returns and readies its thread. -/
  | accessReply (id : Nat)
  /-- REMOTE_PORT_ACCESS (R130). A remote access arrives at a target scratchpad or shared-memory port and is applied at its bank. -/
  | remotePortAccess (id : Nat)
  /-- POSTED_ACK (R243). A posted write or signal is applied or fails, releasing fences that wait on it. -/
  | postedAck (id : Nat)
  /-- SEC_WRITEBACK (R126). A corrected word is written back at the bank's next free cycle. -/
  | secWriteback (place : Nat) (word : Nat)
  /-- STORE_PROBE_REPLY (R133). A global store's probe returns from its slice and the store enters the write buffer. -/
  | storeProbeReply (id : Nat)
  /-- VIEW_DROP (R235). The tile's view drops a unit holding no unpublished byte. -/
  | viewDrop (tile : Nat) (key : Nat)
  /-- PHASE_COMPLETE (R247). When every live member has arrived the group's tiles publish, perform and clear their views. -/
  | phaseComplete (tile : Nat) (slot : Nat)
  /-- IFENCE_COMPLETE (R248). The last tile of the scope finishes invalidating its instruction cache. -/
  | ifenceComplete (tile : Nat) (slot : Nat)
  /-- SLICE_ACCESS (R86). A global access reaches its owning slice, which translates and serves, forwards or refuses it. -/
  | sliceAccess (id : Nat)
  /-- SECTOR_FILL (R73). An HBM4E fill returns and the slice installs the sectors not valid there. -/
  | sectorFill (id : Nat)
  /-- SECTOR_WRITEBACK (R73). Dirty sectors are written back, with a read-merge-write of the granule where needed. -/
  | sectorWriteback (key : Nat)
  /-- MEMORY_SIDE_AMO (R74). A memory-side unit executes a global atomic on its granule. -/
  | memorySideAmo (id : Nat)
  /-- OP_AMO (R77). An op packet applies an AMO code at the memory-side unit. -/
  | opAmo (id : Nat)
  /-- OP_CAS2 (R77). An op packet compares and swaps two 64-bit words. -/
  | opCas2 (id : Nat)
  /-- OP_CAS4 (R77). An op packet compares and swaps four 32-bit words. -/
  | opCas4 (id : Nat)
  /-- OP_LENQ (R77). An op packet enqueues a node on a linked queue. -/
  | opLenq (id : Nat)
  /-- OP_LDEQ (R77). An op packet dequeues the head of a linked queue. -/
  | opLdeq (id : Nat)
  /-- OP_CHASE (R77). An op packet follows next pointers looking for a key. -/
  | opChase (id : Nat)
  /-- FORWARDED_PAGE_ACCESS (R94). A 32-B access to a remote page arrives at the owner rank and is translated there. -/
  | forwardedPageAccess (id : Nat)
  /-- REMOTE_PAGE_FAIL (R97). A failed forwarded access marks the page lost and raises LOST. -/
  | remotePageFail (id : Nat)
  /-- XL_INVPAGE (R93). Every slice drops its translations for a range of pages. -/
  | xlInvpage (id : Nat)
  /-- XL_RETIRE (R91). Removes every entry of a generation from all slices, then sets its retired bit. -/
  | xlRetire (id : Nat)
  /-- XL_ACTIVATE (R91). Activates a retired generation and writes it into the space entry. -/
  | xlActivate (id : Nat)
  /-- XL_HARVEST (R93). Reads and clears the D bits of a range of pages into a bitmap. -/
  | xlHarvest (id : Nat)
  /-- STAGEHAND_ACCEPT (R100). A stagehand accepts a waiting command into its queue, refusing it if the operands decide. -/
  | stagehandAccept (cluster : Nat)
  /-- STAGEHAND_START (R100). The stagehand starts an accepted command in queue order when fewer than 8 run. -/
  | stagehandStart (cluster : Nat)
  /-- STAGEHAND_COMPLETE (R109). A copy completes or stops and signals its cue, with the error mark on failure. -/
  | stagehandComplete (cluster : Nat) (id : Nat)
  /-- MATRIX_ACCEPT (R201). The matrix engine accepts a port-0 command or task into its queue of 16. -/
  | matrixAccept (tile : Nat)
  /-- MATRIX_START (R201). A matrix command starts once its units are idle and conflicts have completed. -/
  | matrixStart (tile : Nat) (id : Nat)
  /-- MATRIX_COMPLETE (R201). A matrix command completes or stops and signals its cue. -/
  | matrixComplete (tile : Nat) (id : Nat)
  /-- MCLAIM_GRANT (R200). A waiting claim takes all its resources at once. -/
  | mclaimGrant (tile : Nat) (id : Nat)
  /-- MREL_FREE (R200). A release frees its resources once their commands have completed. -/
  | mrelFree (tile : Nat) (id : Nat)
  /-- MGEMM_STEP (R209). The macro sequencer starts the loads or mma of the next step. -/
  | mgemmStep (tile : Nat) (id : Nat)
  /-- TASK_START (R220). The stage manager starts a queue head whose dependences, barrier and engine allow. -/
  | taskStart (cluster : Nat) (queue : Nat)
  /-- TASK_RETIRE (R222). A task retires when its command completes and signals its poster's cue. -/
  | taskRetire (cluster : Nat) (id : Nat)
  /-- SWAP_ACCEPT (R79). The die's swap engine accepts a queued command or refuses it. -/
  | swapAccept (die : Nat)
  /-- SWAP_ENTRY_DONE (R79). A swap entry finishes its page, PTE and STATUS and signals the cue. -/
  | swapEntryDone (id : Nat)
  /-- FLASH_UNIT_REPLY (R349). The control node returns or acknowledges a 4 KiB flash unit. -/
  | flashUnitReply (id : Nat) (err : Bool) (data : BitVec 32768)
  /-- STREAM_FETCH (R115). An input stream fetches the next entry into a free FIFO place. -/
  | streamFetch (tile : Nat) (slot : Nat) (n : Nat)
  /-- STREAM_WRITE (R115). An output stream writes a pushed entry to its target. -/
  | streamWrite (tile : Nat) (slot : Nat) (n : Nat)
  /-- CUE_SIGNAL_ARRIVAL (R264). A posted csigr arrives and is applied at its tile cue. -/
  | cueSignalArrival (id : Nat)
  /-- CWAITT_LIMIT (R264). A timed cue wait's rotation limit ends and it returns 0. -/
  | cwaittLimit (tile : Nat) (slot : Nat)
  /-- RECVT_LIMIT (R267). A recvt's rotation limit ends and it returns the count. -/
  | recvtLimit (tile : Nat) (slot : Nat)
  /-- MESSAGE_DELIVERY (R267). A message enters the target mailbox once an entry is free. -/
  | messageDelivery (id : Nat)
  /-- EVENT_DELIVERY (R312). A held event enters its target mailbox as an entry frees. -/
  | eventDelivery (place : Nat)
  /-- PMX_CONTRIBUTION (R189). A partial pmx result arrives at the next participant, which merges and forwards it. -/
  | pmxContribution (id : Nat)
  /-- PMSEND_ARRIVAL (R190). A pmsend vector is accepted into a free pair-merge entry. -/
  | pmsendArrival (id : Nat)
  /-- SPAWNR_ADMISSION (R269). A target tile judges a remote spawn and creates the thread or refuses it. -/
  | spawnrAdmission (id : Nat)
  /-- REMOTE_REQUEST (R344). A REMOTE request arrives at the target package, is checked and acted on. -/
  | remoteRequest (id : Nat)
  /-- REMOTE_REPLY (R344). A reply or failure reply returns to the requester. -/
  | remoteReply (id : Nat)
  /-- REQUEST_TIMEOUT (R342). A request with no reply within 1,048,576 cycles is treated as failed. -/
  | requestTimeout (id : Nat)
  /-- FLIT_RECEIVE (R340). A flit arrives on a lane and is checked by CRC and SEQ. -/
  | flitReceive (port : Nat) (flit : BitVec 512) (link : BitVec 32) (crc : BitVec 32)
  /-- LINK_CONTROL_FLIT (R336). A link control flit delivers NAKs and credit returns. -/
  | linkControlFlit (port : Nat) (flit : BitVec 512)
  /-- LINK_REPLAY (R340). On a NAK the sender resends from NAKSEQ. -/
  | linkReplay (port : Nat) (nakSeq : BitVec 12)
  /-- PACKET_ROUTE (R338). A router forwards a packet in dimension order once downstream has room. -/
  | packetRoute (id : Nat)
  /-- LINK_RETRAIN (R342). A link that NAKs 8 times without progress retrains. -/
  | linkRetrain (port : Nat)
  /-- LINK_FAIL (R342). A link not retrained within 1,500,000 cycles fails. -/
  | linkFail (port : Nat)
  /-- TIME_SYNC (R348). An IEEE 1588 exchange adjusts the package time base. -/
  | timeSync (ns : Nat)
  /-- REFILL_TICK (R282). At each wrap of time-base bits [15:0] buckets refill and wake-again flags are handled. -/
  | refillTick
  /-- WAKE_WRITE (R283). A virtual function writes its doorbell to process a queue. -/
  | wakeWrite (fn : Nat) (data : BitVec 64)
  /-- VF_MEMORY_REQUEST (R347). A virtual function's memory request is translated and served. -/
  | vfMemoryRequest (fn : Nat) (write : Bool) (off : Nat) (size : Nat) (data : Nat)
  /-- CALL_SHEET_START (R287). An armed call-sheet entry reaches its start time and acts by its rule. -/
  | callSheetStart (part : Nat) (entry : Nat)
  /-- LAUNCH (R290). The launch unit checks a playbill and places and creates the launch's threads. -/
  | launch
  /-- LAUNCH_RELEASE (R293). A launch's threads enter ready at the first rotation boundary after the last creation. -/
  | launchRelease (id : Nat)
  /-- LAUNCH_END (R293). After the last tile publishes the launch unit adds 1 at CPL and writes DONE. -/
  | launchEnd (id : Nat)
  /-- GATE_REQUEST (R298). A gate's home unit takes one request, checks it and answers. -/
  | gateRequest (id : Nat)
  /-- GATE_COMMIT (R298). An accepted gsig or gpost commits its counter or mailbox change and serves waiters. -/
  | gateCommit (id : Nat)
  /-- GATE_REPLY (R297). A gate reply or wake reaches the waiting thread. -/
  | gateReply (id : Nat)
  /-- GATE_DELIVERY_ACK (R297). The receiving tile acknowledges a handed word and MBCNT falls. -/
  | gateDeliveryAck (id : Nat)
  /-- GATE_WAIT_LIMIT (R298). A gate wait's limit ends and its tile sends a cancel. -/
  | gateWaitLimit (tile : Nat) (slot : Nat)
  /-- GATE_CANCEL (R300). A cancel reaches the home and removes the waiter if still queued. -/
  | gateCancel (id : Nat)
  /-- GATE_RETURN (R300). A returned count or word is restored at the gate's home. -/
  | gateReturn (id : Nat)
  /-- THERMAL_CHECK (R273). Every 4,096 rotations each tile's temperature is compared with THOT and TCOOL. -/
  | thermalCheck (tile : Nat) (temp : Nat)
  /-- DISPLACE_THREAD (R274). After a shed one qualifying mobile thread per rotation moves to a host tile. -/
  | displaceThread (tile : Nat)
  /-- RETURN_HOME (R274). A displaced thread returns home once its home tile has no shed position. -/
  | returnHome (tile : Nat) (slot : Nat)
  /-- CURTAIN_STOP (R324). At T the partition's tiles stop, engines reach boundaries and packets are swept. -/
  | curtainStop (part : Nat)
  /-- CURTAIN_SAVE (R327). Context-save engines write each cluster's area and scrub the vacated tiles. -/
  | curtainSave (part : Nat)
  /-- CURTAIN_RESUME (R326). At T swept packets and held arrivals are delivered and issue restarts. -/
  | curtainResume (part : Nat)
  /-- CURTAIN_RESTORE (R328). Checks the entry and areas, loads every area and resumes. -/
  | curtainRestore (part : Nat)
  /-- CURTAIN_START (R323). Checks the entry, scrubs the partition and makes it running. -/
  | curtainStart (part : Nat)
  /-- MIGR_MOVE (R331). Moves one tile's whole context to a free destination tile. -/
  | migrMove (part : Nat)
  /-- MIGR_RETIRE (R333). Removes a forwarding entry after a final flush. -/
  | migrRetire (part : Nat)
  /-- FORWARD_PACKET (R330). A packet for a departed context is redirected to its tile or save-area inbox. -/
  | forwardPacket (id : Nat)
  /-- TAGCFG_WRITE (R140). A TAGCFG write stores the configuration and invalidates every tag entry. -/
  | tagcfgWrite (tile : Nat) (v : BitVec 64)
  /-- TRCTL_CLEAR (R145). A TRCTL write with CLR = 1 empties the trace ring. -/
  | trctlClear (tile : Nat)
  /-- TQUOTA_WRITE (R257). A TQUOTA write stores SEL and, with WQ = 1, that troupe's quota and RADM. -/
  | tquotaWrite (tile : Nat) (v : BitVec 64)
  /-- REGISTER_WRITE (R356). A write to a management-window register with no row of its own stores its value. -/
  | registerWrite (off : Nat) (v : BitVec 64)
  /-- RESET_COLD (R355). A write of 1 to RESET stops the package and requests a cold start. -/
  | resetCold
  /-- RESET_WARM (R355). A write of 2 to RESET stops the package and requests a warm start. -/
  | resetWarm
  /-- POWER_UP (R355). Power-up of the management controller begins a cold start. -/
  | powerUp
  /-- HLAUNCH (R356). A write to HLAUNCH creates the first hypervisor thread or refuses it. -/
  | hlaunch (v : BitVec 64)
  /-- ATTEST_START (R359). A write of 1 at 0x120 starts an attestation report. -/
  | attestStart
  /-- ATTEST_REPORT (R359). The controller writes the signed report and clears 0x120. -/
  | attestReport
  /-- SENSOR_ALARM (R360). A tamper, glitch or clock sensor acts by its policy. -/
  | sensorAlarm (kind : Nat)
  /-- THERMAL_TRIP (R361). A tile at or above TTRIP stops every tile and enters SAFE. -/
  | thermalTrip (tile : Nat) (temp : Nat)
  /-- TELEMETRY_REFRESH (R362). Every 4,096 rotations the controller refreshes the telemetry words. -/
  | telemetryRefresh (words : List (Nat × BitVec 64))
  /-- ILLEGAL_INSTRUCTION (R56). A fetched word that holds a reserved major, function, size or other reserved code, or a nonzero must-be-zero field, traps ILLEGAL precisely with no effect. -/
  | illegalInstruction (w : BitVec 32)
  /-- NODE_TIME_LOST (R348). When the control node's time is lost, the package time base stops following it and runs free on the package clock. -/
  | nodeTimeLost
  /-- LINK_RETRAINED (R342). A retraining link completes its retraining within 1,500,000 cycles and carries flits again instead of failing. -/
  | linkRetrained (port : Nat)
  deriving DecidableEq, Repr

end Sys2Proof
end

