-- ==== Sys2Proof/Machine/Event.lean ====
section
/-! DEFINITION. The device's own steps and its inputs from outside as plain data of the state: one
constructor per row of the operation table that has no word. `toInstr` is the row's instruction. -/

namespace Sys2Proof.Machine

/-- A step of the device, or an input from outside it, with the pending item it acts on. -/
inductive Event where
  /-- STALL_EXPIRY (R251). -/
  | stallExpiry (tile : Nat) (slot : Nat)
  /-- PROMPTER_ISSUE (R254). -/
  | prompterIssue (tile : Nat)
  /-- ROTATION_END (R255). -/
  | rotationEnd (tile : Nat)
  /-- ROSET_APPLY (R271). -/
  | rosetApply (tile : Nat)
  /-- ACCESS_REPLY (R129). -/
  | accessReply (id : Nat)
  /-- REMOTE_PORT_ACCESS (R130). -/
  | remotePortAccess (id : Nat)
  /-- POSTED_ACK (R243). -/
  | postedAck (id : Nat)
  /-- SEC_WRITEBACK (R126). -/
  | secWriteback (place : Nat) (word : Nat)
  /-- STORE_PROBE_REPLY (R133). -/
  | storeProbeReply (id : Nat)
  /-- VIEW_DROP (R235). -/
  | viewDrop (tile : Nat) (key : Nat)
  /-- PHASE_COMPLETE (R247). -/
  | phaseComplete (tile : Nat) (slot : Nat)
  /-- IFENCE_COMPLETE (R248). -/
  | ifenceComplete (tile : Nat) (slot : Nat)
  /-- SLICE_ACCESS (R86). -/
  | sliceAccess (id : Nat)
  /-- SECTOR_FILL (R73). -/
  | sectorFill (id : Nat)
  /-- SECTOR_WRITEBACK (R73). -/
  | sectorWriteback (key : Nat)
  /-- MEMORY_SIDE_AMO (R74). -/
  | memorySideAmo (id : Nat)
  /-- OP_AMO (R77). -/
  | opAmo (id : Nat)
  /-- OP_CAS2 (R77). -/
  | opCas2 (id : Nat)
  /-- OP_CAS4 (R77). -/
  | opCas4 (id : Nat)
  /-- OP_LENQ (R77). -/
  | opLenq (id : Nat)
  /-- OP_LDEQ (R77). -/
  | opLdeq (id : Nat)
  /-- OP_CHASE (R77). -/
  | opChase (id : Nat)
  /-- FORWARDED_PAGE_ACCESS (R94). -/
  | forwardedPageAccess (id : Nat)
  /-- REMOTE_PAGE_FAIL (R97). -/
  | remotePageFail (id : Nat)
  /-- XL_INVPAGE (R93). -/
  | xlInvpage (id : Nat)
  /-- XL_RETIRE (R91). -/
  | xlRetire (id : Nat)
  /-- XL_ACTIVATE (R91). -/
  | xlActivate (id : Nat)
  /-- XL_HARVEST (R93). -/
  | xlHarvest (id : Nat)
  /-- STAGEHAND_ACCEPT (R100). -/
  | stagehandAccept (cluster : Nat)
  /-- STAGEHAND_START (R100). -/
  | stagehandStart (cluster : Nat)
  /-- STAGEHAND_COMPLETE (R109). -/
  | stagehandComplete (cluster : Nat) (id : Nat)
  /-- MATRIX_ACCEPT (R201). -/
  | matrixAccept (tile : Nat)
  /-- MATRIX_START (R201). -/
  | matrixStart (tile : Nat) (id : Nat)
  /-- MATRIX_COMPLETE (R201). -/
  | matrixComplete (tile : Nat) (id : Nat)
  /-- MCLAIM_GRANT (R200). -/
  | mclaimGrant (tile : Nat) (id : Nat)
  /-- MREL_FREE (R200). -/
  | mrelFree (tile : Nat) (id : Nat)
  /-- MGEMM_STEP (R209). -/
  | mgemmStep (tile : Nat) (id : Nat)
  /-- TASK_START (R220). -/
  | taskStart (cluster : Nat) (queue : Nat)
  /-- TASK_RETIRE (R222). -/
  | taskRetire (cluster : Nat) (id : Nat)
  /-- SWAP_ACCEPT (R79). -/
  | swapAccept (die : Nat)
  /-- SWAP_ENTRY_DONE (R79). -/
  | swapEntryDone (id : Nat)
  /-- FLASH_UNIT_REPLY (R349). -/
  | flashUnitReply (id : Nat) (err : Bool) (data : BitVec 32768)
  /-- STREAM_FETCH (R115). -/
  | streamFetch (tile : Nat) (slot : Nat) (n : Nat)
  /-- STREAM_WRITE (R115). -/
  | streamWrite (tile : Nat) (slot : Nat) (n : Nat)
  /-- CUE_SIGNAL_ARRIVAL (R264). -/
  | cueSignalArrival (id : Nat)
  /-- CWAITT_LIMIT (R264). -/
  | cwaittLimit (tile : Nat) (slot : Nat)
  /-- RECVT_LIMIT (R267). -/
  | recvtLimit (tile : Nat) (slot : Nat)
  /-- MESSAGE_DELIVERY (R267). -/
  | messageDelivery (id : Nat)
  /-- EVENT_DELIVERY (R312). -/
  | eventDelivery (place : Nat)
  /-- PMX_CONTRIBUTION (R189). -/
  | pmxContribution (id : Nat)
  /-- PMSEND_ARRIVAL (R190). -/
  | pmsendArrival (id : Nat)
  /-- SPAWNR_ADMISSION (R269). -/
  | spawnrAdmission (id : Nat)
  /-- REMOTE_REQUEST (R344). -/
  | remoteRequest (id : Nat)
  /-- REMOTE_REPLY (R344). -/
  | remoteReply (id : Nat)
  /-- REQUEST_TIMEOUT (R342). -/
  | requestTimeout (id : Nat)
  /-- FLIT_RECEIVE (R340). -/
  | flitReceive (port : Nat) (flit : BitVec 512) (link : BitVec 32) (crc : BitVec 32)
  /-- LINK_CONTROL_FLIT (R336). -/
  | linkControlFlit (port : Nat) (flit : BitVec 512)
  /-- LINK_REPLAY (R340). -/
  | linkReplay (port : Nat) (nakSeq : BitVec 12)
  /-- PACKET_ROUTE (R338). -/
  | packetRoute (id : Nat)
  /-- LINK_RETRAIN (R342). -/
  | linkRetrain (port : Nat)
  /-- LINK_FAIL (R342). -/
  | linkFail (port : Nat)
  /-- TIME_SYNC (R348). -/
  | timeSync (ns : Nat)
  /-- REFILL_TICK (R282). -/
  | refillTick
  /-- WAKE_WRITE (R283). -/
  | wakeWrite (fn : Nat) (data : BitVec 64)
  /-- VF_MEMORY_REQUEST (R347). -/
  | vfMemoryRequest (fn : Nat) (write : Bool) (off : Nat) (size : Nat) (data : Nat)
  /-- CALL_SHEET_START (R287). -/
  | callSheetStart (part : Nat) (entry : Nat)
  /-- LAUNCH (R290). -/
  | launch
  /-- LAUNCH_RELEASE (R293). -/
  | launchRelease (id : Nat)
  /-- LAUNCH_END (R293). -/
  | launchEnd (id : Nat)
  /-- GATE_REQUEST (R298). -/
  | gateRequest (id : Nat)
  /-- GATE_COMMIT (R298). -/
  | gateCommit (id : Nat)
  /-- GATE_REPLY (R297). -/
  | gateReply (id : Nat)
  /-- GATE_DELIVERY_ACK (R297). -/
  | gateDeliveryAck (id : Nat)
  /-- GATE_WAIT_LIMIT (R298). -/
  | gateWaitLimit (tile : Nat) (slot : Nat)
  /-- GATE_CANCEL (R300). -/
  | gateCancel (id : Nat)
  /-- GATE_RETURN (R300). -/
  | gateReturn (id : Nat)
  /-- THERMAL_CHECK (R273). -/
  | thermalCheck (tile : Nat) (temp : Nat)
  /-- DISPLACE_THREAD (R274). -/
  | displaceThread (tile : Nat)
  /-- RETURN_HOME (R274). -/
  | returnHome (tile : Nat) (slot : Nat)
  /-- CURTAIN_STOP (R324). -/
  | curtainStop (part : Nat)
  /-- CURTAIN_SAVE (R327). -/
  | curtainSave (part : Nat)
  /-- CURTAIN_RESUME (R326). -/
  | curtainResume (part : Nat)
  /-- CURTAIN_RESTORE (R328). -/
  | curtainRestore (part : Nat)
  /-- CURTAIN_START (R323). -/
  | curtainStart (part : Nat)
  /-- MIGR_MOVE (R331). -/
  | migrMove (part : Nat)
  /-- MIGR_RETIRE (R333). -/
  | migrRetire (part : Nat)
  /-- FORWARD_PACKET (R330). -/
  | forwardPacket (id : Nat)
  /-- TAGCFG_WRITE (R140). -/
  | tagcfgWrite (tile : Nat) (v : BitVec 64)
  /-- TRCTL_CLEAR (R145). -/
  | trctlClear (tile : Nat)
  /-- TQUOTA_WRITE (R257). -/
  | tquotaWrite (tile : Nat) (v : BitVec 64)
  /-- REGISTER_WRITE (R356). -/
  | registerWrite (off : Nat) (v : BitVec 64)
  /-- RESET_COLD (R355). -/
  | resetCold
  /-- RESET_WARM (R355). -/
  | resetWarm
  /-- POWER_UP (R355). -/
  | powerUp
  /-- HLAUNCH (R356). -/
  | hlaunch (v : BitVec 64)
  /-- ATTEST_START (R359). -/
  | attestStart
  /-- ATTEST_REPORT (R359). -/
  | attestReport
  /-- SENSOR_ALARM (R360). -/
  | sensorAlarm (kind : Nat)
  /-- THERMAL_TRIP (R361). -/
  | thermalTrip (tile : Nat) (temp : Nat)
  /-- TELEMETRY_REFRESH (R362). -/
  | telemetryRefresh (words : List (Nat × BitVec 64))
  /-- ILLEGAL_INSTRUCTION (R56). -/
  | illegalInstruction (w : BitVec 32)
  /-- NODE_TIME_LOST (R348). -/
  | nodeTimeLost
  /-- LINK_RETRAINED (R342). -/
  | linkRetrained (port : Nat)
  deriving DecidableEq, Repr

/-- The instruction of the row an event belongs to. -/
noncomputable def Event.toInstr : Event → Instr
  | .stallExpiry tile slot => .stallExpiry tile slot
  | .prompterIssue tile => .prompterIssue tile
  | .rotationEnd tile => .rotationEnd tile
  | .rosetApply tile => .rosetApply tile
  | .accessReply id => .accessReply id
  | .remotePortAccess id => .remotePortAccess id
  | .postedAck id => .postedAck id
  | .secWriteback place word => .secWriteback place word
  | .storeProbeReply id => .storeProbeReply id
  | .viewDrop tile key => .viewDrop tile key
  | .phaseComplete tile slot => .phaseComplete tile slot
  | .ifenceComplete tile slot => .ifenceComplete tile slot
  | .sliceAccess id => .sliceAccess id
  | .sectorFill id => .sectorFill id
  | .sectorWriteback key => .sectorWriteback key
  | .memorySideAmo id => .memorySideAmo id
  | .opAmo id => .opAmo id
  | .opCas2 id => .opCas2 id
  | .opCas4 id => .opCas4 id
  | .opLenq id => .opLenq id
  | .opLdeq id => .opLdeq id
  | .opChase id => .opChase id
  | .forwardedPageAccess id => .forwardedPageAccess id
  | .remotePageFail id => .remotePageFail id
  | .xlInvpage id => .xlInvpage id
  | .xlRetire id => .xlRetire id
  | .xlActivate id => .xlActivate id
  | .xlHarvest id => .xlHarvest id
  | .stagehandAccept cluster => .stagehandAccept cluster
  | .stagehandStart cluster => .stagehandStart cluster
  | .stagehandComplete cluster id => .stagehandComplete cluster id
  | .matrixAccept tile => .matrixAccept tile
  | .matrixStart tile id => .matrixStart tile id
  | .matrixComplete tile id => .matrixComplete tile id
  | .mclaimGrant tile id => .mclaimGrant tile id
  | .mrelFree tile id => .mrelFree tile id
  | .mgemmStep tile id => .mgemmStep tile id
  | .taskStart cluster queue => .taskStart cluster queue
  | .taskRetire cluster id => .taskRetire cluster id
  | .swapAccept die => .swapAccept die
  | .swapEntryDone id => .swapEntryDone id
  | .flashUnitReply id err data => .flashUnitReply id err data
  | .streamFetch tile slot n => .streamFetch tile slot n
  | .streamWrite tile slot n => .streamWrite tile slot n
  | .cueSignalArrival id => .cueSignalArrival id
  | .cwaittLimit tile slot => .cwaittLimit tile slot
  | .recvtLimit tile slot => .recvtLimit tile slot
  | .messageDelivery id => .messageDelivery id
  | .eventDelivery place => .eventDelivery place
  | .pmxContribution id => .pmxContribution id
  | .pmsendArrival id => .pmsendArrival id
  | .spawnrAdmission id => .spawnrAdmission id
  | .remoteRequest id => .remoteRequest id
  | .remoteReply id => .remoteReply id
  | .requestTimeout id => .requestTimeout id
  | .flitReceive port flit link crc => .flitReceive port flit link crc
  | .linkControlFlit port flit => .linkControlFlit port flit
  | .linkReplay port nakSeq => .linkReplay port nakSeq
  | .packetRoute id => .packetRoute id
  | .linkRetrain port => .linkRetrain port
  | .linkFail port => .linkFail port
  | .timeSync ns => .timeSync ns
  | .refillTick => .refillTick
  | .wakeWrite fn data => .wakeWrite fn data
  | .vfMemoryRequest fn write off size data => .vfMemoryRequest fn write off size data
  | .callSheetStart part entry => .callSheetStart part entry
  | .launch => .launch
  | .launchRelease id => .launchRelease id
  | .launchEnd id => .launchEnd id
  | .gateRequest id => .gateRequest id
  | .gateCommit id => .gateCommit id
  | .gateReply id => .gateReply id
  | .gateDeliveryAck id => .gateDeliveryAck id
  | .gateWaitLimit tile slot => .gateWaitLimit tile slot
  | .gateCancel id => .gateCancel id
  | .gateReturn id => .gateReturn id
  | .thermalCheck tile temp => .thermalCheck tile temp
  | .displaceThread tile => .displaceThread tile
  | .returnHome tile slot => .returnHome tile slot
  | .curtainStop part => .curtainStop part
  | .curtainSave part => .curtainSave part
  | .curtainResume part => .curtainResume part
  | .curtainRestore part => .curtainRestore part
  | .curtainStart part => .curtainStart part
  | .migrMove part => .migrMove part
  | .migrRetire part => .migrRetire part
  | .forwardPacket id => .forwardPacket id
  | .tagcfgWrite tile v => .tagcfgWrite tile v
  | .trctlClear tile => .trctlClear tile
  | .tquotaWrite tile v => .tquotaWrite tile v
  | .registerWrite off v => .registerWrite off v
  | .resetCold => .resetCold
  | .resetWarm => .resetWarm
  | .powerUp => .powerUp
  | .hlaunch v => .hlaunch v
  | .attestStart => .attestStart
  | .attestReport => .attestReport
  | .sensorAlarm kind => .sensorAlarm kind
  | .thermalTrip tile temp => .thermalTrip tile temp
  | .telemetryRefresh words => .telemetryRefresh words
  | .illegalInstruction w => .illegalInstruction w
  | .nodeTimeLost => .nodeTimeLost
  | .linkRetrained port => .linkRetrained port

end Sys2Proof.Machine
end

