-- ==== Sys2Proof/Machine/State.lean ====
section
/-! DEFINITION. The state of one package (R2, R11) as plain data, its reasons to stop, and the
state at power-up. Numbers of places, queues and pending items are `Nat`; what the spec treats as
bits is a bit vector. -/

namespace Sys2Proof.Machine

/-- Why the machine stops: for no reason. Whatever fails is a trap, an event or a status of the
device, and the machine goes on. -/
inductive Fault where
  deriving DecidableEq, Repr

/-- Why an instruction has no meaning. -/
inductive Refusal where
  /-- Raised by an arm of `exec` that has no meaning yet. Safe. -/
  | notModelled (mnemonic : String)
  deriving DecidableEq, Repr

/-- The trap causes of R308. -/
inductive Cause where
  | illegal | priv | misalign | addr | page | prot | pageLost | ptrOvf | format | stallShort
  | residue | uncorr | redundancy | gateFault | slot | stream | reg | vwin | fp | brk | swtrap
  | remoteFail | engine | perm | phaseLogFull
  deriving DecidableEq, Repr

/-- The code of a cause (R308). -/
def Cause.code : Cause → Nat
  | .illegal => 0x01 | .priv => 0x02 | .misalign => 0x03 | .addr => 0x04 | .page => 0x05
  | .prot => 0x06 | .pageLost => 0x07 | .ptrOvf => 0x08 | .format => 0x09 | .stallShort => 0x0B
  | .residue => 0x0C | .uncorr => 0x0D | .redundancy => 0x0E | .gateFault => 0x0F | .slot => 0x11
  | .stream => 0x12 | .reg => 0x13 | .vwin => 0x14 | .fp => 0x15 | .brk => 0x16 | .swtrap => 0x17
  | .remoteFail => 0x18 | .engine => 0x19 | .perm => 0x1A | .phaseLogFull => 0x1B

/-- A thread's place: physical package tile and slot (R10). -/
structure Tid where
  tile : Nat
  slot : Nat
  deriving DecidableEq, Repr

/-- A scalar register: a value and its stored 4-bit residue (R148, R149). -/
structure XReg where
  v : Word
  r : BitVec 4
  deriving DecidableEq, Repr

/-- Zero with residue 0 (R250). -/
def XReg.zero : XReg := ⟨0, 0⟩

/-- A cue waiter: who waits and for how many (R264). -/
structure CueWaiter where
  tid : Tid
  n : Nat
  deriving DecidableEq, Repr

/-- A cue (R263). -/
structure Cue where
  value : BitVec 32
  err : Bool
  estat : Word
  waiters : List CueWaiter
  deriving DecidableEq, Repr

/-- A cue after creation or start. -/
def Cue.zero : Cue := ⟨0, false, 0, []⟩

/-- The cue a completion tag names (R42, R153). -/
inductive CueRef where
  /-- The cue of a thread that has ended: signals to it are discarded (R265). -/
  | none
  | priv (t : Tid) (n : Nat)
  | tile (t : Nat) (n : Nat)
  deriving DecidableEq, Repr

/-- An entry of a stream FIFO: its number in the stream (0 in a pipe), its bytes, and whether its words
have become uncorrectable (R112, R313). -/
structure FifoEntry where
  n : Nat
  v : VWord
  bad : Bool
  deriving DecidableEq, Repr

/-- A bound stream (R112 to R120). `fifo` holds fetched or pushed entries, oldest first; `seen` the
64-B units of the next entry that have been read already (R122). -/
structure Stream where
  kind : Nat
  base : Word
  stride : Int
  count : Nat
  aux : Word
  key : Nat
  dir : Nat
  skipN : Nat
  fifo : List FifoEntry
  seen : SMap (BitVec 512)
  marked : Bool
  next : Nat
  pos : Nat
  st : Nat
  err : Nat
  asid : BitVec 16
  priv : Nat
  deriving DecidableEq, Repr

/-- A pipe of the tile: entries in push order, its two ends, whether the write end and whether the
read end has unbound (R117). -/
structure Pipe where
  troupe : Nat
  key : Nat
  fifo : List FifoEntry
  writer : Option Tid
  reader : Option Tid
  ended : Bool
  rgone : Bool
  deriving DecidableEq, Repr

/-- An open gate handle: the gate and its rights S W P T (R296). -/
structure Handle where
  gate : Nat
  rights : BitVec 4
  deriving DecidableEq, Repr

/-- The status word fields of a port (R80, R104, R214, R224). -/
structure PortStat where
  done : Nat
  lastst : Nat
  flushed : Nat
  outst : Nat
  deriving DecidableEq, Repr

/-- No failure, nothing outstanding. -/
def PortStat.zero : PortStat := ⟨0, 0, 0, 0⟩

/-- A fixed-latency result not yet written (R45): register (0-31 scalar, 32 + physical number
vector), value, residue, the cycle from which it is ready, and whether it accrues flags (R157). -/
structure Pending where
  reg : Nat
  val : VWord
  res : BitVec 4
  due : Nat
  fp : Bool
  deriving DecidableEq, Repr

/-- A gather or scatter under way (R186, R187): the bytes of an element, the elements still to be moved
(lane and scratchpad offset, in ascending lanes), a scatter's vector, a gather's lanes so far, and whether
a word read was uncorrectable. -/
structure GatherOp where
  sz : Nat
  write : Bool
  els : List (Nat × Nat)
  v : VWord
  got : SMap Nat
  bad : Bool
  deriving DecidableEq, Repr

/-- What a waiting thread waits for, with what completes it (R251). `due` fields are remaining
rotations of a timed wait (R326). -/
inductive Wait where
  /-- A load's reply: register, size, sign extension, pointer. -/
  | load (rd size : Nat) (sgn : Bool) (ea : Word)
  /-- An atomic's reply: register, size, pointer. -/
  | amo (rd size : Nat) (ea : Word)
  /-- A vector load's reply: vector field, bytes, pointer. -/
  | vload (vd sz : Nat) (ea : Word)
  /-- A global store's probe: bytes to store, pointer (R133), and the streams that the store pops once it
  has passed (R113). -/
  | probe (ea : Word) (bytes : List Byte) (pops : List Nat)
  /-- A reply whose value goes to a register. -/
  | value (rd : Nat)
  /-- A reply whose value is a vector for a vector field. -/
  | vector (vd : Nat)
  /-- A reply without a value. -/
  | done
  /-- A gather (its vector field) or scatter under way, and the cycle of its last access, or of its issue
  (R187). -/
  | gather (vd : Option Nat) (op : GatherOp) (at_ : Nat)
  /-- cwait: the cue. -/
  | cue (c : CueRef)
  /-- cwaitt: the cue, register, remaining rotations. -/
  | cueTimed (c : CueRef) (rd left : Nat)
  /-- recv and recvt. -/
  | recv (rd : Nat)
  | recvt (rd left : Nat)
  /-- send: until the message is in the target mailbox. -/
  | send
  /-- spawn: register, descriptor pointer, x[rb] if it is the argument (R260). -/
  | spawn (rd : Nat) (ea : Word) (arg : Option Word)
  /-- join of a thread. -/
  | join (rd : Nat) (t : Tid)
  /-- A gate operation's reply: register, token of a queued waiter, remaining rotations, gate. -/
  | gate (rd : Nat) (gate : Nat) (take : Bool) (token : Nat) (left : Option Nat)
  /-- An engine's acceptance (port). -/
  | accept (port : Nat)
  | claim
  | release
  /-- phase: effective scope and the path sets; arrived at its group. -/
  | phase (scope : Nat) (pred succ : BitVec 6)
  /-- fence, and phase before it arrives: posted writes, posted signals, pushed entries or buffered
  global stores are outstanding; it issues again (R243, R246). -/
  | fence (w n c g : Bool)
  | ifence (scope : Nat)
  /-- The instruction issues again once a resource it lacked may be there (R129, R119). -/
  | retry
  /-- The instruction has still to issue: a stream that it pops or pushes was not ready (R113). -/
  | stream
  /-- pmx: key, base, participants, own index, vector field, F64, and the contribution until it has been
  sent or merged (R189). -/
  | pmx (key base n idx vd : Nat) (dbl : Bool) (own : Option VWord)
  /-- pmrecv: source logical tile, key, vector field. -/
  | pmrecv (src key vd : Nat)
  | pmsend
  | idle
  /-- A remote request: its tag. -/
  | remote (rtag : Nat) (rd : Nat) (kind : Nat) (ptr : Word)
  /-- sbind that has read its descriptor and waits for a FIFO: the stream's number and the binding
  (R119). -/
  | bind (n : Nat) (b : Stream)
  /-- A package CSR access, roset, repart, curtain or migr: until it is performed. -/
  | perform
  /-- Placed by the launch unit, until its launch is released (R293). -/
  | placed
  /-- Exited undetached and not yet joined (R261). -/
  | exited
  /-- Ended with an exit value; its tile has still to publish for its launch (R240). -/
  | ending (v : Word)
  deriving DecidableEq, Repr

/-- The state of a slot (R251). -/
inductive Slot where
  | free
  | ready
  /-- until the cycle `until_`. -/
  | issued (until_ : Nat)
  /-- not before the cycle `from_` of R44 (R46). -/
  | waiting (w : Wait) (from_ : Nat)
  /-- Delivered to a handler, ready when this many further rotation boundaries have passed after the
  next one (R303; an understudy one rotation after its leader, R319); `none` stays trapped. -/
  | trapped (entry : Option Nat)
  | parked
  /-- The context is moving (R274, R331): the state it takes up again. -/
  | migrating (back : Slot)
  /-- Taken by a context that is moving here from another tile (R274). -/
  | arriving (from_ : Tid)
  deriving DecidableEq, Repr

/-- What a leader's issue has left in its load-value queue and store comparator for the
understudy's copy (R317, R318). -/
inductive LvOut where
  /-- In the store comparator: performed when the copies agree. -/
  | held
  /-- A value taken from outside at the leader's issue: its register (0-31 scalar, 32 + vector
  field), and in `due` the cycles until it is ready. -/
  | took (v : Option Pending)
  /-- The leader's access trapped. -/
  | trapped (c : Cause) (v : Word)
  /-- The leader waits for its value, which goes to this register when it comes. -/
  | slept (rd : Option Nat)
  deriving DecidableEq, Repr

/-- An entry of the load-value queue and store comparator (R317, R318): the cycle of the
understudy's issue, the instruction's address and word, and what stands for its copy. -/
structure LvEntry where
  due : Nat
  pc : Word
  ir : IWord
  out : LvOut
  deriving DecidableEq, Repr

/-- A thread slot and its context (R250). -/
structure Thread where
  st : Slot
  pc : Word
  x : SMap XReg
  vwBase : Nat
  vwSize : Nat
  streams : SMap Stream
  e : SMap Word
  cues : SMap Cue
  fflags : BitVec 13
  frm : BitVec 4
  lfsr : BitVec 32
  instret : Word
  repidx : BitVec 15
  repBody : Option (IWord × BitVec 5)
  /-- Of a word that issues again after its thread waited: the cycle of R44 that its first issue set
  (R46). -/
  again : Option Nat
  cuemap : Word
  asid : BitVec 16
  pfcause : BitVec 8
  clamped : Bool
  chkstl : Bool
  inh : Bool
  ppriv : Nat
  tcause : BitVec 8
  tval : Word
  tpc : Word
  troupe : Nat
  prio : Nat
  boost : Nat
  age : Nat
  yielded : Bool
  readySince : Nat
  candidate : Bool
  priv : Nat
  home : Nat
  homeSlot : Nat
  leader : Bool
  shadow : Bool
  partner : Nat
  /-- A leader's load-value queue and store comparator, oldest first (R317, R318). -/
  lvq : List LvEntry
  mobile : Bool
  detached : Bool
  handles : SMap Handle
  mailbox : List Word
  exitVal : Word
  pend : List Pending
  /-- The cycle at which the last floating-point or vector result that may raise flags is due
  (R157). -/
  flagsDue : Nat
  postedW : Nat
  postedN : Nat
  /-- The units of global memory that its plain stores have written and that loads may not find yet, each
  with whether it has been published (R234, R246). -/
  gstores : List (Nat × Bool)
  failW : Option (Nat × Word)
  failN : Option (Nat × Word)
  ports : SMap PortStat
  launch : Nat
  units : List Nat
  deriving DecidableEq, Repr

/-- A free slot (log 1 [DESIGN CHOICE] names the values that no creation has set). -/
def Thread.none : Thread :=
  { st := .free, pc := 0, x := [], vwBase := 0, vwSize := 0, streams := [], e := [], cues := [],
    fflags := 0, frm := 0, lfsr := 1, instret := 0, repidx := 0, repBody := .none, again := .none,
    cuemap := 0,
    asid := 0, pfcause := 0, clamped := false, chkstl := false, inh := false, ppriv := 0,
    tcause := 0, tval := 0, tpc := 0, troupe := 0, prio := 0, boost := 0, age := 0,
    yielded := false, readySince := 0, candidate := false, priv := 0, home := 0, homeSlot := 0,
    leader := false, shadow := false, partner := 0, lvq := [], mobile := false,
    detached := false, handles := [], mailbox := [], exitVal := 0, pend := [], flagsDue := 0,
    postedW := 0, postedN := 0, gstores := [], failW := .none, failN := .none, ports := [], launch := 0, units := [] }

/-- The snapshots of an engine command (R101, R202, R218). VWIN.BASE is the thread's own: VWIN is
read-only (R174). -/
structure Snap where
  tid : Tid
  home : Nat
  displaced : Bool
  asid : BitVec 16
  priv : Nat
  frm : BitVec 4
  lfsr : BitVec 32
  vwSize : Nat
  e : List Word
  cue : CueRef
  task : Option Nat
  deriving DecidableEq, Repr

/-- A command of an engine: port, CMD, operands, snapshots, elements, rows or steps done, whether
it has started, and the XE8 source position and scale bytes it keeps (R106, R205, R209, R217): a byte, or
256 more than the status with which its read fails. `seen` holds the 64-B source units that have been read
ahead of the elements in them (R111, R204). -/
structure Command where
  id : Nat
  port : Nat
  cmd : Nat
  a : Word
  b : Word
  snap : Snap
  done : Nat
  started : Bool
  srcA : Nat
  srcB : Nat
  scales : Option (List Nat)
  seen : SMap (BitVec 512)
  deriving DecidableEq, Repr

/-- A claim or release waiting at a matrix engine (R200). -/
structure Claim where
  id : Nat
  tid : Tid
  mask : Nat
  deriving DecidableEq, Repr

/-- Who holds a slot or an accumulator (R199). -/
inductive Holder where
  | thread (t : Tid)
  | task (id : Nat)
  /-- A thread that has ended while commands still name the resource (R200). -/
  | gone
  deriving DecidableEq, Repr

/-- A slot tag: a format code 1-11 with BLKL, or raw (FMT 0) (R196). -/
structure SlotTag where
  fmt : Nat
  blkl : Nat
  deriving DecidableEq, Repr

/-- An entry of the tag table (R141). -/
structure Tag where
  valid : Bool
  dirty : Bool
  space : Nat
  line : Nat
  deriving DecidableEq, Repr

/-- TRCTL's stored fields and the trace ring (R145, R146). -/
structure Trace where
  fill : Nat
  head : Nat
  sel : Nat
  ovf : Bool
  logLocal : Bool
  wrap : Bool
  en : Bool
  entries : SMap (Word × Word)
  deriving DecidableEq, Repr

/-- The trace ring after a start. -/
def Trace.zero : Trace := ⟨0, 0, 0, false, false, false, false, []⟩

/-- Per-troupe registers of a tile: QUOTA, RADM (R257), TVEC (R306). -/
structure Troupe where
  quota : Nat
  radm : Bool
  tvec : Word
  deriving DecidableEq, Repr

/-- A troupe after a start (R257). -/
def Troupe.zero : Troupe := ⟨512, false, 0⟩

/-- A 64-B unit of the write buffer, the phase log or the view: bytes and byte mask (R234, R235). -/
structure Unit64 where
  data : BitVec 512
  mask : BitVec 64
  deriving DecidableEq, Repr

/-- How the trace ring logs a write (R146): KIND, SRC, bytes, offset. -/
structure LogAs where
  kind : Nat
  src : Nat
  size : Nat
  off : Nat
  deriving DecidableEq, Repr

/-- Bytes of a 64-B unit of a scratchpad that an engine has written on its path (2 C, 3 M) and that have
not reached the bank (R111, R216); `cmd` is the command while it runs, 0 once it has completed; `log` holds
the entries that the ring gets for them (R147). -/
structure Late where
  path : Nat
  cmd : Nat
  unit : Nat
  data : Unit64
  log : List LogAs
  deriving DecidableEq, Repr

/-- A pair-merge entry (R190); whether its words have become uncorrectable (R313). -/
structure PmEntry where
  src : Nat
  key : Nat
  vec : VWord
  bad : Bool
  deriving DecidableEq, Repr

/-- Where a forwarding entry sends a departed context's packets (R330). -/
inductive Forward where
  | migrated (tile : Nat)
  | saved (serial : Nat)
  deriving DecidableEq, Repr

/-- A forwarding entry: partition, logical tile, kind, packets forwarded (R330), the threads that waited
for a pair-merge operation when the context left, slot and INSTRET, and the number below which the requests
issued before that lie (R333). -/
structure FwdEntry where
  part : Nat
  ltile : Nat
  kind : Forward
  count : Nat
  pm : List (Nat × Word)
  asked : Nat
  deriving DecidableEq, Repr

/-- The SEC-DED marks of an SRAM: 64-bit words with a corrected and with an uncorrectable error
(R126). -/
structure Marks where
  corr : List Nat
  bad : List Nat
  deriving DecidableEq, Repr

/-- No word is marked. -/
def Marks.none : Marks := ⟨[], []⟩

/-- The marks of the words that `p` names. -/
def Marks.keep (m : Marks) (p : Nat → Bool) : Marks := ⟨m.corr.filter p, m.bad.filter p⟩

/-- Two sets of marks together. -/
def Marks.join (m n : Marks) : Marks := ⟨m.corr ++ n.corr, m.bad ++ n.bad⟩

/-- A tile (R11). -/
structure Tile where
  wide : Bool
  threads : SMap Thread
  runord : Word
  rosetOff : BitVec 16
  shedOff : BitVec 16
  /-- The positions shed, the last first, each with the troupe that lost it (R273, R274). -/
  shedStack : List (Nat × Nat)
  rosets : List (Nat × Nat × Bool × Tid)
  troupes : SMap Troupe
  tqSel : Nat
  ageStep : BitVec 8
  spad : Memory
  spadMarks : Marks
  /-- By 64-B unit of the scratchpad: the bytes that the engines' paths still find there, where thread
  stores have replaced them since (R111, R204). -/
  lag : SMap Unit64
  /-- What engines have written and the banks have not taken yet, oldest first (R111, R216). -/
  late : List Late
  /-- The banks that thread accesses of the present cycle have claimed, while a gather or scatter is under
  way (R187). -/
  claimed : List Nat
  cues : SMap Cue
  tagcfg : Word
  tags : SMap Tag
  tagPtr : SMap Nat
  trace : Trace
  vfile : SMap VWord
  vMarks : Marks
  opmem : Memory
  slotTag : SMap SlotTag
  side : Memory
  acc : Memory
  opMarks : Marks
  holders : SMap Holder
  claims : List Claim
  releases : List Claim
  mArrivals : List Command
  mQueue : List Command
  pipes : List Pipe
  icache : SMap IWord
  wbuf : SMap Unit64
  plog : SMap Unit64
  view : SMap Unit64
  probed : List Nat
  posted : Nat
  pmEntries : List PmEntry
  fwd : List FwdEntry
  heldEvents : List (Tid × Word)
  loss : List Nat
  flushDue : Bool
  stopped : Bool
  deriving DecidableEq, Repr

/-- A tile after a start. -/
def Tile.zero : Tile :=
  { wide := false, threads := [], runord := 0, rosetOff := 0, shedOff := 0, shedStack := [],
    rosets := [], troupes := [], tqSel := 0, ageStep := 0, spad := [],
    spadMarks := Marks.none, lag := [], late := [], claimed := [], cues := [], tagcfg := 0, tags := [],
    tagPtr := [], trace := Trace.zero,
    vfile := [], vMarks := Marks.none, opmem := [], slotTag := [], side := [], acc := [],
    opMarks := Marks.none,
    holders := [], claims := [], releases := [], mArrivals := [], mQueue := [], pipes := [],
    icache := [], wbuf := [], plog := [], view := [], probed := [], posted := 0,
    pmEntries := [], fwd := [], heldEvents := [], loss := [],
    flushDue := false, stopped := false }

/-- A tile task (R219): the record's fields, its number, and whether it runs. -/
structure Task where
  id : Nat
  ident : Nat
  queue : Nat
  eng : Nat
  barrier : Bool
  deps : List Nat
  port : Nat
  cmd : Nat
  opa : Word
  opb : Word
  snap : Snap
  tile : Nat
  seq : Nat
  finished : Option (Nat × Nat)
  deriving DecidableEq, Repr

/-- A cluster's units (R11): shared memory, stagehand, stage manager. -/
structure Cluster where
  shm : Memory
  shmMarks : Marks
  shArrivals : List Command
  shQueue : List Command
  shRunning : List Command
  waiting : List Task
  running : List Task
  lastQueue : Nat
  flushes : List (Nat × Tid × CueRef × List Nat)
  posts : List (Task × CueRef)
  deriving DecidableEq, Repr

/-- A cluster after a start. -/
def Cluster.zero : Cluster :=
  { shm := [], shmMarks := ⟨[], []⟩, shArrivals := [], shQueue := [], shRunning := [],
    waiting := [], running := [], lastQueue := 3, flushes := [], posts := [] }

/-- An entry of a swap command in progress (R79). `stage`: 0 not begun, 1 flash units or a pull
outstanding, 2 ready to finish. -/
structure SwapEntry where
  id : Nat
  cmd : Nat
  op : Nat
  rec_ : Word
  vol : Word
  snap : Snap
  stage : Nat
  page : Nat
  pteAt : Nat
  va : Word
  flash : Nat
  len : Nat
  gran : Nat
  frame : Nat
  place : Nat
  unitsLeft : Nat
  status : Nat
  deriving DecidableEq, Repr

/-- A slice line: 256 B, its place in memory and the marks of its eight sectors (R73, R71). -/
structure Line where
  pa : Nat
  gran : Nat
  data : BitVec 2048
  valid : BitVec 8
  dirty : BitVec 8
  poison : BitVec 8
  deriving DecidableEq, Repr

/-- A cached translation: the leaf as it was walked, where it lies, its level, and the unwritten
access count (R87, R95). -/
structure Tlb where
  slice : Nat
  asid : BitVec 16
  page : Nat
  pte : Word
  pteAt : Nat
  big : Bool
  count : Nat
  deriving DecidableEq, Repr

/-- A translation command in progress (R92): the record's fields, the issuer's ASID `own`, and for
HARVEST the pages done, the bits read and whether a walk failed. -/
structure XlCmd where
  id : Nat
  op : Nat
  asid : BitVec 16
  own : BitVec 16
  done : Nat
  bits : Nat
  fault : Bool
  va : Word
  count : Nat
  out : Word
  tile : Nat
  rec_ : Nat
  cue : Nat
  dword0 : Word
  tid : Tid
  deriving DecidableEq, Repr

/-- A waiter at a gate (R299). -/
structure GWaiter where
  tid : Tid
  token : Nat
  take : Bool
  n : Nat
  deriving DecidableEq, Repr

/-- What a gate's home unit keeps beside the object (R294). -/
structure GateSide where
  waiters : List GWaiter
  held : Nat
  deriving DecidableEq, Repr

/-- A remote access at a port (R128 to R130): what it does there. -/
inductive PortAcc where
  | load (size : Nat)
  | store (bytes : List Byte)
  | amo (op size : Nat) (b c : Word)
  /-- A displaced thread's gather or scatter (R187). -/
  | gather (op : GatherOp)
  deriving DecidableEq, Repr

/-- A failure reply's cause, sub-cause (R89, R337). -/
structure Failure where
  cause : Cause
  sub : Nat
  deriving DecidableEq, Repr

/-- A request of a REMOTE word (R337, R344): TYPE, addressed partition, target pointer or rank
word, privilege, ASPC, data. -/
structure RReq where
  kind : Nat
  part : Nat
  addr : Word
  priv : Nat
  aspc : Nat
  data : List Word
  deriving DecidableEq, Repr

/-- A 32-B access to a page of another rank (R94); `at_`: an atomic's place in the 32 B. -/
inductive FwdOp where
  | read
  | write (data : BitVec 256) (mask : BitVec 32)
  | amo (op size : Nat) (b c : Word) (at_ : Nat)
  /-- An op packet's eight words (R75). -/
  | op (words : List Word)
  deriving DecidableEq, Repr

/-- A packet in flight inside the package. -/
inductive Body where
  /-- A thread's global load of `n` bytes: the tile's own bytes as they stood at issue, the units
  still to fetch and those fetched (with whether they may enter the view), whether the next one waits
  for HBM4E, and poison (R235); it returns once nothing is left to fetch. -/
  | gload (off n : Nat) (asid : BitVec 16) (priv : Nat) (todo : List Nat) (fill : Bool) (data : SMap Unit64) (got : SMap (Unit64 × Bool)) (bad : Bool)
  /-- A store probe (R133). -/
  | probe (off n : Nat) (asid : BitVec 16) (priv : Nat)
  /-- A global atomic at its slice, then (`pa` known) at its memory-side unit (R74, R136). -/
  | gamo (off : Nat) (asid : BitVec 16) (priv : Nat) (op size : Nat) (b c : Word) (pa : Option Nat) (gran : Nat)
  /-- The reply to a thread's access: its value, where an uncorrectable word was read (R314), or a
  failure. -/
  | reply (v : Nat) (bad : Option Nat) (fail : Option Failure)
  /-- An access to a tile's scratchpad (place below 1,024) or a cluster's shared memory
  (1,024 + cluster) (R128), with the issuing thread's logical tile and, for a posted write, the
  tile that counts it and its address (R243). -/
  | port (place : Nat) (off : Nat) (acc : PortAcc) (src : Nat) (posted : Option (Nat × Word))
  /-- An acknowledgement of a posted write (with the tile that counts it) or of a posted signal;
  `fail` holds the failing value (R243). -/
  | ack (signal : Bool) (posted : Option Nat) (fail : Option Word)
  /-- A csigr signal on its way to a tile cue (R264). -/
  | cueSig (tile cue n : Nat) (target : Word)
  /-- A message on its way (R267). -/
  | msg (to_ : Tid) (v : Word)
  /-- A pmx partial or final result (R189); `bad` where it has become uncorrectable (R313). -/
  | pmx (tile key base n idx : Nat) (dbl final : Bool) (vec : VWord) (bad : Bool)
  /-- A pmsend vector (R190). -/
  | pmsend (tile src key : Nat) (vec : VWord)
  /-- Gate traffic (R297 to R300). A reply's status: 0 a value, 1 queued with a token, 2 a gopen
  granted, 3 a count or word taken, which must not be lost. A request and its commit carry the tile
  that issued it and the numbers of the thread's engine work that the commit waits for (R244, R298). -/
  | gateReq (gate op : Nat) (n : Nat) (limit : Option Nat) (rd handle : Nat) (part tile : Nat)
      (work : List Nat)
  | gateCommit (gate op n rd tile : Nat) (work : List Nat)
  | gateReply (gate rd : Nat) (v : Word) (status : Nat) (token : Nat) (take : Bool) (n : Nat)
  | gateFault (gate handle reason : Nat)
  | gateAck (gate : Nat)
  | gateCancel (gate token : Nat)
  | gateRet (gate : Nat) (take : Bool) (n : Nat)
  /-- A REMOTE request at its target package: sent by this one (`loc`) or received over the torus;
  `from_` is the header's SRC, and its PCLS times 4,096 (R337, R344). -/
  | rreq (loc : Bool) (from_ : Nat) (rtag : Nat) (req : RReq)
  /-- A reply to a request of another rank: words 3 to 7 of its header and then its data flits, or a
  failure (R344). -/
  | rrep (rtag : Nat) (data : List Word) (fail : Option Failure)
  /-- A torus packet waiting at a router to be forwarded: input port (6: this package), header and
  data flits, virtual channel, stomped (R338, R341), and the reserved and pool places it holds. -/
  | route (inp : Nat) (flits : List (BitVec 512)) (vc : Nat) (stomp : Bool) (res pool : Nat)
  /-- A forwarded access that arrived here as the owner (R94); `loc`: this package sent it. -/
  | fwdHere (loc : Bool) (op : FwdOp) (off : Nat) (part aspc priv : Nat) (from_ rtag : Nat)
  /-- A forwarded access or pull that failed (R97). -/
  | fwdFail (rtag : Nat)
  /-- A memory request of a virtual function under its ASID (R347). -/
  | vf (fn : Nat) (asid : BitVec 16) (write : Bool) (off size data : Nat)
  /-- A 512-B read of a page that another rank pulls (R79), here as its owner. -/
  | pullHere (loc : Bool) (off : Nat) (part aspc priv : Nat) (from_ rtag : Nat)
  deriving DecidableEq, Repr

/-- A packet: number, the thread it acts for, its ordering target (R129), its body. -/
structure Pkt where
  id : Nat
  src : Tid
  tgt : Nat
  body : Body
  deriving DecidableEq, Repr

/-- Where a launch came from, and where its STATUS goes (R284, R286, R356). -/
inductive Source where
  | queue (fn q : Nat) (entry : Word) (asid : BitVec 16)
  | sheet (part entry : Nat)
  | other
  deriving DecidableEq, Repr

/-- A launch waiting at the launch unit (R290). -/
structure LaunchReq where
  part : Nat
  aspace : Nat
  playbill : Word
  arg : Word
  cpl : Word
  maxPriv : Nat
  src : Source
  /-- Of a queue's entry: its queue header, HEAD and TAIL (R285). -/
  back : Nat × Nat × Nat
  /-- Of a queue's entry whose launch has been made or refused: its status; and, once STATUS has been
  written, whether that write failed (R285). -/
  ended : Option (Nat × Option Bool) := none
  deriving DecidableEq, Repr

/-- A launch: its levels' memory scopes, its reservations (tile, scratchpad offset, bytes, slot
mask), its completion word (R237, R292, R293). -/
structure Launch where
  id : Nat
  part : Nat
  aspace : Nat
  mscopes : List Nat
  src : Source
  cpl : Word
  threads : List Tid
  released : Bool
  reserve : List (Nat × Nat × Nat × Nat)
  /-- Of a queue's launch that has ended, once CPL has been counted: whether that failed (R293). -/
  counted : Option Bool := none
  deriving DecidableEq, Repr

/-- A curtain or migration command accepted for a partition (R322, R329), and the cycle of its
acceptance. -/
structure CurtainOp where
  since : Nat
  migr : Bool
  op : Nat
  t : Nat
  area : Word
  asize : Nat
  phys : Nat
  ltile : Nat
  tid : Tid
  tile : Nat
  rec_ : Nat
  cue : Nat
  bad : Bool
  asid : BitVec 16
  priv : Nat
  dword0 : Word
  /-- Of a MOVE: 0 accepted, 1 the source tile has stopped, 2 the context is on its way (R331). Of a stop:
  1 once its tiles issue no more (R324). -/
  moving : Nat
  deriving DecidableEq, Repr

/-- Whether a partition runs (R320). -/
inductive RunState where
  | idle | running | stopped
  deriving DecidableEq, Repr

/-- A partition: its state, the entry and masks read at its last resumption (R277), its remaps
(R331), the command in progress (R321). -/
structure Part where
  run : RunState
  valid : Bool
  cmap : List Nat
  perms : SMap Nat
  maxPriv : Nat
  plbase : Nat
  plsh : Nat
  remaps : List (Nat × Nat)
  op : Option CurtainOp
  tstop : Nat
  deriving DecidableEq, Repr

/-- A partition after a start (R320). -/
def Part.zero : Part :=
  { run := .idle, valid := false, cmap := [], perms := [], maxPriv := 0, plbase := 0, plsh := 0,
    remaps := [], op := none, tstop := 0 }

/-- A saved cluster's context: what the area's device-only sections hold (R327), by serial: the
area and the ASID it is written under, the physical cluster it was saved from, each position's
physical tile and context, the cluster's own, the swept packets, the inbox, and the partition's
launches with its first cluster (log 21 [DESIGN CHOICE]). -/
structure Saved where
  serial : Nat
  part : Nat
  lcl : Nat
  area : Word
  asid : BitVec 16
  phys : Nat
  tiles : List (Nat × Nat × Tile)
  cluster : Cluster
  swept : List Pkt
  inbox : List Pkt
  launches : List Launch
  deriving DecidableEq, Repr

/-- A packet that a torus port is receiving: the SEQ of its header, data flits to come, virtual
channel, flits so far. -/
structure Incoming where
  seq : BitVec 12
  left : Nat
  vc : Nat
  flits : List (BitVec 512)
  deriving DecidableEq, Repr

/-- A torus port (R334 to R342). Places are counted by set 0-63 (4 × class + VC), 64 for the pool:
`credits` those this end has taken at the other, `used` those taken here, `freed` those to be
returned. `naks` counts since the last progress, `nakDue` is the NAK still to be sent, `again` counts
the flits taken once that replay brings anew, `since` is when a retraining began, `out` is what has gone
onto the wire: flit, link word and CRC. -/
structure Port where
  rxSeq : BitVec 12
  txSeq : BitVec 12
  replay : List (BitVec 12 × BitVec 512 × BitVec 32)
  naks : Nat
  nakDue : Option (BitVec 12)
  discarding : Bool
  retraining : Bool
  since : Nat
  failed : Bool
  credits : SMap Nat
  used : SMap Nat
  freed : SMap Nat
  progress : Option Incoming
  again : Nat
  out : List (BitVec 512 × BitVec 32 × BitVec 32)
  linkErrors : Nat
  deriving DecidableEq, Repr

/-- A port with no traffic; 9 places per set and 448 of the pool (R339). -/
def Port.zero : Port :=
  { rxSeq := 0, txSeq := 0, replay := [], naks := 0, nakDue := none, discarding := false, retraining := false,
    since := 0, failed := false, credits := [], used := [], freed := [], progress := none, again := 0,
    out := [], linkErrors := 0 }

/-- An outstanding REMOTE request, forwarded access or pull (R342): tag, number in issue order,
thread, the tile that issued it (R345), when it was sent, the value a failure records (R243; for a
pull its entry), its TYPE. -/
structure Outst where
  rtag : Nat
  id : Nat
  tid : Tid
  tile : Nat
  sent : Nat
  fail : Word
  kind : Nat
  deriving DecidableEq, Repr

/-- The answer to a forwarded access (R94, R97): its value, with 2^256 added when it is poisoned; the
owner's refusal with its cause; or nothing, because the owner or a link on the way has failed. -/
inductive FwdAns where
  | value (v : Nat)
  | refused (f : Failure)
  | lost
  deriving DecidableEq, Repr

/-- A 32-B access that a slice has forwarded to the owner of a remote page (R94): for whom, its
tag, the access, and its answer once there. -/
structure FwdReq where
  client : Nat
  rtag : Nat
  op : FwdOp
  asid : BitVec 16
  unit : Nat
  answer : Option FwdAns
  deriving DecidableEq, Repr

/-- The configuration record's fields (R357). -/
structure CfgRecord where
  harvest : List Nat
  coord : Nat
  dims : Nat
  porten : Nat
  isol : Nat
  polTamp : Nat
  polGlt : Nat
  polClk : Nat
  ttrip : Nat
  thot : Nat
  tcool : Nat
  shed : SMap Nat
  fwHash : Nat
  deriving DecidableEq, Repr

/-- The management controller (R350 to R362); `warm` says that the start in progress is a warm
one. -/
structure Mgmt where
  state : Nat
  warm : Bool
  reason : Nat
  step : Nat
  bootcnt : Nat
  keyStore : Bool
  training : Bool
  cfg : CfgRecord
  flash : Memory
  flashSize : Nat
  desc : SMap Word
  hlstat : Word
  nonce : SMap Byte
  attesting : Bool
  /-- Cycles since the attestation under way was requested (R359). -/
  attestAge : Nat
  report : List Byte
  /-- The hash of the firmware image loaded at the last start (R352 step 5). -/
  fwMeasured : Nat
  telemetry : SMap Word
  /-- What the sensors of stacks, power and coolant show, by telemetry doubleword (R362). -/
  sensors : SMap Word
  alarms : SMap Nat
  /-- The temperature that each tile's sensor shows (R273, R361). -/
  sensed : SMap Nat
  /-- The temperature of each tile at its last check (R273). -/
  temps : SMap Nat
  deriving DecidableEq, Repr

/-- An error that strikes the package (R71, R126, R150, R280, R313, log 36 [DESIGN CHOICE]). -/
inductive Upset where
  /-- A stored scalar register takes a value that its residue does not follow. -/
  | reg (i : Tid) (n : Nat) (v : Word)
  /-- A word of an SRAM, at a place of SEC_WRITEBACK, takes a correctable or an uncorrectable error. -/
  | sram (place word : Nat) (bad : Bool)
  /-- Entry `k` of a stream's or its pipe's FIFO becomes uncorrectable. -/
  | fifo (i : Tid) (n k : Nat)
  /-- Pair-merge entry `k` of a tile becomes uncorrectable. -/
  | pm (t k : Nat)
  /-- A pair-merge vector on its way becomes uncorrectable. -/
  | pmx (id : Nat)
  /-- A storage byte of a stack changes. -/
  | hbm (key : Nat) (b : Byte)
  /-- A slice's line, sector `k`: corrected, or uncorrectable. -/
  | line (key k : Nat) (bad : Bool)
  /-- Another shared path, while it carried a packet or line of a partition's access. -/
  | path (p : Nat)
  /-- A torus buffer slot that is reserved for a partition. -/
  | torus (p : Nat) (bad : Bool)
  deriving DecidableEq, Repr

/-- The package. -/
structure State where
  /-- The model's own: inputs waiting to be taken, oldest first (log 5 [DESIGN CHOICE]). -/
  inputs : List Event
  /-- The model's own: errors that have still to strike, oldest first (log 36 [DESIGN CHOICE]). -/
  upsets : List Upset
  /-- The model's own: how many free choices have been drawn (log 4 [DESIGN CHOICE]). -/
  draws : Nat
  /-- The model's own: the tile whose issue position is offered next (log 4 [DESIGN CHOICE]). -/
  turn : Nat
  /-- The model's own: the thread that issues, and the word it issues. -/
  cur : Tid
  ir : IWord
  /-- The model's own: the next number of a pending item. -/
  fresh : Nat
  cycle : Nat
  /-- The last rotation whose end has been handled (R255). -/
  rotDone : Nat
  timeNs : Nat
  timeFollows : Bool
  /-- The last refill tick handled (R282). -/
  ticks : Nat
  sptb : Word
  tiles : SMap Tile
  clusters : SMap Cluster
  swapArrivals : List (Nat × Command)
  swapQueue : List (Nat × Command)
  swapEntries : List SwapEntry
  lines : SMap Line
  tlbs : List Tlb
  heldPages : List Nat
  retired : SMap (BitVec 16)
  xl : List XlCmd
  hbm : Memory
  /-- Corrected and uncorrectable events of each pseudo-channel, by global number (R71). -/
  pcCorr : SMap Nat
  pcBad : SMap Nat
  gates : SMap GateSide
  net : List Pkt
  /-- Packets and swap and translation commands, by number, whose answers go to a tile that their thread
  has left by a MOVE: that tile, and the one its context moved to (R330). -/
  via : List (Nat × Nat × Nat)
  parts : SMap Part
  saved : List Saved
  launchQ : List LaunchReq
  launches : List Launch
  sheetLaunch : SMap Nat
  /-- Call-sheet entries (64 × partition + entry): the last start handled (R287). -/
  sheetNext : SMap Nat
  /-- The time up to which the call sheets have been looked through (R287). -/
  sheetTime : Nat
  /-- Wakes accepted and not yet processed: 4 × function + queue, and the TAIL that was read plus 1, 0
  before (R285). -/
  wakeQ : List (Nat × Nat)
  hypEvents : List (Tid × Word)
  hypLoss : List Tid
  ports : SMap Port
  outst : List Outst
  fwds : List FwdReq
  mgmt : Mgmt
  deriving DecidableEq, Repr

/-- The configuration record's values after reset (log 1 [DESIGN CHOICE]): no tile harvested, one package, every
threshold as the log names it. -/
def CfgRecord.default : CfgRecord :=
  { harvest := [], coord := 0, dims := 0, porten := 0, isol := 0, polTamp := 0, polGlt := 0,
    polClk := 0, ttrip := 4095, thot := 4094, tcool := 4093, shed := [], fwHash := 0 }

/-- The controller after a successful cold start (R350 to R352). -/
def Mgmt.ready : Mgmt :=
  { state := 2, warm := false, reason := 0, step := 5, bootcnt := 1, keyStore := true, training := true,
    cfg := CfgRecord.default, flash := [], flashSize := 0, desc := [], hlstat := 0, nonce := [],
    attesting := false, attestAge := 0, report := [], fwMeasured := 0, telemetry := [], sensors := [],
    alarms := [], sensed := [], temps := [] }

/-- The controller at power-up (R351, R355): STATE BOOT, STEP 0, REASON 0, the first start counted, no
key derived and no training done. -/
def Mgmt.reset : Mgmt :=
  { Mgmt.ready with state := 0, step := 0, keyStore := false, training := false }

/-- The package at power-up, its cold start about to begin (R351, R355): BOOT, no thread, SPTB zero,
every memory zero, every partition idle (R320, R352, R356). -/
def State.reset : State :=
  { inputs := [], upsets := [], draws := 0, turn := 0, cur := ⟨0, 0⟩, ir := 0, fresh := 1, cycle := 0,
    rotDone := 0, timeNs := 0, timeFollows := true, ticks := 0, sptb := 0, tiles := [],
    clusters := [], swapArrivals := [], swapQueue := [], swapEntries := [], lines := [],
    tlbs := [], heldPages := [], retired := [], xl := [], hbm := [], pcCorr := [], pcBad := [],
    gates := [], net := [], via := [], parts := [], saved := [], launchQ := [], launches := [], sheetLaunch := [], sheetNext := [],
    sheetTime := 0, wakeQ := [], hypEvents := [], hypLoss := [], ports := [], outst := [], fwds := [],
    mgmt := Mgmt.reset }

end Sys2Proof.Machine
end

