-- ==== Sys2Proof/Machine/Ops.lean ====
section
/-! DEFINITION. The named operations over the state: threads, registers, tiles and numbers of
places, partitions and permissions, cues, mailboxes and events, and the delivery of a trap and the
return from one. -/

namespace Sys2Proof.Machine

/-! ### Places -/

/-- A tile of the package. -/
def tile (s : State) (t : Nat) : Tile := smGet Tile.zero s.tiles t

/-- The state with one tile replaced. -/
def setTile (s : State) (t : Nat) (x : Tile) : State := { s with tiles := smSet s.tiles t x }

/-- The state with one tile changed. -/
def updTile (s : State) (t : Nat) (f : Tile → Tile) : State := setTile s t (f (tile s t))

/-- The thread of a slot. -/
def thr (s : State) (i : Tid) : Thread := smGet Thread.none (tile s i.tile).threads i.slot

/-- The state with one thread replaced; the place of an ended thread holds nothing. -/
def setThr (s : State) (i : Tid) (x : Thread) : State :=
  if i.tile < 1024 then updTile s i.tile fun t => { t with threads := smSet t.threads i.slot x }
  else s

/-- The state with one thread changed. -/
def updThr (s : State) (i : Tid) (f : Thread → Thread) : State := setThr s i (f (thr s i))

/-- A cluster of the package. -/
def cluster (s : State) (c : Nat) : Cluster := smGet Cluster.zero s.clusters c

/-- The state with one cluster replaced. -/
def setCluster (s : State) (c : Nat) (x : Cluster) : State :=
  { s with clusters := smSet s.clusters c x }

/-- The state with one cluster changed. -/
def updCluster (s : State) (c : Nat) (f : Cluster → Cluster) : State :=
  setCluster s c (f (cluster s c))

/-- A partition. -/
def part (s : State) (p : Nat) : Part := smGet Part.zero s.parts p

/-- The state with one partition changed. -/
def updPart (s : State) (p : Nat) (f : Part → Part) : State :=
  { s with parts := smSet s.parts p (f (part s p)) }

/-- A fresh number for a pending item. -/
def freshId (s : State) : Nat × State := (s.fresh, { s with fresh := s.fresh + 1 })

/-- A free choice of the device (log 4 [DESIGN CHOICE]). -/
def draw (s : State) : Nat × State := (Config.choice s.draws, { s with draws := s.draws + 1 })

/-- The identifier of a thread's place (R10). -/
def tidWord (i : Tid) : Word := w64 (i.tile % 1024 * 512 + i.slot % 512)

/-- The place an identifier names (R10). -/
def tidOf (w : Word) : Tid := ⟨w.toNat / 512 % 1024, w.toNat % 512⟩

/-- The package cluster of a package tile (R9). -/
def tileCluster (t : Nat) : Nat := 32 * (t / 256) + 4 * (t % 256 / 16 / 2) + t % 16 / 4

/-- The package tiles of a package cluster, row-major (R9). -/
def clusterTiles (c : Nat) : List Nat :=
  let base := 256 * (c / 32) + 16 * (2 * (c % 32 / 4)) + 4 * (c % 4)
  (List.range 8).map (fun i => base + 16 * (i / 4) + i % 4)

/-- The position of a tile in its cluster, 0-7 (R15). -/
def tilePos (t : Nat) : Nat := 4 * (t % 256 / 16 % 2) + t % 4

/-- Whether a tile is marked in the harvest map (R12). -/
def harvested (s : State) (t : Nat) : Bool := s.mgmt.cfg.harvest.contains t

/-! ### The package tables (R275) -/

/-- The base of every table but the space table: SPTB without its low 16 bits. -/
def tableBase (s : State) : Nat := s.sptb.toNat % 2 ^ 40 / 65536 * 65536

/-- A doubleword of a package table, read physically under S32 at an offset from the base. -/
def table64 (s : State) (off : Nat) : Nat := phys64 s.hbm ((tableBase s + off) % 2 ^ 40)

/-- Events counted at pseudo-channels. -/
def bumpAll (m : SMap Nat) (ks : List Nat) : SMap Nat :=
  ks.foldl (fun m k => smSet m k (smGet 0 m k + 1)) m

/-- An error that a controller met, counted at its pseudo-channels (R71). -/
def countError (gran f i0 : Nat) (s : State) (e : MemError) : State :=
  let at_ := e.2.map (fun k => (sectorPlace gran f (i0 + k)).1)
  if e.1 = 1 then { s with pcCorr := bumpAll s.pcCorr at_ }
  else { s with pcBad := bumpAll s.pcBad at_ }

/-- The errors met where the device itself reads the granule of physical address `pa`, for a walk, a
table, a ring or a gate object: counted at their pseudo-channels (R71) and charged to nobody, since they
are found by no access through a partition's own mapping (R280). -/
def physNote (s : State) (gran pa : Nat) : State :=
  let f := pa / 65536
  let i0 := pa % 65536 / 32 / granP gran * granP gran
  (granDecode s.hbm gran f i0).2.foldl (countError gran f i0) s

/-- Bytes within one sector written physically by the device itself, its granule read and merged. -/
def physStore (s : State) (gran pa n v : Nat) : State :=
  let s := physNote s gran pa
  { s with hbm := physWrite s.hbm gran pa n v }

/-- A doubleword of a package table written physically under S32. -/
def putTable64 (s : State) (off v : Nat) : State :=
  physStore s 0 ((tableBase s + off) % 2 ^ 40) 8 v

/-- The offset of partition p's entry. -/
def partOff (p : Nat) : Nat := 0x10000 + 256 * p

/-- The offset of function f's record. -/
def fnOff (f : Nat) : Nat := 0x12000 + 64 * f

/-- The offset of an entry of partition p's call sheet. -/
def sheetOff (p e : Nat) : Nat := 0x14000 + 2048 * p + 32 * e

/-- The offset of partition p's frame-pool descriptor. -/
def poolOff (p : Nat) : Nat := 0x1D000 + 64 * p

/-- The hypervisor record's fields (R307): handler word with EN, the event thread, PLBASE, PLSH. -/
structure HypRec where
  handler : Nat
  en : Bool
  evthr : Option Tid
  plbase : Nat
  plsh : Nat
  deriving DecidableEq, Repr

/-- The hypervisor record as it stands (R307): one with a must-be-zero bit set counts as EN = 0
and V = 0. -/
def hypRec (s : State) : HypRec :=
  let d := fun i => table64 s (0x11800 + 8 * i)
  let d0 := d 0
  let d1 := d 1
  let d2 := d 2
  let bad := d0 / 2 ^ 52 != 0 || bitOf d0 1 || d1 % 2 ^ 63 / 2 ^ 19 != 0 || d2 / 2 ^ 40 != 0
    || field d2 15 6 != 0 || (List.range' 3 5).any (fun i => d i != 0)
  { handler := field d0 51 2, en := bitOf d0 0 && !bad,
    evthr := if bitOf d1 63 && !bad then some (tidOf (w64 (d1 % 2 ^ 19))) else none,
    plbase := field d2 39 16, plsh := if 16 ≤ d2 % 64 && d2 % 64 ≤ 30 then d2 % 64 else 0 }

/-! ### Partitions, logical numbers and permissions (R277, R278, R389) -/

/-- The logical tiles of a map in order: logical cluster and physical tile of each (R277). -/
def logicalTiles (s : State) (p : Nat) : List (Nat × Nat) :=
  (((part s p).cmap.zipIdx).map fun e =>
    ((clusterTiles e.1).filter (fun t => !harvested s t)).map (fun t => (e.2, t))).flatten

/-- The number of logical tiles of a partition. -/
def ltileCount (s : State) (p : Nat) : Nat := (logicalTiles s p).length

/-- The physical tile behind a logical tile, its remap first (R331). -/
def ltilePhys (s : State) (p lt : Nat) : Option Nat :=
  match (part s p).remaps.find? (fun r => r.1 == lt) with
  | some r => some r.2
  | none => ((logicalTiles s p)[lt]?).map (·.2)

/-- The logical cluster of a logical tile. -/
def ltileCluster (s : State) (p lt : Nat) : Option Nat := ((logicalTiles s p)[lt]?).map (·.1)

/-- The partition and logical tile of a physical tile; none on a partitionless tile (R389). -/
def tilePart (s : State) (t : Nat) : Option (Nat × Nat) :=
  (s.parts.filter (fun e => e.2.valid)).findSome? fun e =>
    match e.2.remaps.find? (fun r => r.2 == t) with
    | some r => some (e.1, r.1)
    | none =>
      if e.2.cmap.contains (tileCluster t) then
        ((logicalTiles s e.1).findIdx? (fun x => x.2 == t)).bind fun k =>
          if e.2.remaps.any (fun r => r.1 == k) then none else some (e.1, k)
      else none

/-- The logical tile a thread reads in THRINFO: 0xFFF on a partitionless tile (R155). -/
def ltileOf (s : State) (t : Nat) : Nat := ((tilePart s t).map (·.2)).getD 0xFFF

/-- The physical cluster of a tile's logical cluster (R332); its own on a partitionless tile. -/
def homeCluster (s : State) (t : Nat) : Nat :=
  match tilePart s t with
  | some (p, lt) =>
    match ltileCluster s p lt with
    | some l => (part s p).cmap.getD l (tileCluster t)
    | none => tileCluster t
  | none => tileCluster t

/-- The tile that now holds the context whose logical place is tile `t` (R331, R332). -/
def placedTile (s : State) (t : Nat) : Nat :=
  ((s.parts.filter (fun e => e.2.valid)).findSome? fun e =>
    e.2.remaps.findSome? fun r =>
      if ((logicalTiles s e.1)[r.1]?).map (·.2) == some t then some r.2 else none).getD t

/-- The partition in an ASID (R82). -/
def asidPart (a : BitVec 16) : Nat := a.toNat / 4096

/-- Where a thread stands for checks of R128: its partition, and the home cluster's mask with its
logical number; no mask on a partitionless home tile (R389). -/
structure Standing where
  p : Nat
  home : Option (Nat × Nat)
  deriving DecidableEq, Repr

/-- The standing of a thread by its home tile and ASID. -/
def standing (s : State) (home : Nat) (asid : BitVec 16) : Standing :=
  match tilePart s home with
  | some (p, lt) =>
    let l := (ltileCluster s p lt).getD 0
    ⟨p, some (l, smGet 0 (part s p).perms ((part s p).cmap.getD l 0))⟩
  | none => ⟨asidPart asid, none⟩

/-- Check 2 of R128: the target logical cluster is the home cluster or its table lists it. -/
def permits (st : Standing) (l : Nat) : Bool :=
  match st.home with
  | none => true
  | some (h, m) => h == l || bitOf m l

/-- Whether a partition's map names its clusters and tiles: it has been read at a resumption that still
stands, or its entry has V = 1 (R277, R389). -/
def mapStands (s : State) (p : Nat) : Bool :=
  (part s p).run != .idle || bitOf (table64 s (partOff p)) 63

/-- The least tile number of a saved context (log 21 [DESIGN CHOICE]): the context saved from tile t under serial n
is named by tile 2,048 (n + 1) + t until it is restored. -/
def savedBase : Nat := 2048

/-- The name of a place of a saved context. -/
def savedPlace (serial p : Nat) : Nat := savedBase * (serial + 1) + p % savedBase

/-- The serial under which an idle partition's context has been saved from one of some tiles (R327,
R330). -/
def savedAt (s : State) (p : Nat) (ts : List Nat) : Option Nat :=
  if (part s p).run != .idle then none
  else ts.findSome? fun t => (tile s t).fwd.findSome? fun e => match e.kind with
    | .saved n => if e.part = p then some n else none
    | .migrated _ => none

/-- The place by which a partition's tile or cluster, on these tiles, is reached: the saved context's
where it has been saved (R277, R330). -/
def placeNow (s : State) (p : Nat) (ts : List Nat) (pl : Nat) : Nat :=
  match savedAt s p ts with
  | some n => savedPlace n pl
  | none => pl

/-- Checks 1 and 2 of R128 for a logical tile: the tile that holds it, or the failing cause. -/
def reachTile (s : State) (st : Standing) (lt : Nat) : Except Cause Nat :=
  if !mapStands s st.p then .error .addr
  else
    match ltilePhys s st.p lt, ltileCluster s st.p lt with
    | some t, some l => if permits st l then .ok (placeNow s st.p [t] t) else .error .perm
    | _, _ => .error .addr

/-- Checks 1 and 2 of R128 for a logical cluster: the place of its shared memory, or the failing
cause. -/
def reachCluster (s : State) (st : Standing) (l : Nat) : Except Cause Nat :=
  if !mapStands s st.p then .error .addr
  else
    match (part s st.p).cmap[l]? with
    | some c =>
      if permits st l then .ok (placeNow s st.p (clusterTiles c) (1024 + c)) else .error .perm
    | none => .error .addr

/-! ### Scalar registers (R40, R148, R149) -/

/-- The residue of a value. -/
def residue (v : Word) : BitVec 4 := BitVec.ofNat 4 (v.toNat % 15)

/-- The stored entry of a scalar register; x0 reads zero with residue 0. -/
def getXR (th : Thread) (n : Nat) : XReg := if n = 0 then XReg.zero else smGet XReg.zero th.x n

/-- The value of a scalar register. -/
def getX (th : Thread) (n : Nat) : Word := (getXR th n).v

/-- A scalar register written with a given residue; x0 discards. -/
def setXR (th : Thread) (n : Nat) (v : Word) (r : BitVec 4) : Thread :=
  if n = 0 then th else { th with x := smSet th.x n ⟨v, r⟩ }

/-- A scalar register written with the residue of the value (R149). -/
def setX (th : Thread) (n : Nat) (v : Word) : Thread := setXR th n v (residue v)

/-! ### Fixed-latency results (R44, R45) -/

/-- One pending result written: registers 0-31 scalar, from 32 physical vector registers. -/
def landOne (t : Tile) (slot : Nat) (p : Pending) : Tile :=
  if p.reg < 32 then
    let f := fun th => setXR th p.reg (p.val.setWidth 64) p.res
    { t with threads := smUpd Thread.none t.threads slot f }
  else { t with vfile := smSet t.vfile (p.reg - 32) p.val,
                vMarks := t.vMarks.keep (fun w => w / 64 != p.reg - 32) }

/-- A pending list kept in order of completion. -/
def pendInsert (p : Pending) : List Pending → List Pending
  | [] => [p]
  | q :: qs => if q.due ≤ p.due then q :: pendInsert p qs else p :: q :: qs

/-- Every pending result due by cycle `c` written. -/
def landUpTo (s : State) (i : Tid) (c : Nat) : State :=
  match (thr s i).pend with
  | [] => s
  | ps =>
    let t := (ps.filter (fun p => p.due ≤ c)).foldl (fun t p => landOne t i.slot p) (tile s i.tile)
    updThr (setTile s i.tile t) i fun th => { th with pend := ps.filter (fun p => decide (c < p.due)) }

/-- Every pending result written (R45: before a save, before a handler's first instruction). -/
def landAll (s : State) (i : Tid) : State :=
  match (thr s i).pend with
  | [] => s
  | ps =>
    let t := ps.foldl (fun t p => landOne t i.slot p) (tile s i.tile)
    updThr (setTile s i.tile t) i fun th => { th with pend := [] }

/-! ### Waiting and waking (R46, R251) -/

/-- REPIDX.CNT. -/
def repCnt (th : Thread) : Nat := th.repidx.toNat / 256
/-- REPIDX.ACT. -/
def repAct (th : Thread) : Bool := bitOf th.repidx.toNat 7
/-- REPIDX.NEXT. -/
def repNext (th : Thread) : Nat := th.repidx.toNat % 128
/-- A REPIDX value. -/
def repWord (cnt : Nat) (act : Bool) (next : Nat) : BitVec 15 :=
  BitVec.ofNat 15 (cnt % 128 * 256 + (if act then 128 else 0) + next % 128)

/-- The instruction of a thread completes: INSTRET counts it, and the pc passes it, or the next
repetition follows (R154, R193). -/
def advance (th : Thread) : Thread :=
  match th.repBody with
  | none => { th with pc := th.pc + 4, instret := th.instret + 1, again := none }
  | some _ =>
    if repNext th + 1 < repCnt th then
      { th with instret := th.instret + 1, repidx := repWord (repCnt th) true (repNext th + 1),
                again := none }
    else
      { th with instret := th.instret + 1, repidx := 0, repBody := none, pc := th.pc + 8,
                again := none }

/-- A thread whose event has arrived: ready now, or at the cycle of R44 (R46); one that is moving
takes the state up when it has moved (R274). -/
def wake (now : Nat) (th : Thread) : Thread :=
  match th.st with
  | .waiting _ from_ =>
    if now < from_ then { th with st := .issued from_ } else { th with st := .ready, readySince := now }
  | .migrating (.waiting _ from_) =>
    { th with st := .migrating (if now < from_ then .issued from_ else .ready) }
  | _ => { th with st := .ready, readySince := now }

/-- A moving context takes up its state again, where it is now (R274, R331). -/
def takeUp (now : Nat) (th : Thread) : Thread :=
  match th.st with
  | .migrating .ready => { th with st := .ready, readySince := now }
  | .migrating b => { th with st := b }
  | _ => th

/-- The thread, and its understudy when it leads one (R316). -/
def withShadow (s : State) (i : Tid) (f : State → Tid → State) : State :=
  let th := thr s i
  if th.leader then f (f s i) ⟨i.tile, th.partner⟩ else f s i

/-- The understudy of a leader whose instruction completes now: a copy that has issued takes the
value from the load-value queue and completes 16 cycles later (R317); one still to issue takes it
then. -/
def shadowComplete (s : State) (j : Tid) (f : Thread → Thread) : State :=
  updThr (landUpTo s j s.cycle) j fun u => match u.st with
    | .waiting _ from_ => { advance (f u) with st := .issued (max from_ (s.cycle + 16)) }
    | .migrating (.waiting _ from_) =>
      { advance (f u) with st := .migrating (.issued (max from_ (s.cycle + 16))) }
    | _ => u

/-- The waiting instruction of a thread completes with `f` applied to its context; results that were
due by now have been written before it (R45). -/
def complete (s : State) (i : Tid) (f : Thread → Thread) : State :=
  let s := landUpTo s i s.cycle
  let th := thr s i
  let s' := setThr s i (wake s.cycle (advance (f th)))
  if th.leader then shadowComplete s' ⟨i.tile, th.partner⟩ f else s'

/-- The cycle of R44 that the issue of a waiting thread's word has set; none for a word that has still to
issue (R113). -/
def Thread.issuedTo (th : Thread) : Option Nat :=
  match th.st with
  | .waiting .stream _ => Option.none
  | .waiting _ from_ => some from_
  | .migrating (.waiting .stream _) => Option.none
  | .migrating (.waiting _ from_) => some from_
  | _ => Option.none

/-- A waiting thread that may issue now. -/
def Thread.mayIssue (now : Nat) (th : Thread) : Thread :=
  match th.st with
  | .migrating _ => { th with st := .migrating .ready }
  | _ => { th with st := .ready, readySince := now }

/-- The waiting thread issues its instruction again (R129), whose stall count still counts from its first
issue (R46); what that left in the load-value queue goes. -/
def reissue (s : State) (i : Tid) : State :=
  withShadow s i fun s i => updThr s i fun th =>
    { th.mayIssue s.cycle with lvq := [], again := th.issuedTo }

/-- A slot that counts toward USED: not free and not parked (R251). -/
def Thread.counts (th : Thread) : Bool := th.st != .free && th.st != .parked

/-- A slot without a context of its own: free, or taken by one that is still on its way (R251, R274). -/
def Thread.absent (th : Thread) : Bool :=
  match th.st with
  | .free => true
  | .arriving _ => true
  | _ => false

/-- A thread that holds a context: not free and not parked (R237). -/
def Thread.live (th : Thread) : Bool := th.counts && !th.absent

/-- A thread that has exited and awaits a join (R261). -/
def Thread.exited (th : Thread) : Bool :=
  match th.st with
  | .waiting .exited _ => true
  | .migrating (.waiting .exited _) => true
  | _ => false

/-- What a thread waits for. -/
def Thread.wait? (th : Thread) : Option Wait :=
  match th.st with
  | .waiting w _ => some w
  | .migrating (.waiting w _) => some w
  | _ => Option.none

/-- A thread that has ended: it awaits a join, or its tile has still to publish for its launch (R240,
R261). -/
def Thread.ended (th : Thread) : Bool :=
  match th.wait? with
  | some .exited => true
  | some (.ending _) => true
  | _ => false

/-- A slot's state with what it waits for replaced. -/
def Slot.mapWait (f : Wait → Wait) : Slot → Slot
  | .waiting w from_ => .waiting (f w) from_
  | .migrating b => .migrating (b.mapWait f)
  | st => st

/-- Every thread of the package in order of tile and slot. -/
def allThreads (s : State) : List (Tid × Thread) :=
  (s.tiles.map fun t => t.2.threads.map fun e => (⟨t.1, e.1⟩, e.2)).flatten

/-- Whether a thread runs away from its home (R19). -/
def displaced (i : Tid) (th : Thread) : Bool := th.home != i.tile

/-- Whether an identifier's context has left its tile: it is saved, or a forwarding entry there
names it (R330). -/
def departed (s : State) (j : Tid) : Bool :=
  decide (savedBase ≤ j.tile) || (!(thr s j).live && !(tile s j.tile).fwd.isEmpty)

/-- The tile that a MIGRATED entry sends a thread's packets to (R330). -/
def FwdEntry.to? (e : FwdEntry) : Option Nat :=
  match e.kind with
  | .migrated t => some t
  | .saved _ => none

/-- The live thread that was displaced from a home slot (R274). -/
def displacedFrom (s : State) (i : Tid) : Option Tid :=
  ((allThreads s).find? (fun e => e.2.live && displaced e.1 e.2
    && e.2.home == i.tile && e.2.homeSlot == i.slot)).map (·.1)

/-- The context, parked or live, that was displaced from a home slot (R274). -/
def displacedTo (s : State) (i : Tid) : Option Tid :=
  ((allThreads s).find? (fun e => !e.2.absent && displaced e.1 e.2
    && e.2.home == i.tile && e.2.homeSlot == i.slot)).map (·.1)

/-- Whether a place is that of a live thread, which may run displaced from it (R274). -/
def inhabited (s : State) (i : Tid) : Bool := (thr s i).live || (displacedFrom s i).isSome

/-- The forwarding entry of a departed identifier: its number on the tile, and where it sends
packets. -/
def fwdEntryOf (s : State) (i : Tid) : Option (Nat × Nat) :=
  let es := (tile s i.tile).fwd.zipIdx.filterMap (fun e => e.1.to?.map (fun t => (e.2, t)))
  match es.find? (fun e => inhabited s ⟨e.2, i.slot⟩) with
  | some e => some e
  | none => es.head?

/-- A packet counted at a forwarding entry (R330). -/
def countFwd (s : State) (t k : Nat) : State :=
  updTile s t fun tl =>
    { tl with fwd := tl.fwd.zipIdx.map (fun e =>
        if e.2 = k then { e.1 with count := e.1.count + 1 } else e.1) }

/-- A packet for a context that has moved since counted: one more at the newest entry of every tile that
it goes by, for an answer or completion of number `n` (R330). -/
def countVia (s : State) (n : Nat) : State :=
  (s.via.filter (fun v => v.1 == n)).foldl (fun s v =>
    match ((tile s v.2.1).fwd.zipIdx.filter (fun e => e.1.to? == some v.2.2)).getLast? with
    | some e => countFwd s v.2.1 e.2
    | none => s) s

/-- No packet goes by number `n` any more. -/
def dropVia (s : State) (n : Nat) : State := { s with via := s.via.filter (fun v => v.1 != n) }

/-- The one packet of number `n` counted. -/
def passVia (s : State) (n : Nat) : State := dropVia (countVia s n) n

/-- A departed identifier followed along forwarding entries, each of which counts (R330). -/
def followTid : Nat → State → Tid → State × Tid
  | 0, s, i => (s, i)
  | n + 1, s, i =>
    if departed s i then
      match fwdEntryOf s i with
      | some (k, t) => followTid n (countFwd s i.tile k) ⟨t, i.slot⟩
      | none => (s, i)
    else (s, i)

/-- The place a thread identifier reaches now: a displaced thread through its home slot (R274), a
migrated context through its forwarding entries (R330), and both where the home tile of a displaced
thread, or the tile it ran on when it was named, has moved (R10). -/
def resolveTid (s : State) (i : Tid) : Tid :=
  match displacedTo s i with
  | some j => j
  | none =>
    let j := (followTid 16 s i).2
    (displacedTo s j).getD j

/-! ### Mailboxes and events (R267, R311, R312) -/

/-- A message enters a mailbox: the owner's recv, recvt or idle completes with it. -/
def mailPut (s : State) (i : Tid) (v : Word) : State :=
  let th := thr s i
  match th.wait? with
  | some (.recv rd) => complete s i (fun th => setX th rd v)
  | some (.recvt rd _) =>
    complete (updThr s i fun th => { th with mailbox := th.mailbox ++ [v] }) i
      (fun th => setX th rd (w64 (max th.mailbox.length 1)))
  | some .idle => complete (updThr s i fun th => { th with mailbox := th.mailbox ++ [v] }) i id
  | _ => updThr s i fun th => { th with mailbox := th.mailbox ++ [v] }

/-- A message with no live thread to take it is discarded (R267). -/
def mailLive (s : State) (i : Tid) : Bool := (thr s i).live && !(thr s i).ended

/-- An event word: kind, LOSS, detail (R311). -/
def eventWord (kind : Nat) (loss : Bool) (detail : Nat) : Word :=
  w64 (kind * 2 ^ 56 + (if loss then 2 ^ 55 else 0) + detail % 2 ^ 55)

/-- An event with LOSS set (R311). -/
def lossy (e : Word) : Word := e ||| w64 (2 ^ 55)

/-- A supervisor event delivered: it carries LOSS when one to the same target has been discarded
since the last delivery (R312). -/
def eventPut (s : State) (i : Tid) (e : Word) : State :=
  let tl := tile s i.tile
  if tl.loss.contains i.slot then
    mailPut (setTile s i.tile { tl with loss := tl.loss.filter (· != i.slot) }) i (lossy e)
  else mailPut s i e

/-- A hypervisor event delivered, with LOSS as a supervisor event carries it (R312). -/
def hypPut (s : State) (i : Tid) (e : Word) : State :=
  if s.hypLoss.contains i then
    mailPut { s with hypLoss := s.hypLoss.filter (· != i) } i (lossy e)
  else mailPut s i e

/-- A supervisor event to the troupe's event slot of a tile (R311, R312). -/
def raiseSup (s : State) (t troupe kind detail : Nat) : State :=
  let tl := tile s t
  let tv := (smGet Troupe.zero tl.troupes troupe).tvec.toNat
  let i : Tid := ⟨t, field tv 60 52⟩
  if bitOf tv 63 && mailLive s i && (thr s i).troupe == troupe then
    let e := eventWord kind false detail
    if (thr s i).mailbox.length < 8 && tl.heldEvents.all (fun h => h.1 != i) then
      eventPut s i e
    else if tl.heldEvents.length < 16 then
      setTile s t { tl with heldEvents := tl.heldEvents ++ [(i, e)] }
    else setTile s t { tl with loss := i.slot :: tl.loss.filter (· != i.slot) }
  else s

/-- A hypervisor event to EVTHR (R311, R312). -/
def raiseHyp (s : State) (kind detail : Nat) : State :=
  match (hypRec s).evthr with
  | none => s
  | some i0 =>
    let i := resolveTid s i0
    if mailLive s i then
      let e := eventWord kind false detail
      if (thr s i).mailbox.length < 8 && s.hypEvents.all (fun h => h.1 != i) then hypPut s i e
      else if s.hypEvents.length < 64 then { s with hypEvents := s.hypEvents ++ [(i, e)] }
      else { s with hypLoss := i :: s.hypLoss.filter (· != i) }
    else s

/-! ### Taking a trap and returning from one (R303 to R310) -/

/-- The word of a trap vector: handler address [51:2] and EN. -/
structure Vector where
  handler : Nat
  en : Bool
  deriving DecidableEq, Repr

/-- Whether a trap goes to the hypervisor: its own privilege, or SHADOW (R303, R89). -/
def trapHyp (th : Thread) (c : Cause) : Bool :=
  th.priv == 2 || (c == .prot && th.pfcause.toNat == 11)

/-- The vector a trap of this thread takes (R303, R306, R307). -/
def trapVector (s : State) (i : Tid) (hyp : Bool) : Vector :=
  if hyp then ⟨(hypRec s).handler, (hypRec s).en⟩
  else
    let tv := (smGet Troupe.zero (tile s i.tile).troupes (thr s i).troupe).tvec.toNat
    ⟨field tv 51 2, bitOf tv 0⟩

/-- The context that delivery of a trap with a handler leaves (R303). -/
def trapEnter (th : Thread) (hyp : Bool) (handler : Nat) (c : Cause) (v : Word) : Thread :=
  { th with
    tcause := BitVec.ofNat 8 c.code, tval := v, tpc := th.pc, ppriv := th.priv, inh := true,
    priv := if hyp then 2 else max th.priv 1, pc := w64 (handler * 4),
    st := .trapped (some 0), repBody := none, lvq := [] }

/-- The context of a trap that no handler takes (R303). -/
def trapStop (th : Thread) (c : Cause) (v : Word) : Thread :=
  { th with tcause := BitVec.ofNat 8 c.code, tval := v, tpc := th.pc, st := .trapped none,
            repBody := none, lvq := [] }

/-- The detail of a TRAPPED event (R311). -/
def trappedDetail (slot : Nat) (double : Bool) (c : Cause) : Nat :=
  slot * 2 ^ 32 + (if double then 256 else 0) + c.code

/-- A trap of the thread `i` with cause `c` and TVAL `v`, delivered as R303 states; its pending
results are written first (R45). An understudy raises no event of its own. -/
def trapThread (s : State) (i : Tid) (c : Cause) (v : Word) : State :=
  let s := landAll s i
  let th := { thr s i with again := none }
  let ev := fun s d => if th.shadow then s
    else raiseSup s i.tile th.troupe 0x01 (trappedDetail i.slot d c)
  if th.inh then ev (setThr s i { th with st := .trapped none, repBody := none, lvq := [] }) true
  else
    let hyp := trapHyp th c
    let vec := trapVector s i hyp
    if vec.en then setThr s i (trapEnter th hyp vec.handler c v)
    else ev (setThr s i (trapStop th c v)) false

/-- A handler's entry one rotation later: an understudy's, after its leader's (R319). -/
def enterLater (th : Thread) : Thread :=
  match th.st with
  | .trapped (some n) => { th with st := .trapped (some (n + 1)) }
  | _ => th

/-- A trap of a thread that its understudy's copy raises alike: it is delivered to both, and the
understudy enters its handler one rotation later (R319). -/
def trapPair (s : State) (i : Tid) (c : Cause) (v : Word) : State :=
  let th := thr s i
  let s := trapThread s i c v
  if th.leader then
    let j : Tid := ⟨i.tile, th.partner⟩
    updThr (trapThread s j c v) j enterLater
  else s

/-- The context that tret leaves (R310): privilege, INH and pc. -/
def tretContext (th : Thread) : Thread :=
  { th with priv := min th.ppriv th.priv, inh := false, pc := th.tpc, repBody := none }

/-! ### Cues (R263 to R265) -/

/-- The cue a reference names. -/
def getCue (s : State) : CueRef → Cue
  | .none => Cue.zero
  | .priv i n => smGet Cue.zero (thr s i).cues n
  | .tile t n => smGet Cue.zero (tile s t).cues n

/-- The state with a cue replaced. -/
def setCue (s : State) (r : CueRef) (c : Cue) : State :=
  match r with
  | .none => s
  | .priv i n => updThr s i fun th => { th with cues := smSet th.cues n c }
  | .tile t n => updTile s t fun t => { t with cues := smSet t.cues n c }

/-- A cue waiter is served: cwaitt writes 1 (R264). -/
def serveWaiter (s : State) (i : Tid) : State :=
  match (thr s i).wait? with
  | some (.cueTimed _ rd _) => complete s i (fun th => setX th rd 1)
  | some (.cue _) => complete s i id
  | _ => s

/-- Waiters served in order of arrival while the oldest's count is held (R264). -/
def cueServe (s : State) (r : CueRef) : List CueWaiter → State
  | [] => s
  | w :: ws =>
    let c := getCue s r
    if w.n ≤ c.value.toNat then
      cueServe (serveWaiter (setCue s r { c with value := BitVec.ofNat 32 (c.value.toNat - w.n),
                                                 waiters := ws }) w.tid) r ws
    else s

/-- The error mark set with a status: queued waiters leave and trap ENGINE, then the mark clears;
with none queued the mark stays (R263, R265). -/
def cueMark (s : State) (r : CueRef) (estat : Word) : State :=
  let c := getCue s r
  let es := if c.err then c.estat else estat
  match c.waiters with
  | [] => setCue s r { c with err := true, estat := es }
  | ws =>
    ws.foldl (fun s w => trapPair s w.tid .engine es)
      (setCue s r { c with err := false, estat := 0, waiters := [] })

/-- An idle thread ends its wait when a signal reaches one of its private cues (R272). -/
def endIdle (s : State) : CueRef → State
  | .priv i _ => if (thr s i).wait? == some .idle then complete s i id else s
  | _ => s

/-- Whether a cue is there to take a signal: a private cue's thread lives (R265). -/
def cueLive (s : State) : CueRef → Bool
  | .none => false
  | .priv i _ => (thr s i).live && !(thr s i).ended
  | .tile _ _ => true

/-- csig of `n`: the value grows, an overflow sets the mark, waiters are served (R264). -/
def cueSignal (s : State) (r : CueRef) (n : Nat) : State :=
  if !cueLive s r then s
  else
    let c := getCue s r
    let v := c.value.toNat + n
    let s1 :=
      if v > 0xFFFFFFFF then
        cueMark (setCue s r { c with value := 0xFFFFFFFF }) r (BitVec.allOnes 64)
      else setCue s r { c with value := BitVec.ofNat 32 v }
    endIdle (cueServe s1 r (getCue s1 r).waiters) r

/-- A completion signal: 1 more, with the error mark and its status on a failure, all ones where it
overflows too (R263). -/
def cueComplete (s : State) (r : CueRef) (fail : Option Word) : State :=
  if !cueLive s r then s
  else
    match fail with
    | none => cueSignal s r 1
    | some e =>
      let c := getCue s r
      let v := c.value.toNat + 1
      let e := if v > 0xFFFFFFFF then BitVec.allOnes 64 else e
      endIdle (cueMark (setCue s r { c with value := BitVec.ofNat 32 (min v 0xFFFFFFFF) }) r e) r

/-- A thread leaves every queue of a cue. -/
def cueLeave (s : State) (r : CueRef) (i : Tid) : State :=
  let c := getCue s r
  setCue s r { c with waiters := c.waiters.filter (fun w => w.tid != i) }

/-- The cue a K-format field names for a thread (R42): a private cue, or a cue of the home tile
(R263). -/
def cueOf (i : Tid) (th : Thread) (prv : BitVec 1) (n : BitVec 8) : CueRef :=
  if prv = 1 then .priv i n.toNat else .tile th.home n.toNat

/-- The cue a completion tag names: 0-7 a private cue, 8-15 the tile cue of CUEMAP (R42, R153). -/
def tagCue (i : Tid) (th : Thread) (tag : Nat) : CueRef :=
  if tag < 8 then .priv i tag else .tile th.home (field th.cuemap.toNat (8 * (tag - 8) + 7) (8 * (tag - 8)))

end Sys2Proof.Machine
end

