-- ==== Sys2Proof/Machine/Flits.lean ====
section
/-! DEFINITION. Packets of the torus: the header flit (R337) and the rank tables (R343). -/

namespace Sys2Proof.Machine

/-- The header flit's fields (R337). -/
structure Hdr where
  typ : Nat
  cls : Nat
  len : Nat
  pcls : Nat
  dpart : Nat
  dst : Nat
  src : Nat
  rtag : Nat
  addr : Word
  priv : Nat
  aspc : Nat
  data : List Nat
  deriving DecidableEq, Repr

/-- A header as a flit. -/
def packHdr (h : Hdr) : BitVec 512 :=
  let w0 := h.typ % 16 * 2 ^ 60 + h.cls % 2 * 2 ^ 59 + h.len % 16 * 2 ^ 55 + h.pcls % 16 * 2 ^ 51
    + h.dpart % 16 * 2 ^ 47 + h.dst % 4096 * 2 ^ 35 + h.src % 4096 * 2 ^ 23 + h.rtag % 2 ^ 23
  let w2 := h.priv % 4 * 2 ^ 12 + h.aspc % 4096
  BitVec.ofNat 512 (packChunks 64 ([w0, h.addr.toNat, w2] ++ h.data))

/-- The header in a flit. -/
def unpackHdr (f : BitVec 512) : Hdr :=
  let w := chunks 64 8 f.toNat
  let g := fun i => w.getD i 0
  { typ := field (g 0) 63 60, cls := field (g 0) 59 59, len := field (g 0) 58 55,
    pcls := field (g 0) 54 51, dpart := field (g 0) 50 47, dst := field (g 0) 46 35,
    src := field (g 0) 34 23, rtag := field (g 0) 22 0, addr := w64 (g 1),
    priv := field (g 2) 13 12, aspc := field (g 2) 11 0, data := w.drop 3 }

/-- This package's coordinates, X[11:8] Y[7:4] Z[3:0]. -/
def myCoord (s : State) : Nat := s.mgmt.cfg.coord

/-- A rank of a partition's table: its partition there, its package, and whether it is SELF
(R343). -/
structure RankEntry where
  part : Nat
  coord : Nat
  self : Bool
  deriving DecidableEq, Repr

/-- A partition's rank entry; none when the descriptor or the entry is not valid, or the rank is
not below NRANK (R343, R345). -/
def rankEntry (s : State) (p r : Nat) : Option RankEntry :=
  let d0 := table64 s (0x1C000 + 16 * p)
  let d1 := table64 s (0x1C000 + 16 * p + 8)
  if !bitOf d0 63 || field d1 12 0 ≤ r then none
  else
    let e := phys64 s.hbm ((field d0 39 12 * 4096 + 8 * r) % 2 ^ 40)
    if bitOf e 63 then
      some { part := field e 19 16, coord := field e 11 0, self := field d1 27 16 == r }
    else none

/-- A packet handed to this package's router (R338): the header, then data flits. -/
def inject (s : State) (src : Tid) (h : Hdr) (flits : List (BitVec 512)) : State :=
  let (n, s) := freshId s
  let h := { h with src := myCoord s, len := flits.length }
  { s with net := s.net ++ [{ id := n, src := src, tgt := 2 ^ 16 + h.dst,
                              body := .route 6 (packHdr h :: flits) (2 * h.cls) false 0 0 }] }

/-- A fresh RTAG of 23 bits (R337). -/
def freshTag (s : State) : Nat × State :=
  let (n, s) := freshId s
  (n % 2 ^ 23, s)

/-- The five DATA words of a forwarded page access: this model's layout, which the spec does not
give (log 13 [DESIGN CHOICE]). -/
def FwdOp.words : FwdOp → List Nat
  | .read => [0, 0, 0, 0, 0]
  | .write d m => chunks 64 4 d.toNat ++ [2 ^ 32 + m.toNat]
  | .amo f size b c a => [b.toNat, c.toNat, f, size + 256 * a, 2 ^ 33]
  | .op _ => [0, 0, 0, 0, 3 * 2 ^ 32]

/-- Eight words as a data flit. -/
def wordsFlit (ws : List Word) : BitVec 512 :=
  BitVec.ofNat 512 (packChunks 64 (ws.map (·.toNat)))

/-- A data flit's words. -/
def flitWords (f : BitVec 512) : List Word := (chunks 64 8 f.toNat).map w64

/-- The data flits of a forwarded page access. -/
def FwdOp.flits : FwdOp → List (BitVec 512)
  | .op ws => [wordsFlit ws]
  | _ => []

/-- The forwarded page access in DATA words and data flits. -/
def fwdOpOf (w : List Nat) (flits : List (BitVec 512)) : FwdOp :=
  let g := fun i => w.getD i 0
  if field (g 4) 33 32 = 3 then .op ((flits.map flitWords).flatten)
  else if field (g 4) 33 32 = 1 then
    .write (BitVec.ofNat 256 (packChunks 64 (w.take 4))) (BitVec.ofNat 32 (g 4))
  else if field (g 4) 33 32 = 2 then .amo (g 2) (g 3 % 256) (w64 (g 0)) (w64 (g 1)) (g 3 / 256)
  else .read

end Sys2Proof.Machine
end

