-- ==== Sys2Proof/Machine/Slice.lean ====
section
/-! DEFINITION. The shared-cache slices: translation (R81 to R89, R95, R99), lines and sectors
(R73, R88), accesses to remote pages (R94, R97), and publication of a tile's units (R234, R241). -/

namespace Sys2Proof.Machine

/-- An access at a slice: ASID, the privilege of the thread it acts for, or 3 where it is made for none
(R86, R337), write, fetch, and the client its forwarded parts answer to. -/
structure Acc where
  asid : BitVec 16
  priv : Nat
  write : Bool
  fetch : Bool
  client : Nat
  deriving DecidableEq, Repr

/-- Whether an access is one of user privilege (R86). -/
def Acc.user (a : Acc) : Bool := a.priv == 0

/-- The owning slice (R81). -/
def sliceOf (asid : BitVec 16) (off : Nat) : Nat :=
  (chunks 7 7 (off / 256)).foldl (· ^^^ ·) 0 ^^^ (chunks 7 3 asid.toNat).foldl (· ^^^ ·) 0

/-- The page key of an access. -/
def pageKey (asid : BitVec 16) (off : Nat) : Nat := asid.toNat * 2 ^ 36 + off / 65536

/-- The line key of an access (R81). -/
def lineKey (asid : BitVec 16) (off : Nat) : Nat := asid.toNat * 2 ^ 44 + off / 256

/-- The sub-causes of R89 with their causes. -/
def subCause (sub : Nat) : Cause :=
  if sub = 5 || sub = 6 || sub = 7 || sub = 11 then .prot else if sub = 8 then .pageLost else .page

/-- Fields of a table entry (R84). -/
def pteState (e : Nat) : Nat := field e 63 62
/-- V. -/
def pteV (e : Nat) : Bool := bitOf e 61
/-- PS. -/
def ptePS (e : Nat) : Bool := bitOf e 60
/-- GRAN. -/
def pteGran (e : Nat) : Nat := field e 59 57
/-- NC. -/
def pteNC (e : Nat) : Bool := bitOf e 53
/-- ADDR as a physical address. -/
def pteAddr (e : Nat) : Nat := field e 39 15 * 2 ^ 15
/-- OWNER. -/
def pteOwner (e : Nat) : Nat := field e 11 0

/-- The outcome of a walk: a leaf with its place and level, or a sub-cause. -/
inductive Walk where
  | leaf (pte : Nat) (at_ : Nat) (big : Bool)
  | bad (sub : Nat)
  deriving DecidableEq, Repr

/-- The walk from a table at level `lvl` (R86). -/
def walkFrom (h : Memory) (off : Nat) : Nat → Nat → Walk
  | 0, _ => .bad 1
  | n + 1, t =>
    let lvl := 3 - n
    let at_ := (t + 8 * (off / 2 ^ (52 - 12 * lvl) % 4096)) % 2 ^ 40
    let (e, poison) := physRead h 0 at_ 8
    if poison then .bad 9
    else if !pteV e then .bad 1
    else if lvl = 2 && ptePS e then .leaf e at_ true
    else if ptePS e then .bad 4
    else if lvl = 3 then .leaf e at_ false
    else walkFrom h off n (pteAddr e)

/-- The table entries that the walk from a table reads (R86). -/
def walkReads (h : Memory) (off : Nat) : Nat → Nat → List Nat
  | 0, _ => []
  | n + 1, t =>
    let at_ := (t + 8 * (off / 2 ^ (52 - 12 * (3 - n)) % 4096)) % 2 ^ 40
    let (e, poison) := physRead h 0 at_ 8
    at_ :: (if poison || !pteV e || ptePS e then [] else walkReads h off n (pteAddr e))

/-- Where the space entry of an ASID lies (R85). -/
def spaceAt (s : State) (asid : BitVec 16) : Nat :=
  (s.sptb.toNat + 16 * (asid.toNat / 16)) % 2 ^ 40

/-- The space entry of an ASID: V, GEN and the root (R85). -/
def spaceEntry (s : State) (asid : BitVec 16) : Nat × Bool := physRead s.hbm 0 (spaceAt s asid) 8

/-- The whole walk of R86 from the space entry; a poisoned space entry reads as a poisoned table
entry. -/
def walk (s : State) (asid : BitVec 16) (off : Nat) : Walk :=
  let (e, poison) := spaceEntry s asid
  if poison then .bad 9
  else if !bitOf e 63 || field e 43 40 != asid.toNat % 16 then .bad 10
  else walkFrom s.hbm off 3 (field e 39 15 * 2 ^ 15)

/-- What a walk leaves: the errors met in the entries it reads, counted (R71). -/
def walked (s : State) (asid : BitVec 16) (off : Nat) : State :=
  let (e, poison) := spaceEntry s asid
  let ats := if poison || !bitOf e 63 || field e 43 40 != asid.toNat % 16 then []
    else walkReads s.hbm off 3 (field e 39 15 * 2 ^ 15)
  (spaceAt s asid :: ats).foldl (fun s at_ => physNote s 0 at_) s

/-- The physical address of an offset under a leaf. -/
def leafPa (pte : Nat) (big : Bool) (off : Nat) : Nat :=
  (pteAddr pte + off % (if big then 2 ^ 28 else 2 ^ 16)) % 2 ^ 40

/-- The granule and the physical address of a resident byte by the tables. -/
def placeOf (s : State) (asid : BitVec 16) (off : Nat) : Option (Nat × Nat) :=
  match walk s asid off with
  | .leaf e _ big => if pteState e = 0 && pteV e then some (pteGran e, leafPa e big off) else none
  | .bad _ => none

/-- The physical address of a resident byte by the tables. -/
def paOf (s : State) (asid : BitVec 16) (off : Nat) : Option Nat := (placeOf s asid off).map (·.2)

/-- The TYPE of a ramo request (R337). -/
def tyRamo : Nat := 2

/-- The offset of the 16 bytes that a packet holds at its memory-side unit, and the ASID: an op packet
whose operation has begun and has no reply yet (R77). -/
def opHold (s : State) (k : Pkt) : Option (BitVec 16 × Nat) :=
  match k.body with
  | .rreq _ _ _ q =>
    if q.kind == tyRamo && decide (8 < q.data.length) then
      some (BitVec.ofNat 16 (q.part * 4096 + q.aspc), q.addr.toNat % 2 ^ 52 / 16 * 16)
    else none
  | .fwdHere _ (.op _) off p aspc _ _ _ =>
    if s.fwds.any (fun q => q.client == k.id) then
      some (BitVec.ofNat 16 (p * 4096 + aspc), off / 16 * 16)
    else none
  | _ => none

/-- Whether a body is a CHASE: its OP is 0x14 (R75). -/
def Body.isChase : Body → Bool
  | .rreq _ _ _ q => (q.data.headD 0).toNat % 256 == 0x14
  | .fwdHere _ (.op ws) .. => (ws.headD 0).toNat % 256 == 0x14
  | _ => false

/-- Whether two physical addresses lie in one granule (R66). -/
def sameGran (gran a b : Nat) : Bool :=
  a / 65536 == b / 65536 && a % 65536 / 32 / granP gran == b % 65536 / 32 / granP gran

/-- Whether an op packet other than `id` that has begun keeps an operation at `pa` waiting: operations on
one granule take effect one at a time, in order of arrival (R74). A CHASE, atomic per word read only, keeps
those on the sector whose bytes it holds waiting (R77). -/
def unitBusy (s : State) (id gran pa : Nat) : Bool :=
  s.net.any fun k => k.id != id && match opHold s k with
    | some (asid, off) =>
      (paOf s asid off).any (sameGran (if k.body.isChase then 0 else gran) pa)
    | none => false

/-- Whether an op packet other than `id` holds bytes of one of the sectors of `n` bytes at `pa`, which
nothing else then changes (R77). -/
def opHeld (s : State) (id pa n : Nat) : Bool :=
  s.net.any fun k => k.id != id && match opHold s k with
    | some (asid, off) => (paOf s asid off).any fun q =>
      decide (pa / 32 ≤ q / 32) && decide (q / 32 < pa / 32 + (pa % 32 + n + 31) / 32)
    | none => false

/-- The leaf tests of R86; 0 passes. -/
def leafTest (e : Nat) (big : Bool) (a : Acc) : Nat :=
  if pteState e = 0 && (bitOf e 15 || (big && field e 27 15 != 0)) then 4
  else if pteGran e > 4 then 3
  else if pteState e = 3 then 8
  else if pteState e = 2 then 2
  else if a.user && !bitOf e 54 then 6
  else if a.write && !bitOf e 56 then 5
  else if a.write && bitOf e 43 then 11
  else if a.fetch && !bitOf e 55 then 7
  else 0

/-- Whether a cached translation is that of an access at a slice (R87). -/
def tlbMatch (t : Tlb) (sl : Nat) (asid : BitVec 16) (off : Nat) : Bool :=
  t.slice == sl && t.asid == asid &&
    (if t.big then t.page / 4096 == off / 65536 / 4096 else t.page == off / 65536)

/-- ACC in memory grows by `n`, saturating; reaching 255 raises HOT (R95). -/
def addAcc (s : State) (t : Tlb) (n : Nat) : State :=
  if n = 0 then s
  else
    let e := phys64 s.hbm t.pteAt
    let acc := field e 51 44
    let new := min 255 (acc + n)
    let s' := physStore s 0 t.pteAt 8 (e - acc * 2 ^ 44 + new * 2 ^ 44)
    if acc < 255 && new = 255 then raiseHyp s' 0x11 (t.page * 65536 + t.asid.toNat) else s'

/-- Cached translations dropped, their unwritten counts added first (R95). -/
def dropTlbs (s : State) (p : Tlb → Bool) : State :=
  let s' := (s.tlbs.filter p).foldl (fun s t => addAcc s t t.count) s
  { s' with tlbs := s'.tlbs.filter (fun t => !p t) }

/-- A translation enters a slice of 4,096; a full slice first drops one the device chooses (R87). -/
def insertTlb (s : State) (t : Tlb) : State :=
  let mine := s.tlbs.filter (fun u => u.slice == t.slice)
  if mine.length < 4096 then { s with tlbs := t :: s.tlbs }
  else
    let (c, s) := draw s
    match mine[c % mine.length]? with
    | some v => let s := dropTlbs s (· == v); { s with tlbs := t :: s.tlbs }
    | none => { s with tlbs := t :: s.tlbs }

/-- The cached or walked leaf of an access, tested (R86, R87): the entry, or a sub-cause. -/
def translate (s : State) (a : Acc) (off : Nat) : State × Except Nat Tlb :=
  let sl := sliceOf a.asid off
  match s.tlbs.find? (fun t => tlbMatch t sl a.asid off) with
  | some t =>
    match leafTest t.pte.toNat t.big a with
    | 0 => (s, .ok t)
    | sub => (s, .error sub)
  | none =>
    let w := walk s a.asid off
    let s := walked s a.asid off
    match w with
    | .bad sub => (s, .error sub)
    | .leaf e at_ big =>
      match leafTest e big a with
      | 0 =>
        let t : Tlb := { slice := sl, asid := a.asid, page := off / 65536, pte := w64 e,
                         pteAt := at_, big := big, count := 0 }
        (insertTlb s t, .ok t)
      | sub => (s, .error sub)

/-- An access counted against a cached entry: 16 are added to ACC at once (R95). -/
def countEntry (s : State) (u : Tlb) : State :=
  let upd := fun c => s.tlbs.map (fun v => if v == u then { v with count := c } else v)
  if u.count + 1 ≥ 16 then addAcc { s with tlbs := upd 0 } u 16
  else { s with tlbs := upd (u.count + 1) }

/-- An access counted against its page's entry (R95). -/
def countAccess (s : State) (t : Tlb) : State :=
  match s.tlbs.find? (fun u => u.slice == t.slice && u.asid == t.asid && u.page == t.page) with
  | none => s
  | some u => countEntry s u

/-- `n` forwarded accesses counted against the entry that their slice has cached (R95). -/
def countForwards (asid : BitVec 16) (off : Nat) : Nat → State → State
  | 0, s => s
  | n + 1, s =>
    countForwards asid off n (match s.tlbs.find? (fun t => tlbMatch t (sliceOf asid off) asid off) with
      | some t => countEntry s t
      | none => s)

/-- D set in memory and in the slice's entry when a write finds it clear there (R99). R99 speaks of a
sector made dirty in a slice; the model sets D alike for a write to an NC = 1 page, a global AMO and an
op packet, which make none dirty there (log 38 [DESIGN CHOICE]). -/
def setDirty (s : State) (t : Tlb) : State :=
  if bitOf t.pte.toNat 52 then s
  else
    let e := phys64 s.hbm t.pteAt
    let s := physStore s 0 t.pteAt 8 (if bitOf e 52 then e else e + 2 ^ 52)
    let p := t.pte ||| BitVec.ofNat 64 (2 ^ 52)
    let m := fun (u : Tlb) => u.slice == t.slice && u.asid == t.asid && u.page == t.page
    { s with tlbs := s.tlbs.map (fun u => if m u then { u with pte := p } else u) }

/-- An error charged to a partition (R280): CEOWN by 1 when it was corrected (code 1), UEOWN when it
was not (code 3), SHARED when it lay on a shared path (code 4). -/
def chargePart (s : State) (p code : Nat) : State :=
  if code = 1 || code = 3 || code = 4 then
    let off := partOff p + (if code = 1 then 16 else if code = 3 then 24 else 32)
    putTable64 s off (min (2 ^ 64 - 1) (table64 s off + 1))
  else s

/-- An error that a controller met: counted at its pseudo-channels (R71) and, one count, charged to the
partition `p` whose access found it (R280). -/
def memError (p : Option Nat) (gran f i0 : Nat) (s : State) (e : MemError) : State :=
  let s := countError gran f i0 s e
  match p with
  | some p => chargePart s p e.1
  | none => s

/-- A granule read by its controller for partition `p` (R70, R71, R280). -/
def granFetch (s : State) (p : Option Nat) (gran f i0 : Nat) : Granule × State :=
  let r := granDecode s.hbm gran f i0
  (r.1, r.2.foldl (memError p gran f i0) s)

/-- Sector `i` of frame `f` read by its controller: its bytes, how it is delivered, and the state. -/
def sectorFetch (s : State) (p : Option Nat) (gran f i : Nat) : (Nat × Nat) × State :=
  let n := granP gran
  let r := granFetch s p gran f (i / n * n)
  let e := r.1.getD (i % n) ([], 0)
  ((ofNbytes e.1, e.2), r.2)

/-- Whole sectors of one granule written by its controller: the rest is read and merged (R73). -/
def sectorsStore (s : State) (p : Option Nat) (gran f i0 : Nat) (w : List (Nat × Nat × Bool)) : State :=
  let s := if w.length = granP gran then s else (granFetch s p gran f i0).2
  { s with hbm := sectorsWrite s.hbm gran f i0 w }

/-- `n` bytes within one sector written by its controller. -/
def bytesStore (s : State) (p : Option Nat) (gran pa n v : Nat) : State :=
  let s := (sectorFetch s p gran (pa / 65536) (pa % 65536 / 32)).2
  { s with hbm := physWrite s.hbm gran pa n v }

/-- The partition that owns a cluster. -/
def clusterPart (s : State) (c : Nat) : Option Nat :=
  ((s.parts.filter (fun e => e.2.valid)).find? (fun e => e.2.cmap.contains c)).map (·.1)

/-- An error found in the SRAM of a place, a tile or (from 1,024) a cluster, charged to the partition
that owns the cluster (R280, log 36 [DEDUCED]). -/
def chargeSram (s : State) (place code : Nat) : State :=
  match clusterPart s (if place < 1024 then tileCluster place else place - 1024) with
  | some p => chargePart s p code
  | none => s

/-! ### Lines -/

/-- An empty line of a frame. -/
def Line.fresh (pa gran : Nat) : Line :=
  { pa := pa, gran := gran, data := 0, valid := 0, dirty := 0, poison := 0 }

/-- Sector `k` of a line as a number. -/
def lineSector (l : Line) (k : Nat) : Nat := getBytes l.data.toNat (32 * k) 32

/-- Dirty sectors of a line of partition `q` written back, whole sectors granule by granule (R73). -/
def writebackLine (s : State) (q : Nat) (l : Line) : State :=
  let f := l.pa / 65536
  let i := l.pa % 65536 / 32
  let p := granP l.gran
  let dirty := (List.range 8).filter (fun k => l.dirty.getLsbD k)
  let groups := (dirty.map (fun k => (i + k) / p * p)).eraseDups
  groups.foldl (fun s i0 =>
    sectorsStore s (some q) l.gran f i0 ((dirty.filter (fun k => (i + k) / p * p == i0)).map
      (fun k => ((i + k) % p, lineSector l k, l.poison.getLsbD k)))) s

/-- A line written back and kept clean, or dropped. -/
def flushLine (s : State) (key : Nat) (keep : Bool) : State :=
  match smFind s.lines key with
  | none => s
  | some l =>
    let s := writebackLine s (asidPart (BitVec.ofNat 16 (key / 2 ^ 44))) l
    { s with lines := if keep then smSet s.lines key { l with dirty := 0 } else smDel s.lines key }

/-- Whether a dirty sector of a line holds bytes that an op packet holds at its unit: it is written back
when the packet has had its reply (R77). -/
def lineHeld (s : State) (key : Nat) : Bool :=
  match smFind s.lines key with
  | none => false
  | some l => (List.range 8).any fun k => l.dirty.getLsbD k && opHeld s s.fresh (l.pa + 32 * k) 32

/-- A line enters its slice of 8,192; a full slice first writes back and drops one the device
chooses (R11). -/
def roomForLine (s : State) (asid : BitVec 16) (off : Nat) : State :=
  if (smFind s.lines (lineKey asid off)).isSome || s.lines.length < 8192 then s
  else
    let sl := sliceOf asid off
    let mine := (smKeys s.lines).filter (fun k =>
      sliceOf (BitVec.ofNat 16 (k / 2 ^ 44)) (k % 2 ^ 44 * 256) == sl)
    if mine.length < 8192 then s
    else
      let mine := mine.filter (fun k => !lineHeld s k)
      let (c, s) := draw s
      flushLine s (mine.getD (c % mine.length) 0) false

/-- A fetched sector put into a line that does not hold it. -/
def Line.install (l : Line) (k : Nat) (e : List Nat × Nat) : Line :=
  let bit : BitVec 8 := BitVec.ofNat 8 (2 ^ k)
  { l with
    data := BitVec.ofNat 2048 (putBytes l.data.toNat (32 * k) 32 (ofNbytes e.1)),
    valid := l.valid ||| bit,
    poison := if 2 ≤ e.2 then l.poison ||| bit else l.poison }

/-- The sectors of a granule installed in the line at `pa`, where they are not valid there (R73). -/
def installLine (s : State) (asid : BitVec 16) (off pa gran i0 : Nat) (g : Granule) : State :=
  let key := lineKey asid off
  let i := pa % 65536 / 32
  let ks := (List.range 8).filter (fun k => decide (i0 ≤ i + k) && decide (i + k < i0 + granP gran))
  let put := fun (l : Line) (k : Nat) =>
    if l.valid.getLsbD k then l else l.install k (g.getD (i + k - i0) ([], 0))
  { s with lines := smSet s.lines key (ks.foldl put (smGet (Line.fresh pa gran) s.lines key)) }

/-- A fill of the needed sectors that are not valid: the granules that cover them are read, and every
slice that receives one installs what it does not hold; under L512 a granule holds the other line of
the pair too (R73). -/
def fillLine (s : State) (t : Tlb) (off : Nat) (need : List Nat) : State :=
  let gran := pteGran t.pte.toNat
  let off0 := off / 256 * 256
  let pa := leafPa t.pte.toNat t.big off0
  let l := smGet (Line.fresh pa gran) s.lines (lineKey t.asid off)
  let miss := need.filter (fun k => !l.valid.getLsbD k)
  if miss.isEmpty then s
  else
    let off1 := if off0 / 256 % 2 = 0 then off0 + 256 else off0 - 256
    let pa1 := leafPa t.pte.toNat t.big off1
    let p := granP gran
    let s := roomForLine (countAccess s t) t.asid off0
    let s := if gran = 4 then roomForLine s t.asid off1 else s
    ((miss.map (fun k => (pa % 65536 / 32 + k) / p * p)).eraseDups).foldl (fun s i0 =>
      let (g, s) := granFetch s (some (asidPart t.asid)) gran (pa / 65536) i0
      let s := installLine s t.asid off0 pa gran i0 g
      if gran = 4 then installLine s t.asid off1 pa1 gran i0 g else s) s

/-- Whether every sector of `[off, off+n)` is valid in its line. -/
def lineHas (s : State) (asid : BitVec 16) (off n : Nat) : Bool :=
  match smFind s.lines (lineKey asid off) with
  | none => false
  | some l => (List.range' (off % 256 / 32) ((off % 32 + n + 31) / 32)).all
      (fun k => l.valid.getLsbD k)

/-! ### Accesses -/

/-- The outcome of an access at a slice: a value with its poison mark, a sub-cause of R89, or a
wait for the owner of a remote page or for a pull (R94, R96). -/
inductive GRes where
  | ok (s : State) (v : Nat) (poison : Bool)
  | fault (s : State) (sub : Nat)
  | wait (s : State)

/-- A forwarded access sent to the rank that owns the page, over the torus or, when that is this
package, at home (R94, R337). -/
def fwdSend (s : State) (a : Acc) (owner unit : Nat) (op : FwdOp) : State :=
  let (tag, s) := freshTag s
  let p := asidPart a.asid
  let q : FwdReq := { client := a.client, rtag := tag, op := op, asid := a.asid, unit := unit,
                      answer := none }
  let o : Outst := { rtag := tag, id := s.fresh, tid := ⟨1024, 0⟩, tile := 1024, sent := s.cycle,
                     fail := 0, kind := 5 }
  let aspc := a.asid.toNat % 4096
  let s := { s with fwds := s.fwds ++ [q], outst := s.outst ++ [o] }
  let put := fun (b : Body) =>
    let (n, s) := freshId s
    { s with net := s.net ++ [{ id := n, src := ⟨1024, 0⟩, tgt := 0, body := b }] }
  match rankEntry s p owner with
  | none => put (.fwdFail tag)
  | some e =>
    if e.self then put (.fwdHere true op (unit * 32) e.part aspc a.priv (myCoord s) tag)
    else
      inject s ⟨1024, 0⟩
        { typ := 5, cls := 0, len := 0, pcls := p, dpart := e.part, dst := e.coord, src := 0,
          rtag := tag, addr := w64 (unit * 32), priv := a.priv, aspc := aspc, data := op.words } op.flits

/-- A client's forwarded access. -/
def fwdFind (s : State) (a : Acc) (unit : Nat) (op : FwdOp) : Option FwdReq :=
  s.fwds.find? (fun q => q.client == a.client && q.op == op && q.asid == a.asid && q.unit == unit)

/-- The answer that a client's forwarded access has had: it has been performed at the owner, whatever
has become of the page since (R96). -/
def fwdHad (s : State) (a : Acc) (unit : Nat) (op : FwdOp) : Option FwdAns :=
  (fwdFind s a unit op).bind (·.answer)

/-- A forwarded access sent, unless it has been. -/
def fwdAsk (s : State) (a : Acc) (owner unit : Nat) (op : FwdOp) : State :=
  if (fwdFind s a unit op).isSome then s else fwdSend s a owner unit op

/-- The sub-cause of a read's failed answer: the owner's own, or LOST (R94, R97). -/
def FwdAns.sub? : FwdAns → Option Nat
  | .value _ => none
  | .refused f => some f.sub
  | .lost => some 8

/-- The value of an answer. -/
def FwdAns.val : FwdAns → Nat
  | .value v => v
  | _ => 0

/-- The forwarded accesses of a client are done with. -/
def fwdDone (s : State) (client : Nat) : State :=
  { s with fwds := s.fwds.filter (fun q => !(q.client == client && q.answer.isSome)) }

/-- Sectors of `[off, off+n)` within one line. -/
def sectorsOf (off n : Nat) : List Nat :=
  List.range' (off % 256 / 32) ((off % 32 + n + 31) / 32)

/-- The 32-B units of `[off, off+n)`. -/
def unitsOf (off n : Nat) : List Nat := List.range' (off / 32) ((off % 32 + n + 31) / 32)

/-- Answered reads of `n` bytes put together; the first failure fails them (R94, R97). -/
def fwdRead (s : State) (off n : Nat) (ans : List FwdAns) : GRes :=
  match ans.findSome? FwdAns.sub? with
  | some sub => .fault s sub
  | none =>
    let vs := ans.map FwdAns.val
    .ok s (getBytes (packChunks 256 vs) (off % 32) n) (vs.any (fun v => decide (2 ^ 256 ≤ v)))

/-- The answers to a client's forwarded reads of `n` bytes, once all are there. -/
def readsHad (s : State) (a : Acc) (off n : Nat) : Option (List FwdAns) :=
  (unitsOf off n).mapM (fun u => fwdHad s a u .read)

/-- Sectors of a granule's frame read one by one at its unit (R88). -/
def sectorsFetch (p : Option Nat) (gran f : Nat) : List Nat → State → List (Nat × Nat) × State
  | [], s => ([], s)
  | i :: is, s =>
    let (r, s) := sectorFetch s p gran f i
    let (rs, s) := sectorsFetch p gran f is s
    (r :: rs, s)

/-- A read of `n` bytes within one line. -/
def lineRead (s : State) (a : Acc) (off n : Nat) : GRes :=
  match readsHad s a off n with
  | some ans => fwdRead s off n ans
  | none =>
  if s.heldPages.contains (pageKey a.asid off) then .wait s
  else
    match translate s a off with
    | (s, .error sub) => .fault s sub
    | (s, .ok t) =>
      if pteState t.pte.toNat = 1 then
        .wait ((unitsOf off n).foldl (fun s u => fwdAsk s a (pteOwner t.pte.toNat) u .read) s)
      else if pteNC t.pte.toNat then
        let pa := leafPa t.pte.toNat t.big off
        let (parts, s) := sectorsFetch (some (asidPart a.asid)) (pteGran t.pte.toNat) (pa / 65536)
          (List.range' (pa % 65536 / 32) ((off % 32 + n + 31) / 32)) (countAccess s t)
        .ok s (getBytes (packChunks 256 (parts.map (·.1))) (off % 32) n)
          (parts.any (fun p => 2 ≤ p.2))
      else
        let s := fillLine s t off (sectorsOf off n)
        let l := smGet (Line.fresh 0 0) s.lines (lineKey a.asid off)
        .ok s (getBytes l.data.toNat (off % 256) n)
          ((sectorsOf off n).any (fun k => l.poison.getLsbD k))

/-- The bytes of `old` replaced by those of `new` where the mask has a 1, `n` bytes. -/
def mergeBytes : Nat → Nat → Nat → Nat → Nat
  | 0, _, _, _ => 0
  | n + 1, old, new, mask =>
    (if mask % 2 = 1 then new % 256 else old % 256)
      + 256 * mergeBytes n (old / 256) (new / 256) (mask / 2)

/-- The mask of `n` bytes. -/
def fullMask (n : Nat) : Nat := 2 ^ n - 1

/-- A write as whole sectors: for each sector with a byte to write its number in the line, value and
mask. -/
def writeParts (off n v mask : Nat) : List (Nat × Nat × Nat) :=
  let b := off % 32
  let wv := v % 2 ^ (8 * n) * 2 ^ (8 * b)
  let wm := mask % 2 ^ n * 2 ^ b
  (List.range ((b + n + 31) / 32)).filterMap fun j =>
    let m := wm / 2 ^ (32 * j) % 2 ^ 32
    if m = 0 then none else some (off % 256 / 32 + j, wv / 2 ^ (256 * j) % 2 ^ 256, m)

/-- The forwarded write of one sector. -/
def partOp (p : Nat × Nat × Nat) : FwdOp := .write (BitVec.ofNat 256 p.2.1) (BitVec.ofNat 32 p.2.2)

/-- The answers to a client's forwarded writes so far. -/
def writesHad (s : State) (a : Acc) (off : Nat) (parts : List (Nat × Nat × Nat)) : List FwdAns :=
  parts.filterMap (fun p => fwdHad s a (off / 256 * 8 + p.1) (partOp p))

/-- The end of writes that were forwarded: a refusal of the owner fails them, one that the owner's or a
link's failure has taken is discarded (R97). -/
def fwdWritten (s : State) (ans : List FwdAns) : GRes :=
  match ans.findSome? (fun r => match r with
      | .refused f => some f.sub
      | _ => none) with
  | some sub => .fault s sub
  | none => .ok s 0 false

/-- A sector's masked bytes written at the unit of its granule (R73, R88). -/
def unitPut (p : Nat) (gran f i v mask : Nat) (s : State) : State :=
  let n := granP gran
  let ((old, code), s) :=
    if mask = fullMask 32 && n = 1 then ((0, 0), s) else sectorFetch s (some p) gran f i
  let w := [(i % n, mergeBytes 32 old v mask, decide (2 ≤ code) && mask != fullMask 32)]
  { s with hbm := sectorsWrite s.hbm gran f (i / n * n) w }

/-- A write of the masked bytes among `n` within one line. -/
def lineWrite (s : State) (a : Acc) (off n v mask : Nat) : GRes :=
  let a := { a with write := true }
  let all := writeParts off n v mask
  let had := writesHad s a off all
  let parts := all.filter (fun p => (fwdHad s a (off / 256 * 8 + p.1) (partOp p)).isNone)
  if parts.isEmpty && !had.isEmpty then fwdWritten s had
  else if s.heldPages.contains (pageKey a.asid off) then .wait s
  else
    match translate s a off with
    | (s, .error sub) => .fault s sub
    | (s, .ok t) =>
      if pteState t.pte.toNat = 1 then
        if parts.isEmpty then .ok s 0 false
        else
          .wait (parts.foldl (fun s p =>
            fwdAsk s a (pteOwner t.pte.toNat) (off / 256 * 8 + p.1) (partOp p)) s)
      else if opHeld s a.client (leafPa t.pte.toNat t.big off) n then .wait s
      else
        let s := setDirty s t
        let gran := pteGran t.pte.toNat
        if pteNC t.pte.toNat then
          let pa := leafPa t.pte.toNat t.big (off / 256 * 256)
          .ok (parts.foldl (fun s p => unitPut (asidPart a.asid) gran (pa / 65536)
            (pa % 65536 / 32 + p.1) p.2.1 p.2.2 s) (countAccess s t)) 0 false
        else
          let partial_ := (parts.filter (fun p => p.2.2 != fullMask 32)).map (·.1)
          let s := fillLine s t off partial_
          let key := lineKey a.asid off
          let s := roomForLine s a.asid off
          let l := smGet (Line.fresh (leafPa t.pte.toNat t.big (off / 256 * 256)) gran) s.lines key
          let l := parts.foldl (fun (l : Line) p =>
            let bit : BitVec 8 := BitVec.ofNat 8 (2 ^ p.1)
            { l with
              data := BitVec.ofNat 2048 (putBytes l.data.toNat (32 * p.1) 32
                (mergeBytes 32 (lineSector l p.1) p.2.1 p.2.2)),
              valid := l.valid ||| bit, dirty := l.dirty ||| bit,
              poison := if p.2.2 = fullMask 32 then l.poison &&& ~~~bit else l.poison }) l
          .ok { s with lines := smSet s.lines key l } 0 false

/-- The pieces of `[off, off+n)` that stay within lines: offset and length of each. -/
def linePieces : Nat → Nat → Nat → List (Nat × Nat)
  | 0, _, _ => []
  | fuel + 1, off, n =>
    if n = 0 then []
    else
      let k := min n (256 - off % 256)
      (off, k) :: linePieces fuel (off + k) (n - k)

/-- The line pieces of a span. -/
def pieces (off n : Nat) : List (Nat × Nat) := linePieces (n / 256 + 2) off n

/-- Line reads one after the other, values packed. -/
def readPieces (s : State) (a : Acc) : List (Nat × Nat) → GRes
  | [] => .ok s 0 false
  | (o, k) :: ps =>
    match lineRead s a o k with
    | .ok s v b =>
      match readPieces s a ps with
      | .ok s w c => .ok s (v + w * 2 ^ (8 * k)) (b || c)
      | r => r
    | r => r

/-- A read of `n` bytes at a virtual offset, with its published value. An offset beyond 52 bits
is the caller's to refuse (R18). -/
def gRead (s : State) (a : Acc) (off n : Nat) : GRes := readPieces s a (pieces off n)

/-- Line writes one after the other. -/
def writePieces (s : State) (a : Acc) (v mask : Nat) : List (Nat × Nat) → GRes
  | [] => .ok s 0 false
  | (o, k) :: ps =>
    match lineWrite s a o k (v % 2 ^ (8 * k)) (mask % 2 ^ k) with
    | .ok s _ _ => writePieces s a (v / 2 ^ (8 * k)) (mask / 2 ^ k) ps
    | r => r

/-- A published write of the masked bytes among `n` at a virtual offset. -/
def gWrite (s : State) (a : Acc) (off n v mask : Nat) : GRes :=
  writePieces s { a with write := true } v mask (pieces off n)

/-- The sub-cause of the first failing page of a span, 0 when every page passes (R184). -/
def pagesTest (s : State) (a : Acc) : List Nat → State × Nat
  | [] => (s, 0)
  | o :: os =>
    match translate s a o with
    | (s, .error sub) => (s, sub)
    | (s, .ok _) => pagesTest s a os

/-- Whether two entries are the translation of one page in one slice. -/
def Tlb.same (t u : Tlb) : Bool := t.slice == u.slice && t.asid == u.asid && t.page == u.page

/-- A translation that a waiting access has filled enters its slice (R87): walked in the state that stays,
where its walk passes. -/
def refill (s : State) (t : Tlb) : State :=
  if s.tlbs.any t.same then s
  else
    match walk s t.asid (t.page * 65536) with
    | .leaf e at_ big =>
      insertTlb (walked s t.asid (t.page * 65536))
        { t with pte := w64 e, pteAt := at_, big := big, count := 0 }
    | .bad _ => s

/-- What remains of a state when an access must wait: the requests it has sent, each counted against its
page (R95), and the translations it has filled (R87). -/
def keepRequests (s0 s : State) : State :=
  let kept := { s0 with fwds := s.fwds, net := s.net, outst := s.outst, fresh := s.fresh,
                        draws := s.draws }
  let kept := (s.tlbs.filter (fun t => !s0.tlbs.any t.same)).foldr (fun t s => refill s t) kept
  (s.fwds.filter (fun q => !s0.fwds.any (fun r => r.rtag == q.rtag))).foldl
    (fun s q => countForwards q.asid (q.unit * 32) 1 s) kept

/-- The access of a thread. -/
def threadAcc (th : Thread) (write fetch : Bool) (client : Nat) : Acc :=
  { asid := th.asid, priv := th.priv, write := write, fetch := fetch, client := client }

/-- The client number of a thread's own accesses. -/
def tidClient (i : Tid) : Nat := 2 ^ 64 + i.tile * 512 + i.slot

/-! ### The write buffer, the view and publication -/

/-- The key of a 64-B unit of an address space. -/
def unitKey (asid : BitVec 16) (off : Nat) : Nat := asid.toNat * 2 ^ 46 + off / 64

/-- The ASID of a unit key. -/
def unitAsid (k : Nat) : BitVec 16 := BitVec.ofNat 16 (k / 2 ^ 46)

/-- The offset of a unit key. -/
def unitOff (k : Nat) : Nat := k % 2 ^ 46 * 64

/-- A unit with nothing in it. -/
def Unit64.empty : Unit64 := ⟨0, 0⟩

/-- A unit overlaid with a newer one. -/
def Unit64.over (old new : Unit64) : Unit64 :=
  ⟨BitVec.ofNat 512 (mergeBytes 64 old.data.toNat new.data.toNat new.mask.toNat),
   old.mask ||| new.mask⟩

/-- The client number of a tile's publications. -/
def tileClient (t : Nat) : Nat := 2 ^ 65 + t

/-- One unit published: written, forwarded, or discarded with PUBLOST (R241). None: it waits. -/
def publishUnit (s : State) (t key : Nat) (u : Unit64) : Option State :=
  let a : Acc := { asid := unitAsid key, priv := 3, write := true, fetch := false,
                   client := tileClient t }
  match gWrite s a (unitOff key) 64 u.data.toNat u.mask.toNat with
  | .ok s _ _ => some s
  | .wait _ => none
  | .fault s _ =>
    some (raiseHyp s 0x14 (unitOff key / 65536 * 65536 + (unitAsid key).toNat))

/-- The requests of a unit that must wait, sent. -/
def publishAsk (s : State) (t key : Nat) (u : Unit64) : State :=
  let a : Acc := { asid := unitAsid key, priv := 3, write := true, fetch := false,
                   client := tileClient t }
  match gWrite s a (unitOff key) 64 u.data.toNat u.mask.toNat with
  | .wait s' => keepRequests s s'
  | _ => s

/-- The units a tile has stored in the current phase. -/
def unpublished (tl : Tile) : List Nat := (smKeys tl.wbuf ++ smKeys tl.plog).eraseDups

/-- Units that loads on their way to a tile have fetched, fetched again where `p` names them: a load never
returns, or enters in the view, what is older than a unit that has left it (R236). -/
def refetch (s : State) (t : Nat) (p : Nat → Bool) : State :=
  { s with net := s.net.map fun k =>
      if k.src.tile != t then k
      else match k.body with
        | .gload off n a u todo fill data got bad =>
          let gone := (got.filter (fun e => p e.1)).map (·.1)
          let got := got.filter (fun e => !p e.1)
          let bad := bad && got.any (fun e => !e.2.2)
          { k with body := .gload off n a u (todo ++ gone) fill data got bad }
        | _ => k }

/-- Units of a tile's view that `p` names dropped (R235, R245, R247). -/
def dropView (s : State) (t : Nat) (p : Nat → Bool) : State :=
  refetch (updTile s t fun tl => { tl with view := tl.view.filter (fun e => !p e.1) }) t p

/-- A tile's view cleared (R240, R247). -/
def clearView (s : State) (t : Nat) : State := dropView s t (fun _ => true)

/-- Whether a tile other than `t` holds a unit in its view or on its way there. -/
def seenElsewhere (s : State) (t k : Nat) : Bool :=
  s.tiles.any (fun e => e.1 != t && (smFind e.2.view k).isSome)
    || s.net.any fun q => q.src.tile != t && (match q.body with
      | .gload _ _ _ _ _ _ _ got _ => (smFind got k).isSome
      | _ => false)

/-- A thread after its tile has published unit `k`: forgotten where no other tile may still find older
bytes of it. -/
def Thread.published (k : Nat) (seen : Bool) (th : Thread) : Thread :=
  let marked := th.gstores.map (fun e => if e.1 = k then (k, true) else e)
  { th with gstores := marked.filter (fun e => e.1 != k || seen) }

/-- Fences that wait for stores to be published issue again (R246). -/
def wakeFences (s : State) : State :=
  (allThreads s).foldl (fun s e => match e.2.wait? with
    | some (.fence _ _ _ true) => if e.2.shadow then s else reissue s e.1
    | _ => s) s

/-- A unit of a tile has been published or discarded: it leaves the buffer, the log and the view, whose
next load fetches it with the tile's own bytes (R230, R235, R236). -/
def unitPublished (s : State) (t k : Nat) : State :=
  let s := dropView s t (· == k)
  let seen := seenElsewhere s t k
  wakeFences (updTile s t fun tl =>
    { tl with wbuf := smDel tl.wbuf k, plog := smDel tl.plog k,
              threads := smMap (fun _ th => th.published k seen) tl.threads })

/-- Units of tiles leave their buffers and logs and are published, in the order of the list; `false` when
some of them still wait for the owner of a remote page. -/
def publishUnits (s : State) : List (Nat × Nat) → State × Bool
  | [] => (s, true)
  | (t, k) :: ks =>
    let tl := tile s t
    let u := (smGet Unit64.empty tl.plog k).over (smGet Unit64.empty tl.wbuf k)
    match publishUnit s t k u with
    | some s' => publishUnits (unitPublished s' t k) ks
    | none => let (s', _) := publishUnits (publishAsk s t k u) ks; (s', false)

/-- A list in a free order (R8). -/
def shuffle {α : Type} : Nat → List α → State → List α × State
  | 0, l, s => (l, s)
  | n + 1, l, s =>
    if l.length ≤ 1 then (l, s)
    else
      let (d, s) := draw s
      let k := d % l.length
      let (r, s) := shuffle n (dropAt l k) s
      ((l[k]?).toList ++ r, s)

/-- Units of tiles published in an order that the device chooses (R238). -/
def publishFree (s : State) (l : List (Nat × Nat)) : State × Bool :=
  let (l, s) := shuffle l.length l s
  publishUnits s l

/-- Units of a tile published. -/
def publishKeys (s : State) (t : Nat) (ks : List Nat) : State × Bool :=
  publishFree s (ks.map (fun k => (t, k)))

/-- Every unit of the write buffers and phase logs of tiles published (R238, R247). -/
def publishTiles (s : State) (ts : List Nat) : State × Bool :=
  let (s, done) := publishFree s (ts.flatMap (fun t => (unpublished (tile s t)).map (fun k => (t, k))))
  (if done then ts.foldl (fun s t => fwdDone s (tileClient t)) s else s, done)

/-- Every unit of a tile's write buffer and phase log published (R240). -/
def publishTile (s : State) (t : Nat) : State × Bool := publishTiles s [t]

end Sys2Proof.Machine
end

