-- ==== Sys2Proof/Machine/Places.lean ====
section
/-! DEFINITION. Fat pointers (R17 to R20), the SRAMs and the trace ring (R126, R130, R145 to R147),
what a pointer reaches (R18, R128), and the accesses of engines and streams. -/

namespace Sys2Proof.Machine

/-! ### Fat pointers -/

/-- FMT. -/
def pFmt (p : Word) : Nat := field p.toNat 63 58
/-- BLKL. -/
def pBlkl (p : Word) : Nat := field p.toNat 57 54
/-- SPACE. -/
def pSpace (p : Word) : Nat := field p.toNat 53 52
/-- OFFSET. -/
def pOff (p : Word) : Nat := p.toNat % 2 ^ 52
/-- The pointer with another OFFSET. -/
def pWith (p : Word) (off : Nat) : Word := w64 (p.toNat / 2 ^ 52 * 2 ^ 52 + off % 2 ^ 52)

/-- The typed check of R20. -/
def typedOk (p : Word) : Bool :=
  let f := pFmt p
  let b := pBlkl p
  if f = 0 || f > 12 then false
  else if f ≤ 4 then b == 0
  else if f ≤ 11 then b == 0 || (3 ≤ b && b ≤ 7)
  else b == 5

/-- Bytes of a scratchpad (R18). -/
def spadSize : Nat := 0xC0000
/-- Bytes of a cluster's shared memory (R18). -/
def shmSize : Nat := 0x200000

/-! ### SRAM words and the trace ring -/

/-- Whether a read of `n` bytes at `a` takes an uncorrectable word (R126). -/
def marksBad (m : Marks) (a n : Nat) : Bool := m.bad.any (fun w => a / 8 ≤ w && w ≤ (a + n - 1) / 8)

/-- The marks after a write of `n` bytes at `a`: whole words lose their marks, a partial write
leaves an uncorrectable word uncorrectable (R126). -/
def marksWrite (m : Marks) (a n : Nat) : Marks :=
  { corr := m.corr.filter (fun w => !(a / 8 ≤ w && w ≤ (a + n - 1) / 8)),
    bad := m.bad.filter (fun w => !(a ≤ 8 * w && 8 * w + 8 ≤ a + n)) }

/-- The code of a size in a trace entry (R146). -/
def traceSize (n : Nat) : Nat :=
  if n = 1 then 0 else if n = 2 then 1 else if n = 4 then 2 else if n = 8 then 3
  else if n = 64 then 4 else if n = 128 then 5 else if n = 256 then 6 else 7

/-- A write logged in the trace ring (R145 to R147). -/
def traceLog (tr : Trace) (cycle kind src n off : Nat) : Trace :=
  if !tr.en then tr
  else if tr.fill = 256 && !tr.wrap then { tr with ovf := true }
  else
    let hi := kind * 2 ^ 60 + traceSize n * 2 ^ 57 + src % 4096 * 2 ^ 44 + off % 2 ^ 20
    { tr with
      entries := smSet tr.entries tr.head (w64 cycle, w64 hi),
      head := (tr.head + 1) % 256,
      fill := if tr.fill = 256 then 256 else tr.fill + 1,
      ovf := tr.ovf || tr.fill == 256 }

/-- Bytes of a scratchpad as a number, and whether a word read is uncorrectable. -/
def spadRead (s : State) (t off n : Nat) : Nat × Bool :=
  let tl := tile s t
  (readLE tl.spad off n, marksBad tl.spadMarks off n)

/-- The cycle at which an access that acts now is applied to its bank: the banks lie four cycles behind
the issue (R132, R185, log 39 [DEDUCED]). -/
def bankCycle (s : State) : Nat := s.cycle + 4

/-- The bytes of unit `u` that lie in `[a, a+n)`. -/
def unitPart (a n u : Nat) : BitVec 64 :=
  let lo := max a (64 * u) - 64 * u
  let hi := min (a + n) (64 * u + 64) - 64 * u
  BitVec.ofNat 64 ((2 ^ (hi - lo) - 1) * 2 ^ lo)

/-- The units that `[a, a+n)` touches. -/
def spanUnitsAt (a n : Nat) : List Nat := List.range' (a / 64) ((a % 64 + n + 63) / 64)

/-- The bytes `[a, a+n)` of value `v` by unit. -/
def spanParts (a n v : Nat) : List (Nat × Unit64) :=
  (spanUnitsAt a n).map fun u =>
    (u, ⟨BitVec.ofNat 512 (v % 2 ^ (8 * n) * 2 ^ (8 * (a % 64)) / 2 ^ (512 * (u - a / 64))), unitPart a n u⟩)

/-- The `n` bytes at `a` of value `v`, with the bytes of units over them. -/
def laidOver (v a n : Nat) (f : Nat → Unit64) : Nat :=
  packChunks 8 ((List.range n).map fun j =>
    let u := f ((a + j) / 64)
    let b := (a + j) % 64
    if u.mask.getLsbD b then u.data.toNat / 2 ^ (8 * b) % 256 else v / 2 ^ (8 * j) % 256)

/-- Bytes that reach a bank: the engines' paths find them from now on (R111). -/
def lagDrop (lag : SMap Unit64) (f : Nat → BitVec 64) : SMap Unit64 :=
  (lag.map fun e => (e.1, { e.2 with mask := e.2.mask &&& ~~~f e.1 })).filter (fun e => e.2.mask != 0)

/-- Bytes written to a scratchpad and performed toward every path. -/
def spadWrite (s : State) (t off n v : Nat) : State :=
  updTile s t fun tl =>
    { tl with spad := writeLE tl.spad off n v, spadMarks := marksWrite tl.spadMarks off n,
              lag := lagDrop tl.lag (unitPart off n) }

/-- The bytes that a thread's store to its own scratchpad replaces, which the engines' paths may still
find (R111, R204). -/
def lagKeep (tl : Tile) (off n : Nat) : SMap Unit64 :=
  (spanUnitsAt off n).foldl (fun l u =>
    let old : Unit64 := ⟨BitVec.ofNat 512 (readLE tl.spad (64 * u) 64), unitPart off n u⟩
    smSet l u (old.over (smGet Unit64.empty l u))) tl.lag

/-- A thread's store to its own scratchpad (path S): it is performed toward the threads of the tile, and
toward the engines' paths once a fence or the device has it so (R111, R204, R227). -/
def spadStore (s : State) (t off n v : Nat) : State :=
  updTile s t fun tl =>
    { tl with spad := writeLE tl.spad off n v, spadMarks := marksWrite tl.spadMarks off n,
              lag := lagKeep tl off n }

/-- A write to a scratchpad that the ring logs with KIND `kind` and SRC `src` (R147). -/
def spadWriteLog (s : State) (t off n v kind src : Nat) : State :=
  updTile (spadWrite s t off n v) t fun tl =>
    { tl with trace := traceLog tl.trace (bankCycle s) kind src n off }

/-- Bytes of a cluster's shared memory as a number, and whether a word read is uncorrectable. -/
def shmRead (s : State) (c off n : Nat) : Nat × Bool :=
  let k := cluster s c
  (readLE k.shm off n, marksBad k.shmMarks off n)

/-- Bytes written to a cluster's shared memory. -/
def shmWrite (s : State) (c off n v : Nat) : State :=
  updCluster s c fun k =>
    { k with shm := writeLE k.shm off n v, shmMarks := marksWrite k.shmMarks off n }

/-- A place packets go to: a tile below 1,024, or a cluster above (R128). -/
def placeRead (s : State) (place off n : Nat) : Nat × Bool :=
  if place < 1024 then spadRead s place off n else shmRead s (place - 1024) off n

/-- A remote write applied at a place, logged with its kind (R130, R147). -/
def placeWrite (s : State) (place off n v kind src : Nat) : State :=
  if place < 1024 then spadWriteLog s place off n v kind src
  else shmWrite s (place - 1024) off n v

/-! ### What engines have written (R111, R216) -/

/-- The marks after the bytes of a mask of unit `u` have been written (R126). -/
def marksUnit (m : Marks) (u : Nat) (mask : BitVec 64) : Marks :=
  let of_ := fun (w : Nat) => if w / 8 = u then mask.toNat / 2 ^ (8 * (w % 8)) % 256 else 0
  { corr := m.corr.filter (fun w => of_ w == 0), bad := m.bad.filter (fun w => of_ w != 255) }

/-- What an engine has written reaches its bank (R130). -/
def lateApply (t : Nat) (s : State) (e : Late) : State :=
  updTile s t fun tl =>
    let a := 64 * e.unit
    { tl with
      spad := writeLE tl.spad a 64 (laidOver (readLE tl.spad a 64) a 64 (fun _ => e.data)),
      spadMarks := marksUnit tl.spadMarks e.unit e.data.mask,
      lag := lagDrop tl.lag (fun u => if u = e.unit then e.data.mask else 0),
      trace := e.log.foldl (fun tr l => traceLog tr (bankCycle s) l.kind l.src l.size l.off) tl.trace }

/-- The writes of a tile that `p` names (by place in the list) reach their banks in order. -/
def landLate (s : State) (t : Nat) (p : Late × Nat → Bool) : State :=
  let es := (tile s t).late.zipIdx
  ((es.filter p).map (·.1)).foldl (lateApply t)
    (updTile s t fun tl => { tl with late := (es.filter (fun e => !p e)).map (·.1) })

/-- Write `k` reaches its bank, after the earlier ones to its unit that are ordered before it: on its
path, those of its command and those of completed ones (R108, R111, R227). Between two commands on different
paths, completed or not, either may be the last (R111, R216). -/
def landOneLate (s : State) (t k : Nat) : State :=
  match (tile s t).late[k]? with
  | none => s
  | some e => landLate s t fun x =>
      decide (x.2 ≤ k) && x.1.unit == e.unit && x.1.path == e.path && (x.1.cmd == e.cmd || x.1.cmd == 0)

/-- Whether a write may reach its bank: a running command may still add to its last unit, which is
written as a whole (R111, R216). -/
def lateWhole (tl : Tile) (k : Nat) : Bool :=
  match tl.late[k]? with
  | none => false
  | some e => e.cmd == 0 || (tl.late.drop (k + 1)).any (fun x => x.cmd == e.cmd)

/-- The completed writes of a path to the units of `[a, a+n)` of a place reach their banks. -/
def landUnits (s : State) (place path a n : Nat) : State :=
  if place < 1024 then
    landLate s place (fun x => x.1.cmd == 0 && x.1.path == path && (spanUnitsAt a n).contains x.1.unit)
  else s

/-- Every completed write of a path reaches its bank. -/
def landPath (s : State) (path : Nat) : State :=
  s.tiles.foldl (fun s e =>
    if e.2.late.isEmpty then s else landLate s e.1 (fun x => x.1.cmd == 0 && x.1.path == path)) s

/-- A command has completed: its writes are performed on its path (R111, R216). -/
def lateDone (s : State) (id : Nat) : State :=
  { s with tiles := smMap (fun _ tl =>
      if tl.late.all (fun e => e.cmd != id) then tl
      else
        { tl with late := tl.late.filter (fun e => e.cmd != id)
            ++ (tl.late.filter (fun e => e.cmd == id)).map (fun e => { e with cmd := 0 }) }) s.tiles }

/-- More bytes of a unit, with the entries that they add to its own (R147). -/
def Late.over (e x : Late) : Late :=
  { e with data := e.data.over x.data, log := e.log ++ x.log.filter (fun l => !e.log.contains l) }

/-- Bytes added to the last unit of a running command, in the reversed list; none where it wrote another
unit last. -/
def lateMerge (x : Late) : List Late → Option (List Late)
  | [] => none
  | e :: es =>
    if e.cmd = x.cmd then
      (if e.unit = x.unit then some (e.over x :: es) else none)
    else (lateMerge x es).map (e :: ·)

/-- One more write: it joins the running command's last unit, or follows. -/
def latePut (l : List Late) (x : Late) : List Late :=
  if x.cmd = 0 then l ++ [x]
  else
    match lateMerge x l.reverse with
    | some r => r.reverse
    | none => l ++ [x]

/-- Bytes that an engine writes to a scratchpad on a path; `log` is the entry of a unit. -/
def lateWrite (s : State) (t path cmd off n v : Nat) (log : Nat → Option LogAs) : State :=
  updTile s t fun tl =>
    { tl with late := (spanParts off n v).foldl (fun l e =>
        latePut l { path := path, cmd := cmd, unit := e.1, data := e.2, log := (log e.1).toList }) tl.late }

/-- The number of a place's unit among those read ahead. -/
def seenKey (place u : Nat) : Nat := place * 65536 + u

/-- The bytes of a unit that have been performed on a path and not reached the bank (R227). -/
def lateUnit (tl : Tile) (path u : Nat) : Unit64 :=
  (tl.late.filter (fun e => e.unit == u && e.path == path && e.cmd == 0)).foldl
    (fun a e => a.over e.data) Unit64.empty

/-- What a path finds of a unit over the bank's bytes: those that thread stores have replaced and not yet
performed toward it, and those performed on it (R111, R204, R227). -/
def pathUnit (tl : Tile) (path u : Nat) : Unit64 :=
  (smGet Unit64.empty tl.lag u).over (lateUnit tl path u)

/-- Whether a mask holds every byte of the 64-bit word `w`. -/
def wordIn (m : BitVec 64) (w : Nat) : Bool := m.toNat / 2 ^ (8 * (w % 8)) % 256 == 255

/-- `n` bytes of a place as an engine's path finds them, a unit read ahead as it was then, and whether an
uncorrectable word was read. -/
def pathRead (s : State) (path : Nat) (seen : SMap (BitVec 512)) (place off n : Nat) : Nat × Bool :=
  let (v, bad) := placeRead s place off n
  if path = 0 then (v, bad)
  else
    let tl := tile s place
    let m := if place < 1024 then tl.spadMarks else (cluster s (place - 1024)).shmMarks
    let ahead := fun (u : Nat) => smFind seen (seenKey place u)
    (laidOver v off n (fun u => match ahead u with
      | some d => ⟨d, BitVec.allOnes 64⟩
      | none => if place < 1024 then pathUnit tl path u else Unit64.empty),
     marksBad (m.keep (fun w => (ahead (w / 8)).isNone
       && !(place < 1024 && wordIn (lateUnit tl path (w / 8)).mask w))) off n)

/-- A unit of a place read ahead of its use; one with an uncorrectable word is left for then (R111,
R204). -/
def readAhead (s : State) (path place u : Nat) (seen : SMap (BitVec 512)) : SMap (BitVec 512) :=
  let (v, bad) := pathRead s path [] place (64 * u) 64
  if bad || (smFind seen (seenKey place u)).isSome then seen
  else smSet seen (seenKey place u) (BitVec.ofNat 512 v)

/-- Bytes of a mask of unit `u` of a cluster's shared memory written. -/
def shmPut (s : State) (c u : Nat) (x : Unit64) : State :=
  updCluster s c fun k =>
    { k with shm := writeLE k.shm (64 * u) 64 (laidOver (readLE k.shm (64 * u) 64) (64 * u) 64 (fun _ => x)),
             shmMarks := marksUnit k.shmMarks u x.mask }

/-! ### What a pointer reaches -/

/-- The target of an access: global memory, the scratchpad of the tile the thread runs on, or a
place reached over the mesh. -/
inductive Target where
  | glob (off : Nat)
  | here (off : Nat)
  | far (place off : Nat)
  deriving DecidableEq, Repr

/-- What `n` bytes at pointer `p` reach, by the limits of R18 and the checks of R128; `local_` is
the tile whose own scratchpad is reached directly. -/
def resolve (s : State) (st : Standing) (home : Nat) (local_ : Option Nat) (p : Word) (n : Nat) :
    Except Cause Target :=
  let o := pOff p
  match pSpace p with
  | 0 => if o + n ≤ 2 ^ 52 then .ok (.glob o) else .error .addr
  | 2 =>
    if o + n ≤ spadSize then .ok (if local_ == some home then .here o else .far home o)
    else .error .addr
  | 1 =>
    if o % 2 ^ 40 + n ≤ shmSize then
      (reachCluster s st (o / 2 ^ 40)).map (fun pl => .far pl (o % 2 ^ 40))
    else .error .addr
  | _ =>
    if o % 2 ^ 40 + n ≤ spadSize then
      (reachTile s st (o / 2 ^ 40)).map (fun t => .far t (o % 2 ^ 40))
    else .error .addr

/-- What a thread's access reaches. -/
def threadTarget (s : State) (i : Tid) (p : Word) (n : Nat) : Except Cause Target :=
  let th := thr s i
  resolve s (standing s th.home th.asid) th.home (some i.tile) p n

/-- The accesses of an engine or stream: translation, standing, home tile, the logical tile the
trace records, the kinds under which writes to the home scratchpad and to others are logged
(R147), and of an engine command its path, its number and the units it has read ahead. -/
structure Agent where
  acc : Acc
  st : Standing
  home : Nat
  src : Nat
  kindHome : Option Nat
  kindFar : Nat
  path : Nat := 0
  cmd : Nat := 0
  seen : SMap (BitVec 512) := []
  deriving DecidableEq, Repr

/-- The outcome of an engine's access: a value and whether it was uncorrectable, a failure with
its sub-cause, or a wait for a remote page's owner. -/
inductive MRes where
  | ok (s : State) (v : Nat) (bad : Bool)
  | fail (s : State) (c : Cause) (sub : Nat)
  | wait (s : State)

/-- A slice's answer as an engine takes it. -/
def ofGRes : GRes → MRes
  | .ok s v b => .ok s v b
  | .fault s sub => .fail s (subCause sub) sub
  | .wait s => .wait s

/-- The number of a global unit among those read ahead. -/
def globKey (u : Nat) : Nat := 2 ^ 100 + u

/-- `n` bytes within one global unit: as the command has read the unit, or read now. -/
def globPart (s : State) (g : Agent) (o n : Nat) : MRes :=
  match smFind g.seen (globKey (o / 64)) with
  | some d => .ok s (getBytes d.toNat (o % 64) n) false
  | none => ofGRes (gRead s g.acc o n)

/-- `n` bytes of global memory, `fuel` units at most, those that the command has read taken as they were
then (R111). -/
def globRead (g : Agent) : Nat → State → Nat → Nat → MRes
  | 0, s, _, _ => .ok s 0 false
  | fuel + 1, s, o, n =>
    let k := min n (64 - o % 64)
    match globPart s g o k with
    | .ok s v b =>
      if n ≤ k then .ok s v b
      else
        match globRead g fuel s (o + k) (n - k) with
        | .ok s w c => .ok s (v + w * 2 ^ (8 * k)) (b || c)
        | r => r
    | r => r

/-- A global unit read as a whole by an engine, to be used as it is now (R111); one that cannot be read, or
is poisoned, is left to the access that needs its bytes. None: the unit waits for its owner. -/
def holdUnit (u : Nat) (g : Agent) (s : State) : Option Agent × State :=
  if (smFind g.seen (globKey u)).isSome then (some g, s)
  else
    match gRead s g.acc (64 * u) 64 with
    | .ok s v bad =>
      (some (if bad then g else { g with seen := smSet g.seen (globKey u) (BitVec.ofNat 512 v) }), s)
    | .fault s _ => (some g, s)
    | .wait s => (none, s)

/-- The units from `u` on, `n` of them, read as `holdUnit` does. -/
def holdUnits : Nat → Nat → Agent → State → Option Agent × State
  | 0, _, g, s => (some g, s)
  | n + 1, u, g, s =>
    match holdUnit u g s with
    | (some g, s) => holdUnits n (u + 1) g s
    | r => r

/-- The units of `n` bytes at a pointer, where they are global. -/
def holdSpan (s : State) (g : Agent) (p : Word) (n : Nat) : Option Agent × State :=
  match resolve s g.st g.home none p n with
  | .ok (.glob o) => holdUnits ((spanUnitsAt o n).length) (o / 64) g s
  | _ => (some g, s)

/-- `n` bytes read by an engine at a pointer in any space; those of a saved context come once it has been
restored (R330). -/
def agentRead (s : State) (g : Agent) (p : Word) (n : Nat) : MRes :=
  match resolve s g.st g.home none p n with
  | .error c => .fail s c 0
  | .ok (.glob o) =>
    if g.seen.isEmpty then ofGRes (gRead s g.acc o n) else globRead g (n / 64 + 2) s o n
  | .ok (.here o) =>
    let (v, b) := pathRead s g.path g.seen g.home o n
    .ok (if b then chargeSram s g.home 3 else s) v b
  | .ok (.far pl o) =>
    if savedBase ≤ pl then .wait s
    else
      let (v, b) := pathRead s g.path g.seen pl o n
      .ok (if b then chargeSram s pl 3 else s) v b

/-- The aligned pieces of 1 to 8 bytes of `[o, o+n)`, each of which is applied as a whole (R130). -/
def alignedParts : Nat → Nat → Nat → List (Nat × Nat)
  | 0, _, _ => []
  | fuel + 1, o, n =>
    if n = 0 then []
    else
      let k := if o % 8 = 0 && 8 ≤ n then 8 else if o % 4 = 0 && 4 ≤ n then 4
        else if o % 2 = 0 && 2 ≤ n then 2 else 1
      (o, k) :: alignedParts fuel (o + k) (n - k)

/-- `n` bytes that an engine writes to a place, logged with a kind or not (R147). -/
def placePut (s : State) (g : Agent) (place o n v : Nat) (kind : Option Nat) : State :=
  if g.path != 0 && place < 1024 then
    lateWrite s place g.path g.cmd o n v fun u =>
      if u = o / 64 then kind.map (fun k => { kind := k, src := g.src, size := n, off := o }) else none
  else
    match kind with
    | some k =>
      (alignedParts n o n).foldl (fun s e =>
        placeWrite s place e.1 e.2 (v / 2 ^ (8 * (e.1 - o))) k g.src) s
    | none => if place < 1024 then spadWrite s place o n v else shmWrite s (place - 1024) o n v

/-- `n` bytes written by an engine at a pointer in any space; to a saved context once it has been restored
(R330, log 21 [DESIGN CHOICE]). -/
def agentWrite (s : State) (g : Agent) (p : Word) (n v : Nat) : MRes :=
  match resolve s g.st g.home (some g.home) p n with
  | .error c => .fail s c 0
  | .ok (.glob o) => ofGRes (gWrite s g.acc o n v (fullMask n))
  | .ok (.here o) => .ok (placePut s g g.home o n v g.kindHome) 0 false
  | .ok (.far pl o) =>
    if savedBase ≤ pl then .wait s else .ok (placePut s g pl o n v (some g.kindFar)) 0 false

end Sys2Proof.Machine
end

