-- ==== Sys2Proof/Machine/MatrixRes.lean ====
section
/-! DEFINITION. What a port-0 command names: slot tags, effective tags (R390), operand pairs (R36),
and the slots and accumulators a command reads and writes (R199 to R201). Resources are numbered
as in the claim mask of R200: slots 0-15, accumulators 16-19. -/

namespace Sys2Proof.Machine

/-- CMD codes of port 0 (R53). -/
def cmdLoad : Nat := 2
/-- mma. -/
def cmdMma : Nat := 3
/-- mmas. -/
def cmdMmas : Nat := 4
/-- mgemm. -/
def cmdGemm : Nat := 5
/-- mdrain. -/
def cmdDrain : Nat := 6
/-- mzero. -/
def cmdZero : Nat := 7
/-- mtov. -/
def cmdTov : Nat := 8

/-- A raw tag (R196). -/
def SlotTag.raw : SlotTag := ⟨0, 0⟩

/-- The tag a source pointer sets (R203): XE8 gives FP8E4 with BLKL 5. -/
def ptrTag (p : Word) : SlotTag :=
  if pFmt p = 12 then ⟨5, 5⟩ else if pFmt p = 0 then SlotTag.raw else ⟨pFmt p, pBlkl p⟩

/-- Elements per slot row of a format (R196). -/
def fmtK (f : Nat) : Nat :=
  if f = 1 then 16 else if f = 2 then 32 else if f ≤ 4 && f ≠ 0 then 64
  else if f = 9 || f = 11 then 256 else 128

/-- The accumulator type of a pair, its group size and whether it has a sparse rate (R36). -/
inductive AccType where
  | fp64 | fp32 | int32
  deriving DecidableEq, Repr

/-- A pair of R36. -/
structure PairKind where
  acc : AccType
  g : Nat
  sparse : Bool
  deriving DecidableEq, Repr

/-- An 8-bit or 6-bit float. -/
def isSmallFloat (f : Nat) : Bool := 5 ≤ f && f ≤ 8

/-- The row of the pair table of R36 for two tags; none when the array refuses the pair. -/
def pairOf (a b : SlotTag) : Option PairKind :=
  let int := fun g s => some ⟨if a.blkl = 0 && b.blkl = 0 then AccType.int32 else .fp32, g, s⟩
  if a.fmt = 1 && b.fmt = 1 then some ⟨.fp64, 1, false⟩
  else if a.fmt = 2 && b.fmt = 2 then some ⟨.fp32, 4, false⟩
  else if (a.fmt = 3 && b.fmt = 3) || (a.fmt = 4 && b.fmt = 4) then some ⟨.fp32, 16, true⟩
  else if isSmallFloat a.fmt && isSmallFloat b.fmt then some ⟨.fp32, 32, true⟩
  else if a.fmt = 10 && b.fmt = 10 then int 32 true
  else if a.fmt = 9 && b.fmt = 9 then some ⟨.fp32, 32, false⟩
  else if a.fmt = 11 && b.fmt = 11 then int 32 false
  else if (a.fmt = 9 && isSmallFloat b.fmt) || (isSmallFloat a.fmt && b.fmt = 9) then
    some ⟨.fp32, 32, false⟩
  else if (a.fmt = 11 && b.fmt = 10) || (a.fmt = 10 && b.fmt = 11) then int 32 false
  else none

/-- An engine register of a command's snapshot. -/
def Command.e (c : Command) (n : Nat) : Nat := ((c.snap.e)[n]?.getD 0).toNat

/-- mgemm's STEPS (R202). -/
def gemmSteps (c : Command) : Nat := field (c.e 0) 47 32

/-- mgemm's SB (R202). -/
def gemmSb (c : Command) : Nat := field (c.e 0) 23 20

/-- The tags a pending command will set, with their slots (R203, R209, R390). -/
def cmdSets (c : Command) : List (Nat × SlotTag) :=
  if c.cmd = cmdLoad then [(c.a.toNat % 16, ptrTag c.b)]
  else if c.cmd = cmdGemm then
    let sb := gemmSb c
    let two := [(sb, ptrTag c.a), (sb + 1, ptrTag c.b)]
    if gemmSteps c > 1 then two ++ [(sb + 2, ptrTag c.a), (sb + 3, ptrTag c.b)] else two
  else []

/-- The tag a slot has now (R196). -/
def presentTag (tl : Tile) (n : Nat) : SlotTag := smGet SlotTag.raw tl.slotTag n

/-- The effective tag of a slot behind the accepted commands `q` (R390). -/
def effTag (tl : Tile) (q : List Command) (n : Nat) : SlotTag :=
  q.foldl (fun t c => (cmdSets c).foldl (fun t e => if e.1 = n then e.2 else t) t) (presentTag tl n)

/-- Bit `n` of a mask. -/
def maskBit (n : Nat) : Nat := 2 ^ n

/-- The mask of a slot, if it exists. -/
def slotBit (n : Nat) : Nat := if n < 16 then maskBit n else 0

/-- The mask of an accumulator and, for a pair, its partner. -/
def accMask (acc : Nat) (pair : Bool) : Nat :=
  let a := acc % 4
  maskBit (16 + a) ||| (if pair then maskBit (16 + (a ^^^ 1)) else 0)

/-- B slots of an mmas: 3, or 2 for N = 6 (R207). -/
def sparseNb (c : Command) : Nat := if field (c.e 0) 10 8 = 6 then 2 else 3

/-- Whether a pair of tags accumulates in FP64. -/
def isPair64 (a b : SlotTag) : Bool := (pairOf a b).map (·.acc) == some AccType.fp64

/-- What a command reads: a mask, by the effective tags behind `q`. -/
def cmdReads (tl : Tile) (q : List Command) (c : Command) : Nat :=
  let a := c.a.toNat % 16
  let b := c.b.toNat % 16
  if c.cmd = cmdMma then
    maskBit a ||| maskBit b ||| accMask (c.e 0) (isPair64 (effTag tl q a) (effTag tl q b))
  else if c.cmd = cmdMmas then
    (List.range (sparseNb c)).foldl (fun m j => m ||| slotBit (b + j))
      (maskBit a ||| maskBit (field (c.e 0) 7 4))
      ||| accMask (c.e 0) (isPair64 (effTag tl q a) (effTag tl q b))
  else if c.cmd = cmdGemm then
    (List.range 4).foldl (fun m j => m ||| slotBit (gemmSb c + j)) 0
      ||| accMask (c.e 0) (isPair64 (ptrTag c.a) (ptrTag c.b))
  else if c.cmd = cmdDrain || c.cmd = cmdTov then
    accMask c.a.toNat (field (c.e 0) 29 28 == 2)
  else 0

/-- What a command writes: a mask. -/
def cmdWrites (tl : Tile) (q : List Command) (c : Command) : Nat :=
  let acc := fun m => m &&& 0xF0000
  if c.cmd = cmdLoad then maskBit (c.a.toNat % 16)
  else if c.cmd = cmdMma || c.cmd = cmdMmas then acc (cmdReads tl q c)
  else if c.cmd = cmdGemm then cmdReads tl q c
  else if c.cmd = cmdZero then accMask c.a.toNat false
  else if c.cmd = cmdDrain && bitOf (c.e 0) 24 then cmdReads tl q c
  else 0

/-- The resources a command names (R199). -/
def cmdNames (tl : Tile) (q : List Command) (c : Command) : Nat :=
  cmdReads tl q c ||| cmdWrites tl q c

/-- The accepted commands before a given one. -/
def earlierThan (q : List Command) (id : Nat) : List Command := q.takeWhile (fun c => c.id != id)

/-- The resources that the pending commands of a tile that satisfy `p` name. -/
def namedBy (tl : Tile) (p : Command → Bool) : Nat :=
  (tl.mQueue ++ tl.mArrivals).foldl (fun m c =>
    if p c then m ||| cmdNames tl (earlierThan tl.mQueue c.id) c else m) 0

/-- The resources a holder holds. -/
def heldBy (tl : Tile) (h : Holder) : Nat :=
  (tl.holders.filter (fun e => e.2 == h)).foldl (fun m e => m ||| maskBit e.1) 0

/-- The resources that someone holds. -/
def heldMask (tl : Tile) : Nat := tl.holders.foldl (fun m e => m ||| maskBit e.1) 0

/-- Resources of a mask, as numbers. -/
def maskList (m : Nat) : List Nat := (List.range 20).filter (fun n => bitOf m n)

/-- The resources of a mask held by `h`. -/
def holdAll (tl : Tile) (m : Nat) (h : Holder) : Tile :=
  { tl with holders := (maskList m).foldl (fun hs n => smSet hs n h) tl.holders }

/-- The resources of a mask free. -/
def freeAll (tl : Tile) (m : Nat) : Tile :=
  { tl with holders := tl.holders.filter (fun e => !bitOf m e.1) }

/-- The references of a thread that has ended: no tile has this number. -/
def deadTid : Tid := ⟨1024, 0⟩

/-- Resources whose thread has ended, freed when no command of it names them any more (R200). -/
def freeGone (tl : Tile) : Tile :=
  let m := namedBy tl (fun c => c.snap.tid == deadTid && c.snap.task.isNone)
  { tl with holders := tl.holders.filter (fun e => e.2 != .gone || bitOf m e.1) }

end Sys2Proof.Machine
end

