-- ==== Sys2Proof/Machine/Lifecycle.lean ====
section
/-! DEFINITION. How threads come and go: creation (R250, R258, R259), the release of what a thread
holds (R121, R200, R261), its end (R240, R261), and parking (R313). -/

namespace Sys2Proof.Machine

/-! ### References to threads -/

/-- A cue reference after threads have moved or ended. -/
def CueRef.rename (f : Tid → Tid) : CueRef → CueRef
  | .priv t n => if f t == deadTid then .none else .priv (f t) n
  | r => r

/-- A snapshot after threads have moved or ended. -/
def Snap.rename (f : Tid → Tid) (p : Snap) : Snap :=
  { p with tid := f p.tid, cue := p.cue.rename f }

/-- A command after threads have moved or ended. -/
def Command.rename (f : Tid → Tid) (c : Command) : Command := { c with snap := c.snap.rename f }

/-- A task after threads have moved or ended. -/
def Task.rename (f : Tid → Tid) (k : Task) : Task := { k with snap := k.snap.rename f }

/-- A cue after threads have moved or ended. -/
def Cue.rename (f : Tid → Tid) (c : Cue) : Cue :=
  { c with waiters := c.waiters.map (fun w => { w with tid := f w.tid }) }

/-- A wait after threads have moved or ended. -/
def Wait.rename (f : Tid → Tid) : Wait → Wait
  | .cue c => .cue (c.rename f)
  | .cueTimed c rd l => .cueTimed (c.rename f) rd l
  | .join rd t => .join rd (f t)
  | w => w

/-- A slot's state after threads have moved or ended. -/
def Slot.rename (f : Tid → Tid) : Slot → Slot
  | .waiting w n => .waiting (w.rename f) n
  | .migrating b => .migrating (b.rename f)
  | .arriving i => .arriving (f i)
  | x => x

/-- A thread's context after threads have moved or ended. -/
def Thread.rename (f : Tid → Tid) (th : Thread) : Thread :=
  { th with
    st := th.st.rename f,
    cues := smMap (fun _ c => c.rename f) th.cues }

/-- A holder after threads have moved or ended. -/
def Holder.rename (f : Tid → Tid) : Holder → Holder
  | .thread t => .thread (f t)
  | h => h

/-- A packet after threads have moved or ended. -/
def Pkt.rename (f : Tid → Tid) (k : Pkt) : Pkt :=
  { k with
    src := f k.src,
    body := match k.body with
      | .msg t v => .msg (f t) v
      | b => b }

/-- A tile after threads have moved or ended. -/
def Tile.rename (f : Tid → Tid) (tl : Tile) : Tile :=
  { tl with
    threads := smMap (fun _ th => th.rename f) tl.threads,
    cues := smMap (fun _ c => c.rename f) tl.cues,
    rosets := tl.rosets.map (fun r => (r.1, r.2.1, r.2.2.1, f r.2.2.2)),
    holders := smMap (fun _ h => h.rename f) tl.holders,
    claims := tl.claims.map (fun c => { c with tid := f c.tid }),
    releases := tl.releases.map (fun c => { c with tid := f c.tid }),
    mArrivals := tl.mArrivals.map (·.rename f),
    mQueue := tl.mQueue.map (·.rename f),
    pipes := tl.pipes.map (fun p => { p with writer := p.writer.map f, reader := p.reader.map f }),
    heldEvents := tl.heldEvents.map (fun e => (f e.1, e.2)) }

/-- A cluster after threads have moved or ended. -/
def Cluster.rename (f : Tid → Tid) (k : Cluster) : Cluster :=
  { k with
    shArrivals := k.shArrivals.map (·.rename f),
    shQueue := k.shQueue.map (·.rename f),
    shRunning := k.shRunning.map (·.rename f),
    waiting := k.waiting.map (·.rename f),
    running := k.running.map (·.rename f),
    flushes := k.flushes.map (fun e => (e.1, f e.2.1, e.2.2.1.rename f, e.2.2.2)),
    posts := k.posts.map (fun e => (e.1.rename f, e.2.rename f)) }

/-- Every reference to a thread replaced (a moved context R274, R331; an ended thread R261). -/
def renameTid (s : State) (f : Tid → Tid) : State :=
  { s with
    cur := f s.cur,
    tiles := smMap (fun _ t => t.rename f) s.tiles,
    clusters := smMap (fun _ k => k.rename f) s.clusters,
    swapArrivals := s.swapArrivals.map (fun e => (e.1, e.2.rename f)),
    swapQueue := s.swapQueue.map (fun e => (e.1, e.2.rename f)),
    swapEntries := s.swapEntries.map (fun e => { e with snap := e.snap.rename f }),
    xl := s.xl.map (fun x => { x with tid := f x.tid }),
    gates := smMap (fun _ g =>
      { g with waiters := g.waiters.map (fun w => { w with tid := f w.tid }) }) s.gates,
    net := s.net.map (·.rename f),
    parts := smMap (fun _ p => { p with op := p.op.map (fun o => { o with tid := f o.tid }) })
      s.parts,
    launches := s.launches.map (fun l => { l with threads := l.threads.map f }),
    hypEvents := s.hypEvents.map (fun e => (f e.1, e.2)),
    hypLoss := s.hypLoss.map f,
    outst := s.outst.map (fun o => { o with tid := f o.tid }) }

/-! ### Waiting for a resource -/

/-- The pipe of a key within a troupe (R117). -/
def findPipe (tl : Tile) (troupe key : Nat) : Option Pipe :=
  tl.pipes.find? (fun p => p.troupe == troupe && p.key == key)

/-- Stream FIFOs in use on a tile (R112): one per bound stream but a pipe's two ends share one. -/
def fifosUsed (tl : Tile) : Nat :=
  ((tl.threads.map fun e => (e.2.streams.filter (fun b => b.2.kind != 3)).length).foldl (· + ·) 0)
    + tl.pipes.length

/-- A binding replaced. -/
def setStream (s : State) (i : Tid) (n : Nat) (b : Stream) : State :=
  updThr s i fun th => { th with streams := smSet th.streams n b }

/-- What a binder meets: an end that is taken, no free FIFO, or its binding. -/
inductive BindRes where
  | taken
  | full
  | bound (s : State)

/-- One end of a pipe taken by a thread. -/
def Pipe.attach (p : Pipe) (i : Tid) (write : Bool) : Pipe :=
  if write then { p with writer := some i } else { p with reader := some i }

/-- A stream bound (R119): in a free FIFO, or attached to the pipe of its key (R117). -/
def bindTry (s : State) (i : Tid) (n : Nat) (b : Stream) : BindRes :=
  let tl := tile s i.tile
  let tr := (thr s i).troupe
  let write := b.dir == 1
  if b.kind = 3 then
    match findPipe tl tr b.key with
    | some p =>
      if (if write then p.writer.isSome || p.ended else p.reader.isSome || p.rgone) then .taken
      else
        let f := fun (p : Pipe) => if p.troupe == tr && p.key == b.key then p.attach i write else p
        .bound (setStream (updTile s i.tile fun tl => { tl with pipes := tl.pipes.map f }) i n b)
    | none =>
      if 32 ≤ fifosUsed tl then .full
      else
        let p : Pipe := { troupe := tr, key := b.key, fifo := [], writer := none, reader := none,
                          ended := false, rgone := false }
        .bound (setStream (updTile s i.tile fun tl =>
          { tl with pipes := tl.pipes ++ [p.attach i write] }) i n b)
  else if 32 ≤ fifosUsed tl then .full
  else .bound (setStream s i n b)

/-- The TVAL of an sbind that fails (R121). -/
def bindWord (kind err : Nat) : Word := w64 (kind * 2 ^ 28 + err)

/-- A thread that waits for a FIFO binds its stream once one is free (R119). -/
def bindAgain (s : State) (i : Tid) (n : Nat) (b : Stream) : State :=
  match bindTry s i n b with
  | .taken => trapPair s i .stream (bindWord b.kind 0x01)
  | .full => s
  | .bound s => complete s i id

/-- Every thread of a tile that waits for a resource looks for it again: it issues again (R113, R129),
or binds its stream (R119). -/
def retryTile (s : State) (t : Nat) : State :=
  (tile s t).threads.foldl (fun s e =>
    if e.2.shadow then s
    else
      match e.2.wait? with
      | some .retry => reissue s ⟨t, e.1⟩
      | some .stream => reissue s ⟨t, e.1⟩
      | some (.bind n b) => bindAgain s ⟨t, e.1⟩ n b
      | _ => s) s

/-- A packet's body replaced in its place. -/
def setBody (s : State) (id : Nat) (b : Body) : State :=
  { s with net := s.net.map (fun k => if k.id = id then { k with body := b } else k) }

/-- A packet sent. -/
def send (s : State) (src : Tid) (tgt : Nat) (b : Body) : State :=
  let (n, s) := freshId s
  { s with net := s.net ++ [{ id := n, src := src, tgt := tgt, body := b }] }

/-! ### Streams at a thread's end (R117, R119, R121) -/

/-- A pushed entry written at its place (R115); none when it cannot be (R118). -/
def streamPut (s : State) (i : Tid) (b : Stream) (k : Nat) (v : VWord) : Except Cause State :=
  let th := thr s i
  let o := (pOff b.base : Int) + b.stride * k
  if o < 0 || o ≥ 2 ^ 52 then .error .addr
  else
    let p := pWith b.base o.toNat
    match resolve s (standing s th.home b.asid) th.home (some i.tile) p 512 with
    | .error c => .error c
    | .ok (.here a) => .ok (spadWrite (landUnits s i.tile 2 a 512) i.tile a 512 v.toNat)
    | .ok (.far pl a) =>
      if savedBase ≤ pl then .error .addr
      else .ok (placeWrite (landUnits s pl 2 a 512) pl a 512 v.toNat 3 (ltileOf s th.home))
    | .ok (.glob _) => .error .addr

/-- Pushed entries written in order, up to one that cannot be (R118). -/
def putEntries (i : Tid) (b : Stream) : List FifoEntry → State → State
  | [], s => s
  | e :: es, s =>
    match streamPut s i b e.n e.v with
    | .ok s' => putEntries i b es s'
    | .error _ => s

/-- Every entry an output stream still holds, written; those of a stream in error stay unperformed
(R118, R121). -/
def streamFlush (s : State) (i : Tid) (b : Stream) : State :=
  if b.kind = 1 && b.st != 3 then putEntries i b b.fifo s else s

/-- One end of a pipe unbound; the pipe goes when both ends have unbound (R117). -/
def pipeUnbind (tl : Tile) (troupe key : Nat) (write : Bool) : Tile :=
  let upd := fun (p : Pipe) =>
    if p.troupe == troupe && p.key == key then
      (if write then { p with writer := none, ended := true }
       else { p with reader := none, rgone := true })
    else p
  let keep := fun (p : Pipe) => p.writer.isSome || p.reader.isSome || (p.ended && !p.rgone)
  { tl with pipes := (tl.pipes.map upd).filter keep }

/-- A binding freed: its FIFO or its end of the pipe. -/
def streamFree (s : State) (i : Tid) (n : Nat) (b : Stream) : State :=
  let s := updThr s i fun th => { th with streams := smDel th.streams n }
  let s := if b.kind = 3 then
      updTile s i.tile fun tl => pipeUnbind tl (thr s i).troupe b.key (b.dir == 1)
    else s
  retryTile s i.tile

/-- Every binding of a thread released; pushed entries are still written (R121). -/
def streamsEnd (s : State) (i : Tid) : State :=
  (thr s i).streams.foldl (fun s e => streamFree (streamFlush s i e.2) i e.1 e.2) s

/-! ### The end of a thread (R261) -/

/-- A thread's claims freed as R200 states: what a pending command names stays until it ends. -/
def claimsEnd (tl : Tile) (i : Tid) : Tile :=
  let named := namedBy tl (fun c => c.snap.tid == i && c.snap.task.isNone)
  { tl with
    holders := (tl.holders.filter (fun e => e.2 != .thread i || bitOf named e.1)).map
      (fun e => if e.2 == .thread i then (e.1, .gone) else e),
    claims := tl.claims.filter (fun c => c.tid != i),
    releases := tl.releases.filter (fun c => c.tid != i) }

/-- A queued wait at a gate cancelled (R300). -/
def gateCancelOf (s : State) (i : Tid) : State :=
  match (thr s i).wait? with
  | some (.gate _ g _ token _) => if token = 0 then s else send s i g (.gateCancel g token)
  | _ => s

/-- A waiting thread leaves the queue of the cue it waits for. -/
def leaveCues (s : State) (i : Tid) : State :=
  match (thr s i).wait? with
  | some (.cue c) => cueLeave s c i
  | some (.cueTimed c _ _) => cueLeave s c i
  | _ => s

/-- What a thread holds released (R261: streams, claims, handles and gate waits, mailbox). -/
def releaseAll (s : State) (i : Tid) : State :=
  let s := leaveCues (gateCancelOf (streamsEnd s i) i) i
  let s := { s with fwds := s.fwds.filter (fun q => q.client != tidClient i) }
  updTile s (thr s i).home fun tl => claimsEnd tl i

/-- Whether no other thread of the launch lives on the tile (R240). -/
def lastOfLaunch (s : State) (i : Tid) : Bool :=
  let l := (thr s i).launch
  (tile s i.tile).threads.all (fun e =>
    e.1 == i.slot || e.2.launch != l || !e.2.live || e.2.ended || e.2.shadow)

/-- Publication and a cleared view when the last thread of a launch on a tile ends (R240); `false` while
units wait for a remote or held page. -/
def launchFlush (s : State) (i : Tid) : State × Bool :=
  if lastOfLaunch s i then
    let (s, done) := publishTile s i.tile
    (if done then clearView s i.tile else s, done)
  else (s, true)

/-- The launch without a thread, and without its reservation on the home tile after the last
(R292). -/
def launchLeave (s : State) (i : Tid) : State :=
  let home := (thr s i).home
  let l := (thr s i).launch
  { s with launches := s.launches.map fun x =>
      if x.id != l then x
      else
        let rest := x.threads.filter (· != i)
        { x with threads := rest,
                 reserve := if rest.any (fun t => (thr s t).home == home) then x.reserve
                   else x.reserve.filter (fun r => r.1 != home) } }

/-- What remains of an undetached thread until its join (R261). -/
def exitedThread (th : Thread) (v : Word) : Thread :=
  { Thread.none with st := .waiting .exited 0, exitVal := v, home := th.home,
                     homeSlot := th.homeSlot, troupe := th.troupe, asid := th.asid,
                     priv := th.priv, prio := th.prio }

/-- What remains of a parked thread (R251, R313). -/
def parkedThread (th : Thread) : Thread :=
  { Thread.none with st := .parked, home := th.home, homeSlot := th.homeSlot, troupe := th.troupe,
                     asid := th.asid, priv := th.priv, detached := th.detached }

/-- The thread that waits to join `i`, with its register. -/
def joinerOf (s : State) (i : Tid) : Option (Tid × Nat) :=
  (allThreads s).findSome? fun e => match e.2.wait? with
    | some (.join rd t) => if t == i && !e.2.shadow then some (e.1, rd) else none
    | _ => none

/-- References to an ended thread, by the identifier it had before it moved too (R330). -/
def forget (s : State) (i : Tid) : State :=
  renameTid s (fun t =>
    if t == i || (departed s t && (followTid 16 s t).2 == i) then deadTid else t)

/-- The slot of an ended thread becomes free, or keeps its exit value for a join (R261); its understudy
ends with it. -/
def endSlot (s : State) (i : Tid) (v : Word) : State :=
  let th := thr s i
  let s := launchLeave s i
  let s := if th.leader then setThr s ⟨i.tile, th.partner⟩ Thread.none else s
  let s := match joinerOf s i with
    | some (j, rd) => complete (setThr s i Thread.none) j (fun t => setX t rd v)
    | none => setThr s i (if th.detached then Thread.none else exitedThread th v)
  retryTile (forget s i) i.tile

/-- A thread ends with an exit value (R261): its slot is kept until its tile has published for its launch
(R240). -/
def endThread (s : State) (i : Tid) (v : Word) : State :=
  match launchFlush (releaseAll s i) i with
  | (s, true) => endSlot s i v
  | (s, false) =>
    withShadow s i fun s j => updThr s j fun th => { th with st := .waiting (.ending v) 0, lvq := [] }

/-- An ended thread whose tile could not publish for its launch: the publication again (R240). -/
def endAgain (s : State) (i : Tid) : State :=
  match (thr s i).wait? with
  | some (.ending v) =>
    match launchFlush s i with
    | (s, true) => endSlot s i v
    | (s, false) => s
  | _ => s

/-- The value a join of a parked thread returns (R261). -/
def parkedValue : Word := 0xFFFF_FFFF_FFFF_FFFE

/-- Registers of a window set to zero (R250). -/
def zeroWindow (tl : Tile) (base size : Nat) : Tile :=
  let own := fun (k : Nat) => decide (base ≤ k) && decide (k < base + size)
  { tl with vfile := tl.vfile.filter (fun e => !own e.1),
            vMarks := tl.vMarks.keep (fun w => !own (w / 64)) }

/-- A thread that consumes an uncorrectable error is parked with its understudy, its window zeroed
and a PARKED event raised (R313, R314). -/
def parkThread (s : State) (i : Tid) (src : Nat) : State :=
  let th := thr s i
  let (s, done) := launchFlush (releaseAll s i) i
  let s := launchLeave (updTile s i.tile fun tl => { tl with flushDue := tl.flushDue || !done }) i
  let wipe := fun (s : State) (j : Tid) =>
    let w := thr s j
    setThr (updTile s j.tile fun tl => zeroWindow tl w.vwBase w.vwSize) j (parkedThread w)
  let s := wipe s i
  let s := if th.leader then wipe s ⟨i.tile, th.partner⟩ else s
  let s := match joinerOf s i with
    | some (j, rd) => complete s j (fun t => setX t rd parkedValue)
    | none => s
  raiseSup (retryTile (forget s i) i.tile) i.tile th.troupe 0x02
    (i.slot * 2 ^ 32 + src * 256 + 0x0D)

/-! ### Creation (R258, R259) -/

/-- A spawn descriptor (R258). -/
structure Desc where
  pc : Word
  arg : Word
  sp : Word
  tp : Word
  prio : Nat
  troupe : Nat
  priv : Nat
  und : Bool
  mobile : Bool
  det : Bool
  vwsz : Nat
  seed : Nat
  aspace : Nat
  deriving DecidableEq, Repr

/-- The descriptor in 64 bytes read as a number; none when it is malformed (R258). -/
def parseDesc (n : Nat) : Option Desc :=
  let d := fun i => n / 2 ^ (64 * i) % 2 ^ 64
  let a := d 4
  if a / 2 ^ 51 != 0 || field a 38 37 != 0 || d 5 / 4096 != 0 || d 6 != 0 || d 7 != 0
      || field a 43 42 = 3 || field a 36 32 > 24 || d 0 / 2 ^ 52 != 0 || d 0 % 4 != 0 then none
  else
    some { pc := w64 (d 0), arg := w64 (d 1), sp := w64 (d 2), tp := w64 (d 3),
           prio := field a 50 48, troupe := field a 47 44, priv := field a 43 42,
           und := bitOf a 41, mobile := bitOf a 40, det := bitOf a 39, vwsz := field a 36 32,
           seed := a % 2 ^ 32, aspace := d 5 % 4096 }

/-- Slots of a troupe that count (R251, R257). -/
def usedSlots (tl : Tile) (troupe : Nat) : Nat :=
  (tl.threads.filter (fun e => e.2.counts && e.2.troupe == troupe)).length

/-- Slots of a tile that displaced contexts, parked ones among them, left and keep (R274). -/
def reservedSlots (s : State) (t : Nat) : List Nat :=
  ((allThreads s).filter (fun e => !e.2.absent && displaced e.1 e.2 && e.2.home == t)).map
    (·.2.homeSlot)

/-- Slots of a tile in its register mode (R250). -/
def slotCount (tl : Tile) : Nat := if tl.wide then 256 else 512

/-- The lowest `n` slots from `k` that are not taken. -/
def pickSlots (taken : List Nat) : Nat → Nat → Nat → List Nat
  | 0, _, _ => []
  | _, _, 0 => []
  | fuel + 1, k, n + 1 =>
    if taken.contains k then pickSlots taken fuel (k + 1) (n + 1)
    else k :: pickSlots taken fuel (k + 1) n

/-- The lowest `n` free slots of a tile (R259). -/
def freeSlots (s : State) (t n : Nat) : List Nat :=
  let tl := tile s t
  let taken := (tl.threads.filter (fun e => e.2.st != .free)).map (·.1) ++ reservedSlots s t
  pickSlots taken (slotCount tl) 0 n

/-- Windows in use on a tile: base and size. -/
def windowsOf (tl : Tile) : List (Nat × Nat) :=
  (tl.threads.filter (fun e => e.2.vwSize != 0)).map (fun e => (e.2.vwBase, e.2.vwSize))

/-- The lowest base at which `n` registers are free (R259). -/
def pickBase (used : List (Nat × Nat)) (n : Nat) : Option Nat :=
  if n = 0 then some 0
  else (List.range (257 - n)).find? (fun b =>
    used.all (fun w => decide (b + n ≤ w.1) || decide (w.1 + w.2 ≤ b)))

/-- The values a created thread takes (R250, R258). -/
structure NewThread where
  d : Desc
  x4 : Word
  regs : SMap XReg
  asid : BitVec 16
  launch : Nat
  units : List Nat
  placed : Bool
  deriving DecidableEq, Repr

/-- The context of a new thread (R250). -/
def newContext (now : Nat) (t slot base : Nat) (n : NewThread) : Thread :=
  let th : Thread :=
    { Thread.none with
      st := if n.placed then .waiting .placed 0 else .ready, pc := n.d.pc, vwBase := base,
      vwSize := n.d.vwsz, lfsr := if n.d.seed = 0 then 1 else BitVec.ofNat 32 n.d.seed,
      asid := n.asid, troupe := n.d.troupe, prio := n.d.prio, priv := n.d.priv, home := t,
      homeSlot := slot, mobile := n.d.mobile, detached := n.d.det, readySince := now,
      launch := n.launch, units := n.units }
  let th := setX (setX (setX th 2 n.d.sp) 3 n.d.tp) 4 n.x4
  n.regs.foldl (fun th e => setX th e.1 e.2.v) th

/-- The creation of R259, all or nothing: the thread's place, and its understudy beside it. -/
def createThread (s : State) (t : Nat) (quota : Bool) (n : NewThread) : Option (Tid × State) :=
  let tl := tile s t
  let need := if n.d.und then 2 else 1
  let tr := smGet Troupe.zero tl.troupes n.d.troupe
  let slots := freeSlots s t need
  if quota && tr.quota < usedSlots tl n.d.troupe + need then none
  else
    match slots, pickBase (windowsOf tl) n.d.vwsz with
    | [k], some b =>
      if n.d.und then none
      else
        let th := newContext s.cycle t k b n
        some (⟨t, k⟩, setThr (updTile s t fun tl => zeroWindow tl b n.d.vwsz) ⟨t, k⟩ th)
    | [k, k'], some b =>
      match pickBase (windowsOf tl ++ [(b, n.d.vwsz)]) n.d.vwsz with
      | none => none
      | some b' =>
        let s := updTile s t fun tl => zeroWindow (zeroWindow tl b n.d.vwsz) b' n.d.vwsz
        let lead := { newContext s.cycle t k b n with leader := true, partner := k' }
        let und := { newContext s.cycle t k' b' n with shadow := true, partner := k }
        some (⟨t, k⟩, setThr (setThr s ⟨t, k⟩ lead) ⟨t, k'⟩ und)
    | _, _ => none

end Sys2Proof.Machine
end

