-- ==== Sys2Proof/Machine/Operands.lean ====
section
/-! DEFINITION. Operands of thread instructions: the decode checks of R57, fixed-latency results
(R44, R45), and `run`, which every instruction's meaning goes through: checks, body, and how the
issue ends; a leader's issue is run for its understudy too and compared (R316 to R319). -/

namespace Sys2Proof.Machine

/-! ### Fixed-latency results -/

/-- A thread whose last flags are due by a cycle (R157). -/
def flagsBy (c : Nat) (th : Thread) : Thread := { th with flagsDue := max th.flagsDue c }

/-- A scalar result of latency `lat` written with a residue: at once when the stall count covers
it, else pending (R44, R45). -/
def putXR (stl : BitVec 3) (lat : Nat) (fp : Bool) (rd : BitVec 5) (v : Word) (r : BitVec 4)
    (s : State) : State :=
  updThr s s.cur fun th =>
    let th := if fp then flagsBy (s.cycle + lat) th else th
    if rd = 0 then th
    else if lat ≤ 16 * (stl.toNat + 1) then
      { setXR th rd.toNat v r with
        pend := th.pend.filter (fun p => !(p.reg == rd.toNat && p.due ≤ s.cycle + lat)) }
    else
      let p : Pending := { reg := rd.toNat, val := v.setWidth 4096, res := r,
                           due := s.cycle + lat, fp := fp }
      { th with pend := pendInsert p th.pend }

/-- A scalar result of latency `lat` with the residue of its value. -/
def putX (stl : BitVec 3) (lat : Nat) (rd : BitVec 5) (v : Word) (s : State) : State :=
  putXR stl lat false rd v (residue v) s

/-- A vector result of latency `lat` for window register `f`. -/
def putV (stl : BitVec 3) (lat : Nat) (f : Nat) (v : VWord) (s : State) : State :=
  let th := thr s s.cur
  let ph := th.vwBase + f
  if lat ≤ 16 * (stl.toNat + 1) then
    let s := updTile s s.cur.tile fun t =>
      { t with vfile := smSet t.vfile ph v, vMarks := t.vMarks.keep (fun w => w / 64 != ph) }
    updThr s s.cur fun th =>
      { flagsBy (s.cycle + lat) th with
        pend := th.pend.filter (fun p => !(p.reg == 32 + ph && p.due ≤ s.cycle + lat)) }
  else
    let p : Pending := { reg := 32 + ph, val := v, res := 0, due := s.cycle + lat, fp := true }
    updThr s s.cur fun th => { flagsBy (s.cycle + lat) th with pend := pendInsert p th.pend }

/-- The thread that issues. -/
def me (s : State) : Thread := thr s s.cur

/-- The value of a scalar register of the issuing thread. -/
def rx (s : State) (n : BitVec 5) : Word := getX (me s) n.toNat

/-- The stored residue of a scalar register of the issuing thread. -/
def rr (s : State) (n : BitVec 5) : BitVec 4 := (getXR (me s) n.toNat).r

/-- The issuing thread's context changed. -/
def updMe (s : State) (f : Thread → Thread) : State := updThr s s.cur f

/-- The address of the word that issues: a REP body stands at pc + 4 (R55). -/
def wordPc (th : Thread) : Word := if th.repBody.isSome then th.pc + 4 else th.pc

/-! ### An issue -/

/-- What an instruction's body leaves. -/
inductive Ret where
  /-- It completes, and the next instruction follows. -/
  | go (s : State)
  /-- It completes, and the instruction at this pc follows. -/
  | goto (pc : Word) (s : State)
  /-- It deschedules its thread; what it waits for completes it. -/
  | sleep (w : Wait) (s : State)
  /-- It traps. -/
  | trap (c : Cause) (v : Word) (s : State)
  /-- It takes uncorrectable data as a value; its thread is parked with this source (R313). -/
  | park (src : Nat) (s : State)
  /-- The state is left as it is. -/
  | stay (s : State)

/-- The state a body leaves. -/
def Ret.state : Ret → State
  | .go s => s
  | .goto _ s => s
  | .sleep _ s => s
  | .trap _ _ s => s
  | .park _ s => s
  | .stay s => s

/-- An operation on the home tile that answers at once, with `f` writing its result: a displaced
thread waits for the reply (R144, R263). -/
def homeReply (rd : BitVec 5) (v : Word) (f : State → State) (s : State) : Ret :=
  if displaced s.cur (me s) then
    .sleep (.value rd.toNat) (send s s.cur 0 (.reply v.toNat none none))
  else .go (f s)

/-- An operation on the home tile without a result: a displaced thread waits for the reply. -/
def homeDone (s : State) : Ret :=
  if displaced s.cur (me s) then .sleep .done (send s s.cur 0 (.reply 0 none none)) else .go s

/-- Where a leader's copy of an instruction meets its understudy's (R317, R318). -/
inductive PairAt where
  /-- Both copies run at the understudy's issue, and are compared. -/
  | both
  /-- A value from outside is taken at the leader's issue, for this register (0-31 scalar, 32 + vector
  field). -/
  | takes (rd : Option Nat)
  deriving DecidableEq, Repr

/-- What the decode checks of R57 and the residue check of R150 look at: whether every field value
is assigned, the least privilege, the scalar and vector register fields, the registers checked by
residue with their roles of R308, the kind of REDUNDANCY a disagreement has (0: an access), the
vector registers that hold addresses, and how an understudy follows, whose FRM is its own. -/
structure Chk where
  ok : Bool := true
  priv : Nat := 0
  xs : List (BitVec 5) := []
  vs : List (BitVec 5) := []
  res : List (BitVec 5 × Nat) := []
  kind : Nat := 5
  va : List (BitVec 5) := []
  /-- Where `ok` holds only with an assigned FRM.RMODE (R169): whether the fields are assigned. -/
  form : Option Bool := none
  /-- Whether an understudy takes the INSTRET that its leader reads (R155). -/
  instret : Bool := false
  pair : PairAt := .both

/-- Whether a pending result of a named register is not ready (R45). -/
def notReady (s : State) (c : Chk) : Bool :=
  let th := me s
  th.pend.any fun p => decide (s.cycle < p.due) &&
    (c.xs.any (fun x => x != 0 && x.toNat == p.reg)
      || c.vs.any (fun v => decide (v.toNat < 24) && 32 + th.vwBase + v.toNat == p.reg))

/-- The first register whose stored residue mismatches (R150). -/
def residueBad (th : Thread) (l : List (BitVec 5 × Nat)) : Option (BitVec 5 × Nat) :=
  l.find? (fun e => (getXR th e.1.toNat).r != residue (getXR th e.1.toNat).v)

/-- The word that TVAL holds for a trap at decode: a REP body as fetched (R194), else the word that
issues (R308). -/
def trapWord (s : State) : Word :=
  match (me s).repBody with
  | some (w, _) => w.setWidth 64
  | none => s.ir.setWidth 64

/-- The checks of R57 in order, then R150, then the body. -/
def judge (c : Chk) (body : State → Ret) (s : State) : Ret :=
  let th := me s
  let w := trapWord s
  if !c.ok then .trap .illegal w s
  else if th.priv < c.priv then .trap .priv w s
  else if !(tile s s.cur.tile).wide && c.xs.any (fun x => 16 ≤ x.toNat) then .trap .reg w s
  else if c.vs.any (fun v => decide (v.toNat < 24) && decide (th.vwSize ≤ v.toNat)) then
    .trap .vwin w s
  else if th.chkstl && notReady s c then .trap .stallShort w s
  else
    match residueBad th c.res with
    | some (x, role) => .trap .residue (w64 (x.toNat + 32 * role)) s
    | none => body s

/-- The cycle before which the next instruction does not issue (R44): of a word that issues again, that
of its first issue, unless what it waited for has come later (R46). -/
def nextIssue (s : State) (stl : BitVec 3) : Nat :=
  match (me s).again with
  | none => s.cycle + 16 * (stl.toNat + 1)
  | some from_ => max from_ s.cycle

/-- The cycle of R44 that a word leaves when it deschedules its thread: one that has still to issue sets
none (R113). -/
def sleepTo (s : State) (stl : BitVec 3) : Wait → Nat
  | .stream => s.cycle
  | _ => nextIssue s stl

/-- How an issue ends: the context after the instruction (R44, R46, R154, R251). -/
def settle (stl : BitVec 3) : Ret → State
  | .go s => updThr s s.cur fun th => { advance th with st := .issued (nextIssue s stl) }
  | .goto pc s => updThr s s.cur fun th =>
      { th with pc := pc, instret := th.instret + 1, again := none,
                st := .issued (nextIssue s stl) }
  | .sleep w s => updThr s s.cur fun th =>
      { th with st := .waiting w (sleepTo s stl w), again := none }
  | .trap c v s => trapThread s s.cur c v
  | .park src s => parkThread s s.cur src
  | .stay s => s

/-- The context of `own` with everything that a leader and its understudy keep apart taken from
`from_` (R316): registers, window, engine registers, thread CSRs, pc and privilege. -/
def ctxFrom (from_ own : Thread) : Thread :=
  { own with
    pc := from_.pc, x := from_.x, vwBase := from_.vwBase, vwSize := from_.vwSize, e := from_.e,
    fflags := from_.fflags, frm := from_.frm, lfsr := from_.lfsr, instret := from_.instret,
    repidx := from_.repidx, repBody := from_.repBody, cuemap := from_.cuemap, asid := from_.asid,
    pfcause := from_.pfcause, clamped := from_.clamped, chkstl := from_.chkstl, inh := from_.inh,
    ppriv := from_.ppriv, tcause := from_.tcause, tval := from_.tval, tpc := from_.tpc,
    priv := from_.priv, pend := from_.pend, flagsDue := from_.flagsDue, again := from_.again }

/-! ### A leader and its understudy (R316 to R319) -/

/-- Entries of the load-value queue (R317). -/
def lvqSize : Nat := 32

/-- The understudy of the thread that issues. -/
def shadowOf (s : State) : Tid := ⟨s.cur.tile, (me s).partner⟩

/-- A state without what the pair keeps in its own registers and windows, for the comparison of
R318. -/
def outside (s : State) (i j : Tid) : State :=
  let own := fun (th : Thread) (k : Nat) => th.vwBase ≤ k && k < th.vwBase + th.vwSize
  let s := updTile s i.tile fun t =>
    { t with vfile := t.vfile.filter (fun e => !(own (thr s i) e.1 || own (thr s j) e.1)),
             vMarks := t.vMarks.keep (fun w => !(own (thr s i) (w / 64) || own (thr s j) (w / 64))) }
  updThr s i (ctxFrom Thread.none)

/-- Whether an outcome goes on to another instruction of the thread. -/
def Ret.goesOn : Ret → Bool
  | .go _ => true
  | .goto .. => true
  | .stay _ => true
  | _ => false

/-- Whether two copies of an instruction produce the same action (R318). -/
def sameAction (i j : Tid) (a b : Ret) : Bool :=
  (match a, b with
    | .sleep w _, .sleep v _ => w == v
    | a, b => a.goesOn && b.goesOn)
  && outside a.state i j == outside b.state i j

/-- The kind of mismatch of R319: of an access, 1 where an address operand differs and 2 otherwise. -/
def mismatchKind (s : State) (c : Chk) (j : Tid) : Nat :=
  let tl := tile s s.cur.tile
  let vreg := fun (th : Thread) (v : BitVec 5) => smGet 0 tl.vfile (th.vwBase + v.toNat)
  if c.kind = 0 then
    if c.res.any (fun e => e.2 < 2 && getX (me s) e.1.toNat != getX (thr s j) e.1.toNat)
        || c.va.any (fun v => decide (v.toNat < 24) && vreg (me s) v != vreg (thr s j) v) then 1
    else 2
  else c.kind

/-- Both threads trap REDUNDANCY with the kind in TVAL and the instruction at `pc` in TPC, and enter
the handler together (R319). -/
def redundancy (s : State) (i j : Tid) (pc : Word) (k : Nat) : State :=
  let s := leaveCues s i
  let at_ := fun s j => updThr s j fun th => { th with pc := pc }
  let s := trapThread (at_ s i) i .redundancy (w64 k)
  trapThread (at_ s j) j .redundancy (w64 k)

/-- Both copies raise the same trap; the understudy enters its handler one rotation later (R319). -/
def trapAlike (s : State) (i j : Tid) (c : Cause) (v v' : Word) : State :=
  updThr (trapThread (trapThread s i c v) j c v') j enterLater

/-- A context whose pending results and issue are `d` cycles later. -/
def Thread.later (d : Nat) (th : Thread) : Thread :=
  { th with
    pend := th.pend.map fun p => { p with due := p.due + d }, flagsDue := th.flagsDue + d,
    again := th.again.map (· + d) }

/-- A context whose pending results and issue are `d` cycles earlier. -/
def Thread.earlier (d : Nat) (th : Thread) : Thread :=
  { th with
    pend := th.pend.map fun p => { p with due := p.due - d }, flagsDue := th.flagsDue - d,
    st := match th.st with
      | .issued u => .issued (u - d)
      | .waiting w n => .waiting w (n - d)
      | st => st }

/-- The understudy's context after its copy of the instruction, with its window's registers; the
leader's own times count from its own issue. -/
def mergeShadow (s1 s2 : State) (i j : Tid) : State :=
  let th := thr s1 i
  if !th.leader then s1
  else
    let u := thr s2 i
    let own := fun (k : Nat) => decide (u.vwBase ≤ k) && decide (k < u.vwBase + u.vwSize)
    let t2 := tile s2 i.tile
    let s := updTile s1 i.tile fun t =>
      { t with vfile := (t2.vfile.filter (fun e => own e.1)).foldl (fun m e => smSet m e.1 e.2) t.vfile,
               vMarks := (t.vMarks.keep (fun w => !own (w / 64))).join (t2.vMarks.keep (fun w => own (w / 64))) }
    setThr (updThr s j fun o => { ctxFrom u o with st := u.st }) i (th.earlier 16)

/-- The result that a value from outside leaves in the issuing thread's register (R317). -/
def putTaken (v : Option Pending) (s : State) : State :=
  match v with
  | none => s
  | some p =>
    let th := me s
    let reg := if p.reg < 32 then p.reg else 32 + th.vwBase + (p.reg - 32)
    if p.due = 0 then
      setTile s s.cur.tile (landOne (tile s s.cur.tile) s.cur.slot { p with reg := reg })
    else updMe s fun th => { th with pend := pendInsert { p with reg := reg, due := s.cycle + p.due } th.pend }

/-- The value that the issuing thread's register holds or will hold. -/
def takenFrom (s : State) (rd : Nat) : Pending :=
  let th := me s
  let reg := if rd < 32 then rd else 32 + th.vwBase + (rd - 32)
  match (th.pend.filter (fun p => p.reg == reg)).getLast? with
  | some p => { p with reg := rd, due := p.due - s.cycle }
  | none =>
    if rd < 32 then
      let x := getXR th rd
      { reg := rd, val := x.v.setWidth 4096, res := x.r, due := 0, fp := false }
    else
      { reg := rd, val := smGet 0 (tile s s.cur.tile).vfile (reg - 32), res := 0, due := 0, fp := true }

/-- The state with an entry in the issuing leader's queue; it stays issued until its understudy's
copy. -/
def leaderPush (out : LvOut) (s : State) : State :=
  let e : LvEntry := { due := s.cycle + 16, pc := (me s).pc, ir := s.ir, out := out }
  updMe s fun th =>
    { th with lvq := th.lvq ++ [e],
              st := match out with
                | .slept _ => th.st
                | _ => .issued (s.cycle + 16) }

/-- The state after a value has been taken from outside, with the leader's own registers and window
as they were: they take the value with the understudy's (R317). -/
def leaderUndo (old s : State) : State :=
  let th := me old
  let own := fun (k : Nat) => decide (th.vwBase ≤ k) && decide (k < th.vwBase + th.vwSize)
  let t0 := tile old old.cur.tile
  let s := updTile s s.cur.tile fun t =>
    { t with vfile := (t0.vfile.filter (fun e => own e.1)).foldl (fun m e => smSet m e.1 e.2)
               (t.vfile.filter (fun e => !own e.1)),
             vMarks := (t.vMarks.keep (fun w => !own (w / 64))).join (t0.vMarks.keep (fun w => own (w / 64))) }
  updMe s (ctxFrom th)

/-- A leader's issue (R317, R318): an instruction that takes a value from outside takes it now, into
the load-value queue; any other waits in the store comparator for the understudy's copy. -/
def leaderIssue (stl : BitVec 3) (c : Chk) (body : State → Ret) (s : State) : State :=
  match c.pair with
  | .both => leaderPush .held s
  | .takes rd =>
    match judge c body s with
    | .go s1 => leaderPush (.took (rd.map (takenFrom s1))) (leaderUndo s s1)
    | .trap c v s1 => leaderPush (.trapped c v) s1
    | .sleep w s1 => leaderPush (.slept rd) (settle stl (.sleep w s1))
    | r => settle stl r

/-- The two copies compared, and what they agree on done once (R318, R319). -/
def pairEnd (stl : BitVec 3) (c : Chk) (s : State) (pc : Word) (r1 r2 : Ret) : State :=
  let i := s.cur
  let j := shadowOf s
  match r1, r2 with
  | .park src s1, _ => parkThread s1 i src
  | _, .park src s2 => parkThread { s with hbm := s2.hbm } i src
  | .trap c1 v1 s1, .trap c2 v2 _ =>
    if c1 = c2 then trapAlike s1 i j c1 v1 v2 else redundancy s i j pc 4
  | .trap .., _ => redundancy s i j pc 4
  | _, .trap .. => redundancy s i j pc 4
  | r1, r2 =>
    if sameAction i j r1 r2 then mergeShadow (settle stl r1) (settle stl r2) i j
    else redundancy s i j pc (mismatchKind s c j)

/-- The issuing leader's queue without its oldest entry, which its understudy has freed (R317). -/
def leaderPop (s : State) : State := updMe s fun th => { th with lvq := th.lvq.tail }

/-- The entry kept for the first repetition of a REP that both copies have taken up, which follows
in the same issue, or for a fetch that waits. -/
def leaderKeep (e : LvEntry) (s : State) : State :=
  updMe s fun th => match th.st with
    | .trapped _ => th
    | _ => if th.leader then { th with lvq := e :: th.lvq, st := .ready } else th

/-- The checks of a word for an understudy, which has its own FRM (R155, R169). -/
def Chk.forShadow (c : Chk) (u : Thread) : Chk :=
  match c.form with
  | some b => { c with ok := b && (rmodeOf (u.frm.toNat % 8)).isSome }
  | none => c

/-- The understudy's copy on its own context in the leader's place, beside the leader's outcome `r1`
(R317): a value from outside comes from the queue, and so does what became of the access. -/
def shadowRun (c : Chk) (body : State → Ret) (s : State) (r1 : Ret) : Ret :=
  let u := thr s (shadowOf s)
  let u := if c.instret then { u with instret := (me s).instret } else u
  let und := fun s => updMe s (ctxFrom u)
  let c := c.forShadow u
  match c.pair with
  | .both => judge c body (und s)
  | .takes rd =>
    judge c (fun _ => match r1 with
      | .go s1 => .go (putTaken (rd.map (takenFrom s1)) (und s1))
      | .sleep w s1 => .sleep w (und s1)
      | r => r) (und s)

/-- The understudy's copy of a word whose value its leader waits for, or has had since (R317). -/
def shadowSlept (c : Chk) (s : State) (pc : Word) (rd : Option Nat) : State :=
  let i := s.cur
  let j := shadowOf s
  match judge c (fun s => .go s) (updMe s (ctxFrom (thr s j))) with
  | .go s2 =>
    match (thr s i).st with
    | .waiting w n => updThr s j fun u => { u with st := .waiting w (n + 16) }
    | _ =>
      let t := mergeShadow s (putTaken (rd.map (takenFrom s)) s2) i j
      updThr (setThr t i (thr s i)) j fun u => { advance u with st := .issued s.cycle }
  | .park src _ => parkThread s i src
  | _ => redundancy s i j pc 4

/-- The understudy's copy of the oldest instruction in its leader's queue (R316 to R319). -/
def runPair (stl : BitVec 3) (c : Chk) (body : State → Ret) (e : LvEntry) (s0 : State) : State :=
  let s := leaderPop (landUpTo s0 (shadowOf s0) s0.cycle)
  let lead := updMe s (Thread.later 16)
  match e.out with
  | .held =>
    let r1 := judge c body lead
    let t := pairEnd stl c s e.pc r1 (shadowRun c body s r1)
    match r1 with
    | .stay _ => leaderKeep e t
    | _ => t
  | .took v =>
    let r1 := .go (putTaken v lead)
    pairEnd stl c s e.pc r1 (shadowRun { c with pair := .takes (v.map (·.reg)) } body s r1)
  | .trapped c1 v1 =>
    let r1 := .trap c1 v1 s
    pairEnd stl c s e.pc r1 (shadowRun { c with pair := .takes none } body s r1)
  | .slept rd => shadowSlept c s e.pc rd

/-- The issue of one instruction by the current thread; of a leader whose understudy's issue it is,
the understudy's copy. -/
def runState (stl : BitVec 3) (c : Chk) (body : State → Ret) (s : State) : State :=
  let s' := landUpTo s s.cur s.cycle
  if (me s').leader then
    match (me s).lvq with
    | e :: _ => if e.due ≤ s.cycle then runPair stl c body e s else leaderIssue stl c body s'
    | [] => leaderIssue stl c body s'
  else settle stl (judge c body s')

/-- The meaning of an instruction word: its issue, which always gives a next state. -/
def run (stl : BitVec 3) (c : Chk) (body : State → Ret) (s : State) :
    Host.Outcome State Fault Refusal :=
  .next (runState stl c body s)

end Sys2Proof.Machine
end

