-- ==== Sys2Proof/Machine/Alu.lean ====
section
/-! DEFINITION. The integer instructions: ALU (R158), immediates (R159, R160), multiplication and
division (R161). -/

namespace Sys2Proof.Machine

/-! ### Results (R158, R159, R161) -/

/-- 1 when a condition holds, else 0. -/
def oneIf (c : Bool) : Word := if c then 1 else 0

/-- Leading zero bits among the low `n` bits. -/
def leadZeros (v : Nat) : Nat → Nat
  | 0 => 0
  | n + 1 => if bitOf v n then 0 else 1 + leadZeros v n

/-- Trailing zero bits among `n` bits. -/
def trailZeros : Nat → Nat → Nat
  | 0, _ => 0
  | n + 1, v => if v % 2 = 1 then 0 else 1 + trailZeros n (v / 2)

/-- 1 bits among the low `n` bits. -/
def onesCount : Nat → Nat → Nat
  | 0, _ => 0
  | n + 1, v => v % 2 + onesCount n (v / 2)

/-- The bytes in reverse order. -/
def byteSwap (a : Word) : Word := w64 (bytesNat (natBytes 8 a.toNat).reverse)

/-- The immediate of 13 bits (R39). -/
def imm64 (i : BitVec 13) : Word := i.signExtend 64

/-- The value of lui (R160). -/
def luiVal (i : BitVec 18) : Word := i.signExtend 64 <<< 13

/-- A truncated signed quotient, saturating (R161). -/
def divS (a b : Word) : Word :=
  if b = 0 then (if a.msb then BitVec.ofInt 64 (-2 ^ 63) else BitVec.ofInt 64 (2 ^ 63 - 1))
  else BitVec.ofInt 64 (min (Int.tdiv a.toInt b.toInt) (2 ^ 63 - 1))

/-- An unsigned quotient, saturating (R161). -/
def divU (a b : Word) : Word := if b = 0 then BitVec.allOnes 64 else w64 (a.toNat / b.toNat)

/-- A signed remainder (R161). -/
def remS (a b : Word) : Word := if b = 0 then a else BitVec.ofInt 64 (Int.tmod a.toInt b.toInt)

/-- An unsigned remainder (R161). -/
def remU (a b : Word) : Word := if b = 0 then a else w64 (a.toNat % b.toNat)

/-- The high 64 bits of an exact product. -/
def highOf (p : Int) : Word := BitVec.ofInt 64 (p / (2 ^ 64 : Nat))

/-! ### Predicted residues (R149) -/

/-- The predicted residue of a sum with a carry. -/
def resAdd (a b : Word) (ra rb : BitVec 4) : BitVec 4 :=
  BitVec.ofNat 4 ((ra.toNat + rb.toNat + 15 - (a.toNat + b.toNat) / 2 ^ 64) % 15)

/-- The predicted residue of a difference with a borrow. -/
def resSub (a b : Word) (ra rb : BitVec 4) : BitVec 4 :=
  BitVec.ofNat 4 ((ra.toNat + 15 - rb.toNat + (if a.toNat < b.toNat then 1 else 0)) % 15)

/-- The predicted residue of a product with its high half. -/
def resMul (a b : Word) (ra rb : BitVec 4) : BitVec 4 :=
  BitVec.ofNat 4 ((ra.toNat * rb.toNat + 15 - a.toNat * b.toNat / 2 ^ 64 % 15) % 15)

/-! ### The shapes of the words -/

/-- Two registers in, one out, latency `lat`, residue generated. -/
def aluRR (lat : Nat) (f : Word → Word → Word) (stl : BitVec 3) (rd ra rb : BitVec 5) (s : State) :
    Host.Outcome State Fault Refusal :=
  run stl { xs := [rd, ra, rb] } (fun s => .go (putX stl lat rd (f (rx s ra) (rx s rb)) s)) s

/-- Two registers in, one out, with a predicted residue. -/
def aluRes (lat : Nat) (f : Word → Word → Word) (g : Word → Word → BitVec 4 → BitVec 4 → BitVec 4)
    (stl : BitVec 3) (rd ra rb : BitVec 5) (s : State) : Host.Outcome State Fault Refusal :=
  run stl { xs := [rd, ra, rb] }
    (fun s => .go (putXR stl lat false rd (f (rx s ra) (rx s rb))
      (g (rx s ra) (rx s rb) (rr s ra) (rr s rb)) s)) s

/-- One register in, one out. -/
def aluR (f : Word → Word) (stl : BitVec 3) (rd ra : BitVec 5) (s : State) :
    Host.Outcome State Fault Refusal :=
  run stl { xs := [rd, ra] } (fun s => .go (putX stl 4 rd (f (rx s ra)) s)) s

/-! ### ALU (R158) -/

/-- add (R158, R149). -/
def execAdd (stl : BitVec 3) (rd ra rb : BitVec 5) (s : State) : Host.Outcome State Fault Refusal :=
  aluRes 4 (· + ·) resAdd stl rd ra rb s

/-- sub (R158, R149). -/
def execSub (stl : BitVec 3) (rd ra rb : BitVec 5) (s : State) : Host.Outcome State Fault Refusal :=
  aluRes 4 (· - ·) resSub stl rd ra rb s

/-- and (R158). -/
def execAnd (stl : BitVec 3) (rd ra rb : BitVec 5) (s : State) : Host.Outcome State Fault Refusal :=
  aluRR 4 (fun a b => a &&& b) stl rd ra rb s

/-- or (R158). -/
def execOr (stl : BitVec 3) (rd ra rb : BitVec 5) (s : State) : Host.Outcome State Fault Refusal :=
  aluRR 4 (fun a b => a ||| b) stl rd ra rb s

/-- xor (R158). -/
def execXor (stl : BitVec 3) (rd ra rb : BitVec 5) (s : State) : Host.Outcome State Fault Refusal :=
  aluRR 4 (fun a b => a ^^^ b) stl rd ra rb s

/-- andn (R158). -/
def execAndn (stl : BitVec 3) (rd ra rb : BitVec 5) (s : State) : Host.Outcome State Fault Refusal :=
  aluRR 4 (fun a b => a &&& ~~~b) stl rd ra rb s

/-- orn (R158). -/
def execOrn (stl : BitVec 3) (rd ra rb : BitVec 5) (s : State) : Host.Outcome State Fault Refusal :=
  aluRR 4 (fun a b => a ||| ~~~b) stl rd ra rb s

/-- sll (R158). -/
def execSll (stl : BitVec 3) (rd ra rb : BitVec 5) (s : State) : Host.Outcome State Fault Refusal :=
  aluRR 4 (fun a b => a <<< (b.toNat % 64)) stl rd ra rb s

/-- srl (R158). -/
def execSrl (stl : BitVec 3) (rd ra rb : BitVec 5) (s : State) : Host.Outcome State Fault Refusal :=
  aluRR 4 (fun a b => a >>> (b.toNat % 64)) stl rd ra rb s

/-- sra (R158). -/
def execSra (stl : BitVec 3) (rd ra rb : BitVec 5) (s : State) : Host.Outcome State Fault Refusal :=
  aluRR 4 (fun a b => a.sshiftRight (b.toNat % 64)) stl rd ra rb s

/-- rol (R158). -/
def execRol (stl : BitVec 3) (rd ra rb : BitVec 5) (s : State) : Host.Outcome State Fault Refusal :=
  aluRR 4 (fun a b => a.rotateLeft (b.toNat % 64)) stl rd ra rb s

/-- ror (R158). -/
def execRor (stl : BitVec 3) (rd ra rb : BitVec 5) (s : State) : Host.Outcome State Fault Refusal :=
  aluRR 4 (fun a b => a.rotateRight (b.toNat % 64)) stl rd ra rb s

/-- slt (R158). -/
def execSlt (stl : BitVec 3) (rd ra rb : BitVec 5) (s : State) : Host.Outcome State Fault Refusal :=
  aluRR 4 (fun a b => oneIf (a.slt b)) stl rd ra rb s

/-- sltu (R158). -/
def execSltu (stl : BitVec 3) (rd ra rb : BitVec 5) (s : State) : Host.Outcome State Fault Refusal :=
  aluRR 4 (fun a b => oneIf (a.ult b)) stl rd ra rb s

/-- seq (R158). -/
def execSeq (stl : BitVec 3) (rd ra rb : BitVec 5) (s : State) : Host.Outcome State Fault Refusal :=
  aluRR 4 (fun a b => oneIf (a == b)) stl rd ra rb s

/-- sne (R158). -/
def execSne (stl : BitVec 3) (rd ra rb : BitVec 5) (s : State) : Host.Outcome State Fault Refusal :=
  aluRR 4 (fun a b => oneIf (a != b)) stl rd ra rb s

/-- min (R158). -/
def execMin (stl : BitVec 3) (rd ra rb : BitVec 5) (s : State) : Host.Outcome State Fault Refusal :=
  aluRR 4 (fun a b => if a.slt b then a else b) stl rd ra rb s

/-- max (R158). -/
def execMax (stl : BitVec 3) (rd ra rb : BitVec 5) (s : State) : Host.Outcome State Fault Refusal :=
  aluRR 4 (fun a b => if a.slt b then b else a) stl rd ra rb s

/-- minu (R158). -/
def execMinu (stl : BitVec 3) (rd ra rb : BitVec 5) (s : State) : Host.Outcome State Fault Refusal :=
  aluRR 4 (fun a b => if a.ult b then a else b) stl rd ra rb s

/-- maxu (R158). -/
def execMaxu (stl : BitVec 3) (rd ra rb : BitVec 5) (s : State) : Host.Outcome State Fault Refusal :=
  aluRR 4 (fun a b => if a.ult b then b else a) stl rd ra rb s

/-- clz (R158). -/
def execClz (stl : BitVec 3) (rd ra : BitVec 5) (s : State) : Host.Outcome State Fault Refusal :=
  aluR (fun a => w64 (leadZeros a.toNat 64)) stl rd ra s

/-- ctz (R158). -/
def execCtz (stl : BitVec 3) (rd ra : BitVec 5) (s : State) : Host.Outcome State Fault Refusal :=
  aluR (fun a => w64 (trailZeros 64 a.toNat)) stl rd ra s

/-- popc (R158). -/
def execPopc (stl : BitVec 3) (rd ra : BitVec 5) (s : State) : Host.Outcome State Fault Refusal :=
  aluR (fun a => w64 (onesCount 64 a.toNat)) stl rd ra s

/-- bswap (R158). -/
def execBswap (stl : BitVec 3) (rd ra : BitVec 5) (s : State) : Host.Outcome State Fault Refusal :=
  aluR (byteSwap) stl rd ra s

/-- sextb (R158). -/
def execSextb (stl : BitVec 3) (rd ra : BitVec 5) (s : State) : Host.Outcome State Fault Refusal :=
  aluR (fun a => (a.setWidth 8).signExtend 64) stl rd ra s

/-- sexth (R158). -/
def execSexth (stl : BitVec 3) (rd ra : BitVec 5) (s : State) : Host.Outcome State Fault Refusal :=
  aluR (fun a => (a.setWidth 16).signExtend 64) stl rd ra s

/-- sextw (R158). -/
def execSextw (stl : BitVec 3) (rd ra : BitVec 5) (s : State) : Host.Outcome State Fault Refusal :=
  aluR (fun a => (a.setWidth 32).signExtend 64) stl rd ra s

/-- zextw (R158). -/
def execZextw (stl : BitVec 3) (rd ra : BitVec 5) (s : State) : Host.Outcome State Fault Refusal :=
  aluR (fun a => (a.setWidth 32).setWidth 64) stl rd ra s

/-! ### Immediates (R159, R160) -/

/-- addi (R159, R149). -/
def execAddi (stl : BitVec 3) (rd ra : BitVec 5) (imm : BitVec 13) (s : State) :
    Host.Outcome State Fault Refusal :=
  run stl { xs := [rd, ra] }
    (fun s => .go (putXR stl 4 false rd (rx s ra + imm64 imm)
      (resAdd (rx s ra) (imm64 imm) (rr s ra) (residue (imm64 imm))) s)) s

/-- andi (R159). -/
def execAndi (stl : BitVec 3) (rd ra : BitVec 5) (imm : BitVec 13) (s : State) :
    Host.Outcome State Fault Refusal :=
  aluR (fun a => a &&& imm64 imm) stl rd ra s

/-- ori (R159). -/
def execOri (stl : BitVec 3) (rd ra : BitVec 5) (imm : BitVec 13) (s : State) :
    Host.Outcome State Fault Refusal :=
  aluR (fun a => a ||| imm64 imm) stl rd ra s

/-- xori (R159). -/
def execXori (stl : BitVec 3) (rd ra : BitVec 5) (imm : BitVec 13) (s : State) :
    Host.Outcome State Fault Refusal :=
  aluR (fun a => a ^^^ imm64 imm) stl rd ra s

/-- slti (R159). -/
def execSlti (stl : BitVec 3) (rd ra : BitVec 5) (imm : BitVec 13) (s : State) :
    Host.Outcome State Fault Refusal :=
  aluR (fun a => oneIf (a.slt (imm64 imm))) stl rd ra s

/-- sltiu (R159). -/
def execSltiu (stl : BitVec 3) (rd ra : BitVec 5) (imm : BitVec 13) (s : State) :
    Host.Outcome State Fault Refusal :=
  aluR (fun a => oneIf (a.ult (imm64 imm))) stl rd ra s

/-- slli (R159). -/
def execSlli (stl : BitVec 3) (rd ra : BitVec 5) (amt : BitVec 6) (s : State) :
    Host.Outcome State Fault Refusal :=
  aluR (fun a => a <<< amt.toNat) stl rd ra s

/-- srli (R159). -/
def execSrli (stl : BitVec 3) (rd ra : BitVec 5) (amt : BitVec 6) (s : State) :
    Host.Outcome State Fault Refusal :=
  aluR (fun a => a >>> amt.toNat) stl rd ra s

/-- srai (R159). -/
def execSrai (stl : BitVec 3) (rd ra : BitVec 5) (amt : BitVec 6) (s : State) :
    Host.Outcome State Fault Refusal :=
  aluR (fun a => a.sshiftRight amt.toNat) stl rd ra s

/-- rori (R159). -/
def execRori (stl : BitVec 3) (rd ra : BitVec 5) (amt : BitVec 6) (s : State) :
    Host.Outcome State Fault Refusal :=
  aluR (fun a => a.rotateRight amt.toNat) stl rd ra s

/-- lui (R160). -/
def execLui (stl : BitVec 3) (rd : BitVec 5) (imm : BitVec 18) (s : State) :
    Host.Outcome State Fault Refusal :=
  run stl { xs := [rd] } (fun s => .go (putX stl 4 rd (luiVal imm) s)) s

/-- auipc (R160): relative to the address of its own word. -/
def execAuipc (stl : BitVec 3) (rd : BitVec 5) (imm : BitVec 18) (s : State) :
    Host.Outcome State Fault Refusal :=
  run stl { xs := [rd] } (fun s => .go (putX stl 4 rd (wordPc (me s) + luiVal imm) s)) s

/-! ### Multiplication and division (R161) -/

/-- mul (R161, R149). -/
def execMul (stl : BitVec 3) (rd ra rb : BitVec 5) (s : State) : Host.Outcome State Fault Refusal :=
  aluRes 20 (· * ·) resMul stl rd ra rb s

/-- mulh (R161). -/
def execMulh (stl : BitVec 3) (rd ra rb : BitVec 5) (s : State) : Host.Outcome State Fault Refusal :=
  aluRR 20 (fun a b => highOf (a.toInt * b.toInt)) stl rd ra rb s

/-- mulhu (R161). -/
def execMulhu (stl : BitVec 3) (rd ra rb : BitVec 5) (s : State) : Host.Outcome State Fault Refusal :=
  aluRR 20 (fun a b => highOf ((a.toNat * b.toNat : Nat) : Int)) stl rd ra rb s

/-- mulhsu (R161). -/
def execMulhsu (stl : BitVec 3) (rd ra rb : BitVec 5) (s : State) : Host.Outcome State Fault Refusal :=
  aluRR 20 (fun a b => highOf (a.toInt * (b.toNat : Int))) stl rd ra rb s

/-- div (R161). -/
def execDiv (stl : BitVec 3) (rd ra rb : BitVec 5) (s : State) : Host.Outcome State Fault Refusal :=
  aluRR 72 (divS) stl rd ra rb s

/-- divu (R161). -/
def execDivu (stl : BitVec 3) (rd ra rb : BitVec 5) (s : State) : Host.Outcome State Fault Refusal :=
  aluRR 72 (divU) stl rd ra rb s

/-- rem (R161). -/
def execRem (stl : BitVec 3) (rd ra rb : BitVec 5) (s : State) : Host.Outcome State Fault Refusal :=
  aluRR 72 (remS) stl rd ra rb s

/-- remu (R161). -/
def execRemu (stl : BitVec 3) (rd ra rb : BitVec 5) (s : State) : Host.Outcome State Fault Refusal :=
  aluRR 72 (remU) stl rd ra rb s

end Sys2Proof.Machine
end

