-- ==== Sys2Proof/Machine/LoadStore.lean ====
section
/-! DEFINITION. Scalar loads and stores (R131 to R135), with the tile's write buffer, phase log and
view that global ones meet (R133, R234, R235). -/

namespace Sys2Proof.Machine

/-! ### Effective addresses (R131, R134) -/

/-- The effective address with offset `o`, or the failing check with TVAL. -/
def effAddr (p : Word) (o : Int) (size : Nat) : Except (Cause × Word) Word :=
  let ea := pWith p (o % 2 ^ 52).toNat
  if o < 0 || o ≥ 2 ^ 52 then .error (.addr, ea)
  else if o % size ≠ 0 then .error (.misalign, ea)
  else .ok ea

/-- A loaded value of `size` bytes, extended. -/
def extendLoad (sgn : Bool) (size v : Nat) : Word :=
  if sgn then BitVec.ofInt 64 (Sys2Proof.Machine.sgn (8 * size) v) else w64 v

/-! ### The units of a tile (R234, R235) -/

/-- The keys of the 64-B units of a span. -/
def unitKeys (asid : BitVec 16) (off n : Nat) : List Nat :=
  (List.range ((off % 64 + n + 63) / 64)).map (fun j => unitKey asid (off / 64 * 64 + 64 * j))

/-- What a tile's loads find of a unit in the tile itself: its view, under what it has stored. -/
def tileUnit (tl : Tile) (k : Nat) : Unit64 :=
  ((smGet Unit64.empty tl.view k).over (smGet Unit64.empty tl.plog k)).over
    (smGet Unit64.empty tl.wbuf k)

/-- The bytes of a unit that a span takes, as a mask. -/
def unitNeed (off n k : Nat) : Nat :=
  let u := unitOff k
  let lo := max off u - u
  let hi := min (off + n) (u + 64) - u
  (2 ^ (hi - lo) - 1) * 2 ^ lo

/-- Whether a unit holds every byte of a mask. -/
def unitHas (u : Unit64) (m : Nat) : Bool := u.mask.toNat &&& m == m

/-- The value of a span from its units. -/
def spanValue (off n : Nat) (us : List Unit64) : Nat :=
  getBytes (packChunks 512 (us.map (fun u => u.data.toNat))) (off % 64) n

/-- Free bytes from draw `d`. -/
def freeBytes (d n : Nat) : Nat :=
  packChunks 8 ((List.range n).map (fun k => (Config.freeByte (d + k)).toNat))

/-- The address of a tile's phase log, and the units it holds at most: its partition's, or the
partitionless one of the hypervisor record (R279, R389). -/
def plogArea (s : State) (t : Nat) : Nat × Nat :=
  let (base, k, sh) := match tilePart s t with
    | some (p, lt) => ((part s p).plbase, lt, (part s p).plsh)
    | none => ((hypRec s).plbase, t, (hypRec s).plsh)
  (base * 65536 + k * 2 ^ sh, if sh < 7 then 0 else 2 ^ (sh - 7))

/-- The units a tile's phase log holds at most (R279, R389). -/
def plogCap (s : State) (t : Nat) : Nat := (plogArea s t).2

/-- The 128 bytes that a spilled unit takes of its tile's phase log: which of the log's places and what the
device writes there the spec leaves open, so that both are free values (R279, log 40 [DESIGN CHOICE]). -/
def logWrite (s : State) (t : Nat) : State :=
  let (base, n) := plogArea s t
  let (d, s) := draw s
  let at_ := base + 128 * (d % n)
  { s with
    hbm := (List.range 4).foldl (fun h k =>
      let pa := (at_ + 32 * k) % 2 ^ 40
      sectorsWrite h 0 (pa / 65536) (pa % 65536 / 32) [(0, freeBytes (s.draws + 32 * k) 32, false)])
      s.hbm,
    draws := s.draws + 128 }

/-- The oldest write unit spilled to the phase log, if the log has room (R234, R279): a unit that is there
already keeps its place. -/
def spillUnit (s : State) (t : Nat) : Option State :=
  let tl := tile s t
  match tl.wbuf with
  | [] => some s
  | (k, u) :: rest =>
    if (smDel tl.plog k).length < plogCap s t then
      some (logWrite (setTile s t { tl with
        wbuf := rest, plog := smSet tl.plog k ((smGet Unit64.empty tl.plog k).over u) }) t)
    else none

/-- A tile with a place free among the 1,024 units of its write buffer and view: a unit of the view that
holds no unpublished byte goes, if all are taken (R234, R235); none when no such unit is there. -/
def viewRoom (s : State) (t : Nat) : Option State :=
  let tl := tile s t
  if tl.wbuf.length + tl.view.length < 1024 then some s
  else
    let kept := unpublished tl
    match tl.view.find? (fun e => !kept.contains e.1) with
    | some e => some (dropView s t (· == e.1))
    | none => none

/-- Masked bytes enter the write buffer, of 1,024 units shared with the view; the oldest units
come first in it (R234). -/
def storeUnit (s : State) (t k : Nat) (u : Unit64) : Option State :=
  let tl := tile s t
  match smFind tl.wbuf k with
  | some _ =>
    let new := tl.wbuf.map (fun e => if e.1 = k then (k, e.2.over u) else e)
    some (setTile s t { tl with wbuf := new })
  | none =>
    let room := match viewRoom s t with
      | some s => some s
      | none =>
        if tl.wbuf = [] then some (dropView s t (fun j => (smKeys tl.view).head? == some j))
        else spillUnit s t
    room.map fun s => updTile s t fun tl => { tl with wbuf := tl.wbuf ++ [(k, u)] }

/-- Units stored one after the other. -/
def storeUnits (s : State) (t : Nat) : List (Nat × Unit64) → Option State
  | [] => some s
  | (k, u) :: r => (storeUnit s t k u).bind (fun s => storeUnits s t r)

/-- The units of a span of `n` bytes with value `v`. -/
def spanUnits (asid : BitVec 16) (off n v : Nat) : List (Nat × Unit64) :=
  let data := v % 2 ^ (8 * n) * 2 ^ (8 * (off % 64))
  (unitKeys asid off n).zipIdx.map (fun e =>
    (e.1, ⟨BitVec.ofNat 512 (data / 2 ^ (512 * e.2)), BitVec.ofNat 64 (unitNeed off n e.1)⟩))

/-- `n` bytes stored in a tile's write buffer; none when the phase log is full (R234). -/
def storeSpan (s : State) (t : Nat) (asid : BitVec 16) (off n v : Nat) : Option State :=
  storeUnits s t (spanUnits asid off n v)

/-! ### Accesses of a thread -/

/-- A global load of `n` bytes sent on its way (R235): the tile's own bytes as they stand. -/
def globalLoad (s : State) (off n : Nat) : State :=
  let th := me s
  let tl := tile s s.cur.tile
  let keys := unitKeys th.asid off n
  let us := keys.map (fun k => (k, tileUnit tl k))
  let todo := (us.filter (fun e => !unitHas e.2 (unitNeed off n e.1))).map (·.1)
  send s s.cur 0 (.gload off n th.asid th.priv todo false us [] false)

/-- The pages of a span of at most 64 KiB: an offset in each. -/
def spanPages (off n : Nat) : List Nat :=
  if off / 65536 = (off + n - 1) / 65536 then [off] else [off, off + n - 1]

/-- Units that a thread has stored, remembered for its fences (R234, R246). -/
def noteStores (s : State) (i : Tid) (ks : List Nat) : State :=
  updThr s i fun th => { th with gstores :=
    th.gstores ++ (ks.filter (fun k => !th.gstores.contains (k, false))).map (fun k => (k, false)) }

/-- A global store of `n` bytes (R133, R234). -/
def globalStore (ea : Word) (off n v : Nat) (s : State) : Ret :=
  let th := me s
  if (spanPages off n).all (fun o => (tile s s.cur.tile).probed.contains (pageKey th.asid o)) then
    match storeSpan s s.cur.tile th.asid off n v with
    | some s => .go (noteStores s s.cur (unitKeys th.asid off n))
    | none => .trap .phaseLogFull ea s
  else
    .sleep (.probe ea (natBytes n v) []) (send s s.cur 0 (.probe off n th.asid th.priv))

/-- The access of a tile's own thread logged when LOCAL is set (R147). -/
def logOwn (s : State) (i : Tid) (kind off n : Nat) : State :=
  let src := ltileOf s (thr s i).home
  updTile s i.tile fun tl =>
    if tl.trace.logLocal then { tl with trace := traceLog tl.trace (bankCycle s) kind src n off } else tl

/-- The issuing thread's access logged when LOCAL is set (R147). -/
def logLocal (s : State) (kind off n : Nat) : State := logOwn s s.cur kind off n

/-- The issuing thread's posted stores to its own tile's scratchpad, through pointers that leave the tile
or from before it came home, applied: its accesses to one scratchpad act in program order (R129, R230). -/
def landOwn (s : State) : State :=
  s.net.foldl (fun s k => match k.body with
    | .port place off (.store bytes) src posted =>
      if k.src == s.cur && place == s.cur.tile then
        setBody (placeWrite s place off bytes.length (bytesNat bytes) 0 src) k.id
          (.ack false (posted.map (·.1)) none)
      else s
    | _ => s) s

/-- Whether a thread is in the middle of a gather or scatter of its own scratchpad. -/
def Thread.gathers (th : Thread) : Bool :=
  match th.wait? with
  | some (.gather ..) => true
  | _ => false

/-- The state in which a thread's access to its own scratchpad acts: after its earlier ones, with its banks
claimed in this cycle (R187, R230). -/
def hereAt (o n : Nat) (s : State) : State :=
  updTile (landOwn s) s.cur.tile fun tl =>
    if tl.threads.any (fun e => e.2.gathers) then
      { tl with claimed := tl.claimed ++ (spanUnitsAt o n).map (· % 32) }
    else tl

/-- A posted write sent to a place, or the thread waits for room among the tile's 64 (R129). -/
def postWrite (place off : Nat) (bytes : List Byte) (ea : Word) (s : State) : Ret :=
  if (tile s s.cur.tile).posted ≥ 64 then .sleep .retry s
  else
    let th := me s
    let s := send s s.cur place
      (.port place off (.store bytes) (ltileOf s th.home) (some (s.cur.tile, ea)))
    let s := updTile s s.cur.tile fun tl => { tl with posted := tl.posted + 1 }
    .go (updMe s fun th => { th with postedW := th.postedW + 1 })

/-- A scalar load at an effective address (R131, R132). -/
def loadAt (stl : BitVec 3) (rd : BitVec 5) (size : Nat) (sgn : Bool) (ea : Word) (s : State) :
    Ret :=
  match threadTarget s s.cur ea size with
  | .error c => .trap c ea s
  | .ok (.here o) =>
    let s := hereAt o size s
    let (v, bad) := spadRead s s.cur.tile o size
    if bad then .park 1 (chargeSram s s.cur.tile 3)
    else .go (putX stl 12 rd (extendLoad sgn size v) s)
  | .ok (.far pl o) =>
    .sleep (.load rd.toNat size sgn ea)
      (send s s.cur pl (.port pl o (.load size) (ltileOf s (me s).home) none))
  | .ok (.glob o) => .sleep (.load rd.toNat size sgn ea) (globalLoad s o size)

/-- A scalar store at an effective address (R131, R132). -/
def storeAt (size v : Nat) (ea : Word) (s : State) : Ret :=
  match threadTarget s s.cur ea size with
  | .error c => .trap c ea s
  | .ok (.here o) => .go (logLocal (spadStore (hereAt o size s) s.cur.tile o size v) 4 o size)
  | .ok (.far pl o) => postWrite pl o (natBytes size v) ea s
  | .ok (.glob o) => globalStore ea o size v s

/-- A load with the displacement of R131. -/
def loadWord (size : Nat) (sgn : Bool) (stl : BitVec 3) (rd ra : BitVec 5) (off : BitVec 10)
    (s : State) : Host.Outcome State Fault Refusal :=
  run stl { xs := [rd, ra], res := [(ra, 0)], kind := 0, pair := .takes (some rd.toNat) } (fun s =>
    match effAddr (rx s ra) ((pOff (rx s ra) : Int) + off.toInt * size) size with
    | .error (c, v) => .trap c v s
    | .ok ea => loadAt stl rd size sgn ea s) s

/-- A store with the displacement of R131. -/
def storeWord (size : Nat) (stl : BitVec 3) (rd ra : BitVec 5) (off : BitVec 10) (s : State) :
    Host.Outcome State Fault Refusal :=
  run stl { xs := [rd, ra], res := [(ra, 0), (rd, 2)], kind := 0 } (fun s =>
    match effAddr (rx s ra) ((pOff (rx s ra) : Int) + off.toInt * size) size with
    | .error (c, v) => .trap c v s
    | .ok ea => storeAt size (rx s rd).toNat ea s) s

/-- The offset of an indexed access (R134). -/
def indexOff (p x : Word) (sh : BitVec 2) : Int := (pOff p : Int) + x.toInt * 2 ^ sh.toNat

/-- An indexed load (R134). -/
def loadIndexed (size : Nat) (sgn : Bool) (stl : BitVec 3) (rd ra rb : BitVec 5) (sh : BitVec 2)
    (s : State) : Host.Outcome State Fault Refusal :=
  run stl { xs := [rd, ra, rb], res := [(ra, 0), (rb, 1)], kind := 0, pair := .takes (some rd.toNat) }
    (fun s =>
    match effAddr (rx s ra) (indexOff (rx s ra) (rx s rb) sh) size with
    | .error (c, v) => .trap c v s
    | .ok ea => loadAt stl rd size sgn ea s) s

/-- An indexed store (R134). -/
def storeIndexed (size : Nat) (stl : BitVec 3) (rd ra rb : BitVec 5) (sh : BitVec 2) (s : State) :
    Host.Outcome State Fault Refusal :=
  run stl { xs := [rd, ra, rb], res := [(ra, 0), (rb, 1), (rd, 2)], kind := 0 } (fun s =>
    match effAddr (rx s ra) (indexOff (rx s ra) (rx s rb) sh) size with
    | .error (c, v) => .trap c v s
    | .ok ea => storeAt size (rx s rd).toNat ea s) s

/-! ### The instructions -/

/-- lb (R131). -/
def execLb (stl : BitVec 3) (rd ra : BitVec 5) (off : BitVec 10) (s : State) :
    Host.Outcome State Fault Refusal :=
  loadWord 1 true stl rd ra off s

/-- lbu (R131). -/
def execLbu (stl : BitVec 3) (rd ra : BitVec 5) (off : BitVec 10) (s : State) :
    Host.Outcome State Fault Refusal :=
  loadWord 1 false stl rd ra off s

/-- lh (R131). -/
def execLh (stl : BitVec 3) (rd ra : BitVec 5) (off : BitVec 10) (s : State) :
    Host.Outcome State Fault Refusal :=
  loadWord 2 true stl rd ra off s

/-- lhu (R131). -/
def execLhu (stl : BitVec 3) (rd ra : BitVec 5) (off : BitVec 10) (s : State) :
    Host.Outcome State Fault Refusal :=
  loadWord 2 false stl rd ra off s

/-- lw (R131). -/
def execLw (stl : BitVec 3) (rd ra : BitVec 5) (off : BitVec 10) (s : State) :
    Host.Outcome State Fault Refusal :=
  loadWord 4 true stl rd ra off s

/-- lwu (R131). -/
def execLwu (stl : BitVec 3) (rd ra : BitVec 5) (off : BitVec 10) (s : State) :
    Host.Outcome State Fault Refusal :=
  loadWord 4 false stl rd ra off s

/-- ld (R131). -/
def execLd (stl : BitVec 3) (rd ra : BitVec 5) (off : BitVec 10) (s : State) :
    Host.Outcome State Fault Refusal :=
  loadWord 8 false stl rd ra off s

/-- sb (R131). -/
def execSb (stl : BitVec 3) (rd ra : BitVec 5) (off : BitVec 10) (s : State) :
    Host.Outcome State Fault Refusal :=
  storeWord 1 stl rd ra off s

/-- sh (R131). -/
def execSh (stl : BitVec 3) (rd ra : BitVec 5) (off : BitVec 10) (s : State) :
    Host.Outcome State Fault Refusal :=
  storeWord 2 stl rd ra off s

/-- sw (R131). -/
def execSw (stl : BitVec 3) (rd ra : BitVec 5) (off : BitVec 10) (s : State) :
    Host.Outcome State Fault Refusal :=
  storeWord 4 stl rd ra off s

/-- sd (R131). -/
def execSd (stl : BitVec 3) (rd ra : BitVec 5) (off : BitVec 10) (s : State) :
    Host.Outcome State Fault Refusal :=
  storeWord 8 stl rd ra off s

/-- lbx (R134). -/
def execLbx (stl : BitVec 3) (rd ra rb : BitVec 5) (sh : BitVec 2) (s : State) :
    Host.Outcome State Fault Refusal :=
  loadIndexed 1 true stl rd ra rb sh s

/-- lbux (R134). -/
def execLbux (stl : BitVec 3) (rd ra rb : BitVec 5) (sh : BitVec 2) (s : State) :
    Host.Outcome State Fault Refusal :=
  loadIndexed 1 false stl rd ra rb sh s

/-- lhx (R134). -/
def execLhx (stl : BitVec 3) (rd ra rb : BitVec 5) (sh : BitVec 2) (s : State) :
    Host.Outcome State Fault Refusal :=
  loadIndexed 2 true stl rd ra rb sh s

/-- lhux (R134). -/
def execLhux (stl : BitVec 3) (rd ra rb : BitVec 5) (sh : BitVec 2) (s : State) :
    Host.Outcome State Fault Refusal :=
  loadIndexed 2 false stl rd ra rb sh s

/-- lwx (R134). -/
def execLwx (stl : BitVec 3) (rd ra rb : BitVec 5) (sh : BitVec 2) (s : State) :
    Host.Outcome State Fault Refusal :=
  loadIndexed 4 true stl rd ra rb sh s

/-- lwux (R134). -/
def execLwux (stl : BitVec 3) (rd ra rb : BitVec 5) (sh : BitVec 2) (s : State) :
    Host.Outcome State Fault Refusal :=
  loadIndexed 4 false stl rd ra rb sh s

/-- ldx (R134). -/
def execLdx (stl : BitVec 3) (rd ra rb : BitVec 5) (sh : BitVec 2) (s : State) :
    Host.Outcome State Fault Refusal :=
  loadIndexed 8 false stl rd ra rb sh s

/-- sbx (R134). -/
def execSbx (stl : BitVec 3) (rd ra rb : BitVec 5) (sh : BitVec 2) (s : State) :
    Host.Outcome State Fault Refusal :=
  storeIndexed 1 stl rd ra rb sh s

/-- shx (R134). -/
def execShx (stl : BitVec 3) (rd ra rb : BitVec 5) (sh : BitVec 2) (s : State) :
    Host.Outcome State Fault Refusal :=
  storeIndexed 2 stl rd ra rb sh s

/-- swx (R134). -/
def execSwx (stl : BitVec 3) (rd ra rb : BitVec 5) (sh : BitVec 2) (s : State) :
    Host.Outcome State Fault Refusal :=
  storeIndexed 4 stl rd ra rb sh s

/-- sdx (R134). -/
def execSdx (stl : BitVec 3) (rd ra rb : BitVec 5) (sh : BitVec 2) (s : State) :
    Host.Outcome State Fault Refusal :=
  storeIndexed 8 stl rd ra rb sh s

end Sys2Proof.Machine
end

