-- ==== Sys2Proof/Machine/Amo.lean ====
section
/-! DEFINITION. Atomics (R136 to R139): the new value of each operation, which every executor uses,
and the words. -/

namespace Sys2Proof.Machine

/-- An IEEE result of an atomic: to nearest even, never saturating (R138). -/
def amoRound (f : FFmt) (v : FVal) : Nat := (f.encode ⟨⟨.rne, 0⟩, false, false⟩ v).1

/-- The sum of an atomic in a format (R138). -/
def amoSum (f : FFmt) (a b : Nat) : Nat :=
  amoRound f (addVal .rne (f.decode (a % 2 ^ f.width)) (f.decode (b % 2 ^ f.width))).1

/-- The minimum or maximum of an atomic in a format (R138). -/
def amoMinMax (isMax : Bool) (f : FFmt) (a b : Nat) : Nat :=
  amoRound f (minmaxVal isMax (f.decode (a % 2 ^ f.width)) (f.decode (b % 2 ^ f.width))).1

/-- The new value of operation `op` on `w` bytes with operand `b` and expected value `c`; none
when it writes nothing (R137). -/
def amoNew (op w old b c : Nat) : Option Nat :=
  let m := 2 ^ (8 * w)
  let old := old % m
  let b := b % m
  let f := if w = 4 then fp32 else fp64
  match op with
  | 0x00 => some ((old + b) % m)
  | 0x01 => some (old &&& b)
  | 0x02 => some (old ||| b)
  | 0x03 => some (old ^^^ b)
  | 0x04 => some (if sgn (8 * w) old ≤ sgn (8 * w) b then old else b)
  | 0x05 => some (if sgn (8 * w) old ≤ sgn (8 * w) b then b else old)
  | 0x06 => some (min old b)
  | 0x07 => some (max old b)
  | 0x08 => some b
  | 0x09 => if old = c % m then some b else none
  | 0x0A => some (amoSum f old b)
  | 0x0B => some (amoSum bf16 old b + 65536 * amoSum bf16 (old / 65536) (b / 65536))
  | 0x0C => some (amoMinMax false f old b)
  | 0x0D => some (amoMinMax true f old b)
  | _ => none

/-- The register result of an atomic: .w sign-extended (R137). -/
def amoResult (w old : Nat) : Word := extendLoad (w == 4) w old

/-- An atomic at its target (R136, R137). -/
def amoAt (op w : Nat) (stl : BitVec 3) (rd : BitVec 5) (ea b c : Word) (s : State) : Ret :=
  match threadTarget s s.cur ea w with
  | .error e => .trap e ea s
  | .ok (.here o) =>
    let s := hereAt o w s
    let (old, bad) := spadRead s s.cur.tile o w
    if bad then .park 1 (chargeSram s s.cur.tile 3)
    else
      let s := match amoNew op w old b.toNat c.toNat with
        | some v => logLocal (spadStore s s.cur.tile o w v) 5 o w
        | none => s
      .go (putX stl 16 rd (amoResult w old) s)
  | .ok (.far pl o) =>
    .sleep (.amo rd.toNat w ea)
      (send s s.cur pl (.port pl o (.amo op w b c) (ltileOf s (me s).home) none))
  | .ok (.glob o) =>
    .sleep (.amo rd.toNat w ea)
      (send s s.cur 0 (.gamo o (me s).asid (me s).priv op w b c none 0))

/-- An atomic word: size by W, no displacement; amocas sends x[rd] too (R137, R150). -/
def amo (op : Nat) (stl : BitVec 3) (rd ra rb : BitVec 5) (w : Nat) (s : State) :
    Host.Outcome State Fault Refusal :=
  let res := if op = 0x09 then [(ra, 0), (rb, 3), (rd, 4)] else [(ra, 0), (rb, 3)]
  run stl { xs := [rd, ra, rb], res := res, kind := 0 } (fun s =>
    match effAddr (rx s ra) (pOff (rx s ra)) w with
    | .error (c, v) => .trap c v s
    | .ok ea => amoAt op w stl rd ea (rx s rb) (rx s rd) s) s

/-- Bytes of an atomic's W field. -/
def amoBytes (w : BitVec 1) : Nat := if w = 1 then 8 else 4

/-- amoadd (R137). -/
def execAmoadd (stl : BitVec 3) (rd ra rb : BitVec 5) (w : BitVec 1) (s : State) :
    Host.Outcome State Fault Refusal :=
  amo 0x0 stl rd ra rb (amoBytes w) s

/-- amoand (R137). -/
def execAmoand (stl : BitVec 3) (rd ra rb : BitVec 5) (w : BitVec 1) (s : State) :
    Host.Outcome State Fault Refusal :=
  amo 0x1 stl rd ra rb (amoBytes w) s

/-- amoor (R137). -/
def execAmoor (stl : BitVec 3) (rd ra rb : BitVec 5) (w : BitVec 1) (s : State) :
    Host.Outcome State Fault Refusal :=
  amo 0x2 stl rd ra rb (amoBytes w) s

/-- amoxor (R137). -/
def execAmoxor (stl : BitVec 3) (rd ra rb : BitVec 5) (w : BitVec 1) (s : State) :
    Host.Outcome State Fault Refusal :=
  amo 0x3 stl rd ra rb (amoBytes w) s

/-- amomin (R137). -/
def execAmomin (stl : BitVec 3) (rd ra rb : BitVec 5) (w : BitVec 1) (s : State) :
    Host.Outcome State Fault Refusal :=
  amo 0x4 stl rd ra rb (amoBytes w) s

/-- amomax (R137). -/
def execAmomax (stl : BitVec 3) (rd ra rb : BitVec 5) (w : BitVec 1) (s : State) :
    Host.Outcome State Fault Refusal :=
  amo 0x5 stl rd ra rb (amoBytes w) s

/-- amominu (R137). -/
def execAmominu (stl : BitVec 3) (rd ra rb : BitVec 5) (w : BitVec 1) (s : State) :
    Host.Outcome State Fault Refusal :=
  amo 0x6 stl rd ra rb (amoBytes w) s

/-- amomaxu (R137). -/
def execAmomaxu (stl : BitVec 3) (rd ra rb : BitVec 5) (w : BitVec 1) (s : State) :
    Host.Outcome State Fault Refusal :=
  amo 0x7 stl rd ra rb (amoBytes w) s

/-- amoswap (R137). -/
def execAmoswap (stl : BitVec 3) (rd ra rb : BitVec 5) (w : BitVec 1) (s : State) :
    Host.Outcome State Fault Refusal :=
  amo 0x8 stl rd ra rb (amoBytes w) s

/-- amocas (R137). -/
def execAmocas (stl : BitVec 3) (rd ra rb : BitVec 5) (w : BitVec 1) (s : State) :
    Host.Outcome State Fault Refusal :=
  amo 0x9 stl rd ra rb (amoBytes w) s

/-- amofadd (R137). -/
def execAmofadd (stl : BitVec 3) (rd ra rb : BitVec 5) (w : BitVec 1) (s : State) :
    Host.Outcome State Fault Refusal :=
  amo 0xa stl rd ra rb (amoBytes w) s

/-- amofadd.bf (R137). -/
def execAmofaddBf (stl : BitVec 3) (rd ra rb : BitVec 5) (s : State) :
    Host.Outcome State Fault Refusal :=
  amo 0x0B stl rd ra rb 4 s

/-- amofmin (R137). -/
def execAmofmin (stl : BitVec 3) (rd ra rb : BitVec 5) (w : BitVec 1) (s : State) :
    Host.Outcome State Fault Refusal :=
  amo 0xc stl rd ra rb (amoBytes w) s

/-- amofmax (R137). -/
def execAmofmax (stl : BitVec 3) (rd ra rb : BitVec 5) (w : BitVec 1) (s : State) :
    Host.Outcome State Fault Refusal :=
  amo 0xd stl rd ra rb (amoBytes w) s

/-- amold (R137): it writes nothing. -/
def execAmold (stl : BitVec 3) (rd ra : BitVec 5) (w : BitVec 1) (s : State) :
    Host.Outcome State Fault Refusal :=
  amo 0x0E stl rd ra 0 (amoBytes w) s

end Sys2Proof.Machine
end

