-- ==== Sys2Proof/Machine/Branch.lean ====
section
/-! DEFINITION. Branches and jumps (R170 to R172). -/

namespace Sys2Proof.Machine

/-- Whether an address has bits [63:52] clear (R170). -/
def pcOk (a : Word) : Bool := a.toNat < 2 ^ 52

/-- A jump to `t`, its effects first: ADDR when the target leaves 52 bits, with nothing written
(R171, R172). -/
def jumpTo (t : Word) (f : State → State) (s : State) : Ret :=
  if pcOk t then .goto t (f s) else .trap .addr t s

/-- A branch (R171). -/
def branch (c : Word → Word → Bool) (stl : BitVec 3) (ra rb : BitVec 5) (off : BitVec 13)
    (s : State) : Host.Outcome State Fault Refusal :=
  run stl { xs := [ra, rb] } (fun s =>
    if c (rx s ra) (rx s rb) then jumpTo ((me s).pc + 4 * off.signExtend 64) id s else .go s) s

/-- beq (R171). -/
def execBeq (stl : BitVec 3) (ra rb : BitVec 5) (off : BitVec 13) (s : State) :
    Host.Outcome State Fault Refusal :=
  branch (fun a b => a == b) stl ra rb off s

/-- bne (R171). -/
def execBne (stl : BitVec 3) (ra rb : BitVec 5) (off : BitVec 13) (s : State) :
    Host.Outcome State Fault Refusal :=
  branch (fun a b => a != b) stl ra rb off s

/-- blt (R171). -/
def execBlt (stl : BitVec 3) (ra rb : BitVec 5) (off : BitVec 13) (s : State) :
    Host.Outcome State Fault Refusal :=
  branch (fun a b => a.slt b) stl ra rb off s

/-- bge (R171). -/
def execBge (stl : BitVec 3) (ra rb : BitVec 5) (off : BitVec 13) (s : State) :
    Host.Outcome State Fault Refusal :=
  branch (fun a b => !a.slt b) stl ra rb off s

/-- bltu (R171). -/
def execBltu (stl : BitVec 3) (ra rb : BitVec 5) (off : BitVec 13) (s : State) :
    Host.Outcome State Fault Refusal :=
  branch (fun a b => a.ult b) stl ra rb off s

/-- bgeu (R171). -/
def execBgeu (stl : BitVec 3) (ra rb : BitVec 5) (off : BitVec 13) (s : State) :
    Host.Outcome State Fault Refusal :=
  branch (fun a b => !a.ult b) stl ra rb off s

/-- j (R172). -/
def execJ (stl : BitVec 3) (off : BitVec 23) (s : State) : Host.Outcome State Fault Refusal :=
  run stl {} (fun s => jumpTo ((me s).pc + 4 * off.signExtend 64) id s) s

/-- jal (R172). -/
def execJal (stl : BitVec 3) (off : BitVec 23) (s : State) : Host.Outcome State Fault Refusal :=
  run stl { xs := [1] } (fun s =>
    jumpTo ((me s).pc + 4 * off.signExtend 64) (putX stl 4 1 ((me s).pc + 4)) s) s

/-- The target of jalr (R172). -/
def jalrTarget (a : Word) (imm : BitVec 13) : Word := a / 4 * 4 + 4 * imm64 imm

/-- jalr (R172): x[ra] is read before the link is written. -/
def execJalr (stl : BitVec 3) (rd ra : BitVec 5) (imm : BitVec 13) (s : State) :
    Host.Outcome State Fault Refusal :=
  run stl { xs := [rd, ra], res := [(ra, 0)] } (fun s =>
    jumpTo (jalrTarget (rx s ra) imm) (putX stl 4 rd ((me s).pc + 4)) s) s

end Sys2Proof.Machine
end

