-- ==== Sys2Proof/Machine/FenceOps.lean ====
section
/-! DEFINITION. FENCE, PHASE and IFENCE (R225, R226, R237, R243, R246 to R249), and the events that
complete them. -/

namespace Sys2Proof.Machine

/-- Bits of a path set (R50): L. -/
def pathL (p : BitVec 6) : Bool := p.getLsbD 5
/-- Path S. -/
def pathS (p : BitVec 6) : Bool := p.getLsbD 4
/-- Path A. -/
def pathA (p : BitVec 6) : Bool := p.getLsbD 3
/-- Path C. -/
def pathC (p : BitVec 6) : Bool := p.getLsbD 2
/-- Path M. -/
def pathM (p : BitVec 6) : Bool := p.getLsbD 1
/-- Path N. -/
def pathN (p : BitVec 6) : Bool := p.getLsbD 0

/-- The effective scope: a guest's package and job scopes act at partition scope (R226). -/
def effScope (th : Thread) (scope : BitVec 3) : Nat :=
  if th.priv < 2 && 4 ≤ scope.toNat then 3 else scope.toNat

/-- CLAMPED set when a guest names scope 4 or 5 (R226). -/
def clampMark (scope : BitVec 3) (th : Thread) : Thread :=
  if th.priv < 2 && 4 ≤ scope.toNat then { th with clamped := true } else th

/-- Whether an output stream of a thread still holds entries to write (R122, R246). -/
def pushesLeft (th : Thread) : Bool :=
  th.streams.any (fun e => e.2.kind == 1 && e.2.st != 3 && !e.2.fifo.isEmpty)

/-- Whether a fence with this PRED must still wait for its thread (R243, R246). -/
def fenceWaits (th : Thread) (pred : BitVec 6) : Bool :=
  (pathS pred && th.postedW != 0) || (pathN pred && th.postedN != 0) || (pathC pred && pushesLeft th)

/-- The earlier of two failure records. -/
def firstFail (a b : Option (Nat × Word)) : Option Word :=
  match a, b with
  | some (i, v), some (j, w) => some (if i ≤ j then v else w)
  | some (_, v), none => some v
  | none, some (_, w) => some w
  | none, none => none

/-- The failure that a fence with this PRED reports (R243). -/
def fenceFail (th : Thread) (pred : BitVec 6) : Option Word :=
  firstFail (if pathS pred then th.failW else none) (if pathN pred then th.failN else none)

/-- The records a fence has checked, cleared (R243). -/
def clearFails (pred : BitVec 6) (th : Thread) : Thread :=
  { th with failW := if pathS pred then none else th.failW,
            failN := if pathN pred then none else th.failN }

/-- The waits and the failure of R243, then `go`; `waits` is what the thread waits for. -/
def afterFence (pred : BitVec 6) (waits : Wait) (go : State → Ret) (s : State) : Ret :=
  if fenceWaits (me s) pred then .sleep waits s
  else
    match fenceFail (me s) pred with
    | some v => .trap .remoteFail v (updMe s (clearFails pred))
    | none => go s

/-! ### What a fence performs (R227, R246) -/

/-- Whether tile `u` lies in the unit of a scope that holds tile `t` (R226): the logical cluster and the
physical die of the tile, which of a tile that MOVE has taken elsewhere need not lie one in the other (log
14 [DESIGN CHOICE]). -/
def inScope (s : State) (t scope u : Nat) : Bool :=
  match scope with
  | 0 => t == u
  | 1 => homeCluster s t == homeCluster s u
  | 2 => t / 256 == u / 256
  | 3 => (tilePart s t).map (·.1) == (tilePart s u).map (·.1)
  | _ => true

/-- Whether performing a thread's plain global stores at a scope toward SUCC takes more than their tile's
loads, toward which the write buffer performs them (R234). -/
def beyondTile (succ : BitVec 6) (scope : Nat) : Bool :=
  succ != 0 && (scope != 0 || succ &&& 0x1F != 0)

/-- The units that a fence with this PRED performs toward the loads of the other tiles of its scope: those
that its thread has stored, and any unit where atomics or engine writes are among them (log 14 [DESIGN
CHOICE]: which units these wrote is not kept). -/
def fenceUnits (th : Thread) (pred : BitVec 6) (k : Nat) : Bool :=
  pathA pred || pathC pred || pathM pred || (pathS pred && th.gstores.any (fun e => e.1 == k))

/-- Published writes performed toward the loads of a scope (R227, R246): the views of its other tiles drop
the units of PRED, and the thread's own tile every unit, so that its loads find what the accesses it has
ordered have found (R232, R346). -/
def showUnits (s : State) (i : Tid) (pred : BitVec 6) (scope : Nat) : State :=
  let us := (smKeys s.tiles).filter (fun u => u != i.tile && inScope s i.tile scope u)
  let s := us.foldl (fun s u => dropView s u (fenceUnits (thr s i) pred)) (clearView s i.tile)
  if pathS pred then
    updThr s i fun th =>
      { th with gstores := th.gstores.filter (fun e => !e.2 || seenElsewhere s i.tile e.1) }
  else s

/-- The accesses of a thread on the paths of PRED performed at a scope toward the paths of SUCC (R246):
its stores and atomics reach the engines' paths, completed engine writes their banks (log 17 [DEDUCED]),
and loads what is published; none while its buffered global stores are not performed (log 14 [DEDUCED]). -/
def fencePerform (s : State) (i : Tid) (pred succ : BitVec 6) (scope : Nat) : Option State :=
  let th := thr s i
  if succ = 0 then some s
  else
    let s := if pathS pred || pathA pred then
        [i.tile, th.home].foldl (fun s t => updTile s t fun tl => { tl with lag := [] }) s
      else s
    let s := if pathC pred then landPath s 2 else s
    let s := if pathM pred then landPath s 3 else s
    if pathS pred && beyondTile succ scope && th.gstores.any (fun e => !e.2) then none
    else if pathL succ && pred != 0 then some (showUnits s i pred scope)
    else some s

/-- What a thread waits for at a fence. -/
def fenceWait (pred : BitVec 6) (g : Bool) : Wait := .fence (pathS pred) (pathN pred) (pathC pred) g

/-- fence (R246). -/
def execFence (stl : BitVec 3) (pred succ : BitVec 6) (scope : BitVec 3) (s : State) :
    Host.Outcome State Fault Refusal :=
  run stl { ok := scopeOk scope }
    (fun s => afterFence pred (fenceWait pred false) (fun s =>
      match fencePerform s s.cur pred succ (effScope (me s) scope) with
      | some s => .go s
      | none => .sleep (fenceWait pred true) s) (updMe s (clampMark scope))) s

/-! ### Phase groups (R237, R247) -/

/-- The level of a thread's launch that a scope selects: the outermost with that memory scope. -/
def phaseLevel (s : State) (th : Thread) (scope : Nat) : Option Nat :=
  (s.launches.find? (fun l => l.id == th.launch)).bind fun l =>
    l.mscopes.findIdx? (fun m => m == scope)

/-- Whether another thread shares the issuer's unit at a level (R237). -/
def samePhaseUnit (a b : Thread) (level : Nat) : Bool :=
  a.launch == b.launch && a.units[level]? == b.units[level]?

/-- The live members of a thread's phase group at an effective scope (R237). -/
def phaseGroup (s : State) (th : Thread) (scope : Nat) : List (Tid × Thread) :=
  match phaseLevel s th scope with
  | none => []
  | some l => (allThreads s).filter (fun e =>
      e.2.live && !e.2.ended && !e.2.shadow && samePhaseUnit th e.2 l)

/-- phase (R247). -/
def execPhase (stl : BitVec 3) (pred succ : BitVec 6) (scope : BitVec 3) (s : State) :
    Host.Outcome State Fault Refusal :=
  run stl { ok := scopeOk scope } (fun s =>
    let eff := effScope (me s) scope
    match phaseLevel s (me s) eff with
    | none => .trap .illegal (s.ir.setWidth 64) s
    | some _ => afterFence pred (fenceWait pred false) (fun s => .sleep (.phase eff pred succ) s)
        (updMe s (clampMark scope))) s

/-- Tiles of a list without repeats. -/
def groupTiles (g : List (Tid × Thread)) : List Nat := (g.map (·.1.tile)).eraseDups

/-- Whether every member of a group has arrived at its phase of this scope. -/
def groupArrived (g : List (Tid × Thread)) (scope : Nat) : Bool :=
  g.all (fun e => match e.2.wait? with
    | some (.phase sc _ _) => sc == scope
    | _ => false)

/-- Whether a tile's publications wait for a remote page's owner. -/
def publishing (s : State) (t : Nat) : Bool :=
  s.fwds.any (fun q => q.client == tileClient t && q.answer.isNone)

/-- The accesses of a group's members performed as each names (R247); none while one cannot be. -/
def groupPerform : List (Tid × Thread) → State → Option State
  | [], s => some s
  | (i, th) :: g, s =>
    match th.wait? with
    | some (.phase scope pred succ) =>
      (fencePerform s i pred succ scope).bind (groupPerform g)
    | _ => groupPerform g s

/-- A tile after a phase: its view cleared, and the probe answers with it (R133, R247). -/
def phaseClear (s : State) (t : Nat) : State :=
  updTile (clearView s t) t fun tl => { tl with probed := [] }

/-- PHASE_COMPLETE (R247): the group's tiles publish, their views clear, and every member is ready
after its phase. -/
def execPhaseComplete (t slot : Nat) (s : State) : Host.Outcome State Fault Refusal :=
  let th := thr s ⟨t, slot⟩
  match th.wait? with
  | some (.phase scope _ _) =>
    let g := phaseGroup s th scope
    if groupArrived g scope then
      let tiles := groupTiles g
      let (s, done) := publishTiles s tiles
      if done then
        match groupPerform g s with
        | some s => .next (g.foldl (fun s e => complete s e.1 id) (tiles.foldl phaseClear s))
        | none => .next s
      else .next s
    else .next s
  | _ => .next s

/-! ### IFENCE (R248) -/

/-- ifence (R248). -/
def execIfence (stl : BitVec 3) (scope : BitVec 3) (s : State) :
    Host.Outcome State Fault Refusal :=
  run stl { ok := scopeOk scope } (fun s =>
    .sleep (.ifence (effScope (me s) scope)) (updMe s (clampMark scope))) s

/-- IFENCE_COMPLETE (R248): every tile of the unit has invalidated its instruction cache. -/
def execIfenceComplete (t slot : Nat) (s : State) : Host.Outcome State Fault Refusal :=
  let i : Tid := ⟨t, slot⟩
  match (thr s i).wait? with
  | some (.ifence scope) =>
    let clear := fun (u : Nat) (tl : Tile) =>
      if inScope s t scope u then { tl with icache := [] } else tl
    .next (complete { s with tiles := smMap clear s.tiles } i id)
  | _ => .next s

end Sys2Proof.Machine
end

