-- ==== Sys2Proof/Machine/GateObj.lean ====
section
/-! DEFINITION. Gate objects at their home units (R294, R295, R297, R300): fields, access lists,
rate limits, windows, waiters and mailboxes. -/

namespace Sys2Proof.Machine

/-! ### The object (R294) -/

/-- Where gate g's object begins in physical memory. -/
def gateAt (s : State) (g : Nat) : Nat := (tableBase s + 0x20000 + 128 * g) % 2 ^ 40

/-- A doubleword of a gate object, under L128. -/
def gate64 (s : State) (g i : Nat) : Nat := (physRead s.hbm 2 (gateAt s g + 8 * i) 8).1

/-- A doubleword of a gate object written: the home unit reads, merges and writes its granule (R73). -/
def putGate64 (s : State) (g i v : Nat) : State := physStore s 2 (gateAt s g + 8 * i) 8 v

/-- What the home unit keeps beside a gate. -/
def gateSide (s : State) (g : Nat) : GateSide := smGet ⟨[], 0⟩ s.gates g

/-- The side storage of a gate replaced. -/
def setGateSide (s : State) (g : Nat) (x : GateSide) : State := { s with gates := smSet s.gates g x }

/-- V. -/
def gateV (s : State) (g : Nat) : Bool := bitOf (gate64 s g 0) 63
/-- MBCNT. -/
def gateMbcnt (s : State) (g : Nat) : Nat := field (gate64 s g 0) 31 24
/-- MBHEAD. -/
def gateMbhead (s : State) (g : Nat) : Nat := field (gate64 s g 0) 23 16
/-- COUNTER. -/
def gateCounter (s : State) (g : Nat) : Nat := gate64 s g 1

/-- MBCNT and MBHEAD written. -/
def putGateMb (s : State) (g cnt head : Nat) : State :=
  let d := gate64 s g 0
  putGate64 s g 0 (d - field d 31 16 * 2 ^ 16 + cnt % 256 * 2 ^ 24 + head % 256 * 2 ^ 16)

/-- A partition's entry of the access list: its number (R295). -/
def gateEntry (s : State) (g p : Nat) : Option Nat :=
  let acl := gate64 s g 2
  (List.range 8).find? (fun j =>
    field acl (8 * j + 7) (8 * j + 4) == p && field acl (8 * j + 3) (8 * j) != 0)

/-- The rights S W P T that a partition's entry grants, 0 without one. -/
def gateRights (s : State) (g p : Nat) : Nat :=
  match gateEntry s g p with
  | some j => field (gate64 s g 2) (8 * j + 3) (8 * j)
  | none => 0

/-- RATE and BURST of an entry. -/
def gateRate (s : State) (g j : Nat) : Nat × Nat :=
  let v := gate64 s g (3 + j / 4) / 2 ^ (16 * (j % 4)) % 65536
  (v / 256, v % 256)

/-- TOKENS of an entry. -/
def gateTokens (s : State) (g j : Nat) : Nat := gate64 s g 5 / 2 ^ (8 * j) % 256

/-- TOKENS of an entry written. -/
def putTokens (s : State) (g j v : Nat) : State :=
  let d := gate64 s g 5
  putGate64 s g 5 (d - gateTokens s g j * 2 ^ (8 * j) + v % 256 * 2 ^ (8 * j))

/-- Whether an entry's bucket is empty (R297). -/
def bucketEmpty (s : State) (g j : Nat) : Bool := (gateRate s g j).2 != 0 && gateTokens s g j == 0

/-- A token taken, unless the entry has no limit. -/
def takeToken (s : State) (g j : Nat) : State :=
  if (gateRate s g j).2 = 0 then s else putTokens s g j (gateTokens s g j - 1)

/-- The tokens of a valid gate at a refill tick (R282, R294). -/
def gateRefill (s : State) (g : Nat) : State :=
  if gateV s g then
    (List.range 8).foldl (fun s j =>
      let (rate, burst) := gateRate s g j
      putTokens s g j (min burst (gateTokens s g j + rate))) s
  else s

/-! ### Windows -/

/-- Whether a frame lies in a window of a gate. -/
def inWindow (s : State) (g f : Nat) : Bool :=
  (List.range 4).any fun k =>
    let w := gate64 s g (6 + k)
    let first := field w 47 24
    bitOf w 63 && decide (first ≤ f) && decide (f < first + w % 65536)

/-- Whether a unit lies in a window of a gate, by the frame of its page. -/
def unitInWindow (s : State) (g key : Nat) : Bool :=
  match paOf s (unitAsid key) (unitOff key) with
  | some pa => inWindow s g (pa / 65536)
  | none => false

/-! ### Waiters and the mailbox (R297) -/

/-- Values of gtake's refusals. -/
def gtakeVal (k : Nat) : Nat := 2 ^ 63 + k

/-- The reply to a waiter. -/
def gateWake (s : State) (g : Nat) (w : GWaiter) (v status n : Nat) : State :=
  send s w.tid 0 (.gateReply g 0 (w64 v) status w.token w.take n)

/-- The gwait waiters served in order while the oldest's count is there. -/
def serveGwait (g : Nat) : Nat → State → State
  | 0, s => s
  | fuel + 1, s =>
    let x := gateSide s g
    match x.waiters.find? (fun w => !w.take) with
    | none => s
    | some w =>
      if w.n ≤ gateCounter s g then
        let s := putGate64 s g 1 (gateCounter s g - w.n)
        let s := setGateSide s g { x with waiters := x.waiters.filter (fun y => y.token != w.token) }
        serveGwait g fuel (gateWake s g w 0 3 w.n)
      else s

/-- COUNTER grows by `n`, saturating, and waiters are served. -/
def gateAdd (s : State) (g n : Nat) : State :=
  serveGwait g 16 (putGate64 s g 1 (min (2 ^ 64 - 1) (gateCounter s g + n)))

/-- A word of the mailbox written: place `k`. -/
def putMail (s : State) (g k v : Nat) : State :=
  physStore s 2 (gateAt s g + 80 + 4 * (k % 8)) 4 v

/-- A word of the mailbox. -/
def gateMail (s : State) (g k : Nat) : Nat := (physRead s.hbm 2 (gateAt s g + 80 + 4 * (k % 8)) 4).1

/-- A word committed or returned: handed to the oldest gtake waiter, or else kept as `keep` says. -/
def gateHand (s : State) (g v : Nat) (keep : State → State) : State :=
  let x := gateSide s g
  match x.waiters.find? (fun w => w.take) with
  | some w =>
    gateWake (setGateSide s g { x with waiters := x.waiters.filter (fun y => y.token != w.token) })
      g w v 3 v
  | none => keep s

/-- A gpost's word committed (R297). -/
def gatePut (s : State) (g v : Nat) : State :=
  gateHand s g v fun s =>
    let x := gateSide s g
    setGateSide (putMail s g (gateMbhead s g + x.held) v) g { x with held := x.held + 1 }

/-- A word that comes back becomes the oldest one held (R300). -/
def gateRestore (s : State) (g v : Nat) : State :=
  gateHand s g v fun s =>
    let x := gateSide s g
    let h := (gateMbhead s g + 7) % 8
    setGateSide (putMail (putGateMb s g (gateMbcnt s g) h) g h v) g { x with held := x.held + 1 }

/-- Every waiter of a gate released: 2, or gtake's cleared value (R296). -/
def gateClear (s : State) (g : Nat) : State :=
  let x := gateSide s g
  x.waiters.foldl (fun s w => gateWake s g w (if w.take then gtakeVal 2 else 2) 0 0)
    (setGateSide s g { x with waiters := [] })

/-- What an atomic at a gate object does beside its write (R294, R296): V cleared releases the
waiters; an object written with V = 1 has HELD 0. -/
def gateTouched (old new : State) (pa : Nat) : State :=
  let base := tableBase old + 0x20000
  if base ≤ pa && pa < base + 0x80000 && (pa - base) % 128 < 8 then
    let g := (pa - base) / 128
    if gateV old g && !gateV new g then gateClear new g
    else if gateV new g then setGateSide new g { gateSide new g with held := 0 }
    else new
  else new

end Sys2Proof.Machine
end

