-- ==== Sys2Proof/Machine/Fpu.lean ====
section
/-! DEFINITION. The scalar floating-point instructions (R165 to R169). -/

namespace Sys2Proof.Machine

/-! ### Results with flags (R152) -/

/-- The thread's rounding mode; a reserved one is refused by the decode check (R30). -/
def frmMode (th : Thread) : Option RMode := rmodeOf (th.frm.toNat % 8)

/-- FRM.SAT. -/
def frmSat (th : Thread) : Bool := bitOf th.frm.toNat 3

/-- The flags of FFLAGS that trap (R152). -/
def enables (th : Thread) : FlagSet := BitVec.ofNat 5 (th.fflags.toNat / 256)

/-- The context with a raised set accrued (R152). -/
def accrue (fl : FlagSet) (th : Thread) : Thread :=
  { th with fflags := th.fflags ||| fl.setWidth 13 }

/-- An instruction that raised `fl`: the trap FP with the raised set, or `go` with the flags
accrued (R152). -/
def withFlags (fl : FlagSet) (go : State → Ret) (s : State) : Ret :=
  if fl &&& enables (me s) != 0 then .trap .fp (fl.setWidth 64) s
  else go (updMe s (accrue fl))

/-- A result of the FPU: bits, raised flags, and whether a draw of the generator was taken. -/
structure FRes where
  bits : Nat
  fl : FlagSet
  drew : Bool

/-- An exact value rounded once into a format by a mode (R31, R166). -/
def roundRes (f : FFmt) (mode : RMode) (th : Thread) (v : FVal × FlagSet) : FRes :=
  let (b, fl) := f.encode ⟨⟨mode, th.lfsr⟩, false, false⟩ v.1
  ⟨b, v.2 ||| fl, mode == .stoch && v.1.draws⟩

/-- Cycles of the arithmetic operations of a precision (R169). -/
def fpLat (prec : BitVec 2) : Nat := if prec = 1 then 20 else 12

/-- Cycles of divisions and square roots (R169). -/
def fpDivLat (prec : BitVec 2) : Nat := if prec = 1 then 104 else if prec = 0 then 56 else 40

/-- An FPU word: registers, whether it takes its mode from FRM, latency, and its result. -/
def fpu (stl : BitVec 3) (rd : BitVec 5) (xs : List (BitVec 5)) (rounds : Bool) (lat : Nat)
    (f : State → RMode → FRes) (s : State) : Host.Outcome State Fault Refusal :=
  run stl { ok := !rounds || (frmMode (me s)).isSome, xs := rd :: xs,
            form := if rounds then some true else none }
    (fun s =>
      let r := f s ((frmMode (me s)).getD .rne)
      withFlags r.fl (fun s =>
        let s := if r.drew then updMe s (fun th => { th with lfsr := lfsrNext th.lfsr }) else s
        .go (putXR stl lat true rd (w64 r.bits) (residue (w64 r.bits)) s)) s) s

/-- The value of a register in precision P (R165). -/
def fpArg (s : State) (prec : BitVec 2) (r : BitVec 5) : FVal :=
  let f := precFmt prec.toNat
  f.decode ((rx s r).toNat % 2 ^ f.width)

/-- An arithmetic operation of R166. -/
def fpArith (lat : BitVec 2 → Nat) (g : RMode → FVal → FVal → FVal → FVal × FlagSet)
    (stl : BitVec 3) (rd ra rb : BitVec 5) (prec : BitVec 2) (s : State) :
    Host.Outcome State Fault Refusal :=
  fpu stl rd [ra, rb] true (lat prec) (fun s m =>
    roundRes (precFmt prec.toNat) m (me s)
      (g m (fpArg s prec ra) (fpArg s prec rb) (fpArg s prec rd))) s

/-- A comparison of R167. -/
def fpCmp (k : Nat) (stl : BitVec 3) (rd ra rb : BitVec 5) (prec : BitVec 2) (s : State) :
    Host.Outcome State Fault Refusal :=
  fpu stl rd [ra, rb] false 4 (fun s _ =>
    let (b, fl) := cmpVal k (fpArg s prec ra) (fpArg s prec rb)
    ⟨if b then 1 else 0, fl, false⟩) s

/-- fmin and fmax of R167. -/
def fpMinMax (isMax : Bool) (stl : BitVec 3) (rd ra rb : BitVec 5) (prec : BitVec 2) (s : State) :
    Host.Outcome State Fault Refusal :=
  fpu stl rd [ra, rb] false 4 (fun s _ =>
    let (v, fl) := minmaxVal isMax (fpArg s prec ra) (fpArg s prec rb)
    ⟨((precFmt prec.toNat).encode ⟨⟨.rne, 0⟩, false, false⟩ v).1, fl, false⟩) s

/-- The sign operations of R167: the sign from those of a and b. -/
def fpSign (g : Bool → Bool → Bool) (stl : BitVec 3) (rd ra rb : BitVec 5) (prec : BitVec 2)
    (s : State) : Host.Outcome State Fault Refusal :=
  fpu stl rd [ra, rb] false 4 (fun s _ =>
    let w := (precFmt prec.toNat).width
    let a := (rx s ra).toNat
    let sg := g (bitOf a (w - 1)) (bitOf (rx s rb).toNat (w - 1))
    ⟨a % 2 ^ (w - 1) + (if sg then 2 ^ (w - 1) else 0), 0, false⟩) s

/-- fcvt.i and fcvt.iu (R168). -/
def fpToInt (signed : Bool) (stl : BitVec 3) (rd ra : BitVec 5) (prec : BitVec 2) (s : State) :
    Host.Outcome State Fault Refusal :=
  fpu stl rd [ra] true 12 (fun s m =>
    let v := fpArg s prec ra
    let (b, fl) := toInt64 signed ⟨m, (me s).lfsr⟩ v
    ⟨b, fl, m == .stoch && v.draws⟩) s

/-- fcvt.f and fcvt.fu (R168). -/
def fpFromInt (g : Word → Int) (stl : BitVec 3) (rd ra : BitVec 5) (prec : BitVec 2) (s : State) :
    Host.Outcome State Fault Refusal :=
  fpu stl rd [ra] true 12 (fun s m =>
    roundRes (precFmt prec.toNat) m (me s) (intVal (g (rx s ra)), 0)) s

/-! ### The instructions -/

/-- fadd (R166). -/
def execFadd (stl : BitVec 3) (rd ra rb : BitVec 5) (prec : BitVec 2) (s : State) :
    Host.Outcome State Fault Refusal :=
  fpArith fpLat (fun m a b _ => addVal m a b) stl rd ra rb prec s

/-- fsub (R166). -/
def execFsub (stl : BitVec 3) (rd ra rb : BitVec 5) (prec : BitVec 2) (s : State) :
    Host.Outcome State Fault Refusal :=
  fpArith fpLat (fun m a b _ => addVal m a b.negate) stl rd ra rb prec s

/-- fmul (R166). -/
def execFmul (stl : BitVec 3) (rd ra rb : BitVec 5) (prec : BitVec 2) (s : State) :
    Host.Outcome State Fault Refusal :=
  fpArith fpLat (fun _ a b _ => mulVal a b) stl rd ra rb prec s

/-- fdiv (R166). -/
def execFdiv (stl : BitVec 3) (rd ra rb : BitVec 5) (prec : BitVec 2) (s : State) :
    Host.Outcome State Fault Refusal :=
  fpArith fpDivLat (fun _ a b _ => divVal a b) stl rd ra rb prec s

/-- fsqrt (R166). -/
def execFsqrt (stl : BitVec 3) (rd ra : BitVec 5) (prec : BitVec 2) (s : State) :
    Host.Outcome State Fault Refusal :=
  fpu stl rd [ra] true (fpDivLat prec) (fun s m =>
    roundRes (precFmt prec.toNat) m (me s) (sqrtVal (fpArg s prec ra))) s

/-- ffma (R166). -/
def execFfma (stl : BitVec 3) (rd ra rb : BitVec 5) (prec : BitVec 2) (s : State) :
    Host.Outcome State Fault Refusal :=
  fpArith fpLat (fun m a b c => fmaVal m a b c) stl rd ra rb prec s

/-- ffms (R166). -/
def execFfms (stl : BitVec 3) (rd ra rb : BitVec 5) (prec : BitVec 2) (s : State) :
    Host.Outcome State Fault Refusal :=
  fpArith fpLat (fun m a b c => fmaVal m a.negate b c) stl rd ra rb prec s

/-- fmin (R167). -/
def execFmin (stl : BitVec 3) (rd ra rb : BitVec 5) (prec : BitVec 2) (s : State) :
    Host.Outcome State Fault Refusal :=
  fpMinMax false stl rd ra rb prec s

/-- fmax (R167). -/
def execFmax (stl : BitVec 3) (rd ra rb : BitVec 5) (prec : BitVec 2) (s : State) :
    Host.Outcome State Fault Refusal :=
  fpMinMax true stl rd ra rb prec s

/-- feq (R167). -/
def execFeq (stl : BitVec 3) (rd ra rb : BitVec 5) (prec : BitVec 2) (s : State) :
    Host.Outcome State Fault Refusal :=
  fpCmp 0 stl rd ra rb prec s

/-- flt (R167). -/
def execFlt (stl : BitVec 3) (rd ra rb : BitVec 5) (prec : BitVec 2) (s : State) :
    Host.Outcome State Fault Refusal :=
  fpCmp 1 stl rd ra rb prec s

/-- fle (R167). -/
def execFle (stl : BitVec 3) (rd ra rb : BitVec 5) (prec : BitVec 2) (s : State) :
    Host.Outcome State Fault Refusal :=
  fpCmp 2 stl rd ra rb prec s

/-- fclass (R167). -/
def execFclass (stl : BitVec 3) (rd ra : BitVec 5) (prec : BitVec 2) (s : State) :
    Host.Outcome State Fault Refusal :=
  fpu stl rd [ra] false 4 (fun s _ =>
    let f := precFmt prec.toNat
    ⟨f.classOf ((rx s ra).toNat % 2 ^ f.width), 0, false⟩) s

/-- fsgnj (R167). -/
def execFsgnj (stl : BitVec 3) (rd ra rb : BitVec 5) (prec : BitVec 2) (s : State) :
    Host.Outcome State Fault Refusal :=
  fpSign (fun _ b => b) stl rd ra rb prec s

/-- fsgnjn (R167). -/
def execFsgnjn (stl : BitVec 3) (rd ra rb : BitVec 5) (prec : BitVec 2) (s : State) :
    Host.Outcome State Fault Refusal :=
  fpSign (fun _ b => !b) stl rd ra rb prec s

/-- fsgnjx (R167). -/
def execFsgnjx (stl : BitVec 3) (rd ra rb : BitVec 5) (prec : BitVec 2) (s : State) :
    Host.Outcome State Fault Refusal :=
  fpSign (fun a b => a != b) stl rd ra rb prec s

/-- fcvtI (R168). -/
def execFcvtI (stl : BitVec 3) (rd ra : BitVec 5) (prec : BitVec 2) (s : State) :
    Host.Outcome State Fault Refusal :=
  fpToInt true stl rd ra prec s

/-- fcvtIu (R168). -/
def execFcvtIu (stl : BitVec 3) (rd ra : BitVec 5) (prec : BitVec 2) (s : State) :
    Host.Outcome State Fault Refusal :=
  fpToInt false stl rd ra prec s

/-- fcvtF (R168). -/
def execFcvtF (stl : BitVec 3) (rd ra : BitVec 5) (prec : BitVec 2) (s : State) :
    Host.Outcome State Fault Refusal :=
  fpFromInt (fun x => x.toInt) stl rd ra prec s

/-- fcvtFu (R168). -/
def execFcvtFu (stl : BitVec 3) (rd ra : BitVec 5) (prec : BitVec 2) (s : State) :
    Host.Outcome State Fault Refusal :=
  fpFromInt (fun x => (x.toNat : Int)) stl rd ra prec s

/-- fcvt.p (R168): a widening or equal conversion consults no mode (R169); into FP16 or BF16 it is
a narrow conversion (R32, R33). -/
def execFcvtP (stl : BitVec 3) (rd ra : BitVec 5) (sprec prec : BitVec 2) (s : State) :
    Host.Outcome State Fault Refusal :=
  let dst := precFmt prec.toNat
  let exact := holdsAll (.flt dst) (.flt (precFmt sprec.toNat))
  fpu stl rd [ra] (!exact) 12 (fun s m =>
    let v := fpArg s sprec ra
    let c : Conv := ⟨⟨if exact then .rne else m, (me s).lfsr⟩, !exact && dst.width == 16, frmSat (me s)⟩
    let (b, fl) := dst.encode c v
    ⟨b, fl, !exact && m == .stoch && v.draws⟩) s

end Sys2Proof.Machine
end

