-- ==== Sys2Proof/Machine/VecOps.lean ====
section
/-! DEFINITION. Vector operands: window registers and stream names (R41, R112, R113, R173, R174),
stream status (R118, R120, R121), lanes, and how a vector result lands. -/

namespace Sys2Proof.Machine

/-! ### Streams -/

/-- The pipe a binding attaches to. -/
def pipeOf (s : State) (i : Tid) (b : Stream) : Option Pipe :=
  findPipe (tile s i.tile) (thr s i).troupe b.key

/-- A pipe's entries replaced. -/
def setPipeFifo (s : State) (i : Tid) (b : Stream) (q : List FifoEntry) : State :=
  let tr := (thr s i).troupe
  updTile s i.tile fun tl =>
    { tl with pipes := tl.pipes.map (fun p =>
        if p.troupe == tr && p.key == b.key then { p with fifo := q } else p) }

/-- Entries a binding holds. -/
def streamFill (s : State) (i : Tid) (b : Stream) : Nat :=
  if b.kind = 3 then ((pipeOf s i b).map (·.fifo.length)).getD 0
  else b.fifo.length + (if b.marked then 1 else 0)

/-- Whether the other end of a pipe has never attached (R117). -/
def pipeAlone (p : Pipe) (dir : Nat) : Bool :=
  if dir = 0 then p.writer.isNone && !p.ended else p.reader.isNone && !p.rgone

/-- STATE of a bound stream (R120). -/
def streamState (s : State) (i : Tid) (b : Stream) : Nat :=
  if b.st = 3 || b.marked then 3
  else if b.kind = 3 then
    match pipeOf s i b with
    | none => 2
    | some p =>
      if b.dir = 0 && p.ended && p.fifo.isEmpty then 2 else if pipeAlone p b.dir then 4 else 1
  else if b.count != 0 && decide (b.count ≤ b.pos) then 2 else 1

/-- The word of R120 for a stream name. -/
def sstatWord (s : State) (i : Tid) (n : Nat) : Word :=
  match smFind (thr s i).streams n with
  | none => 0
  | some b =>
    w64 (b.pos % 2 ^ 32 * 2 ^ 32 + b.kind * 2 ^ 28 + streamState s i b * 2 ^ 24
      + streamFill s i b * 2 ^ 16 + b.err)

/-- Whether a binding is popped (R115). -/
def Stream.isInput (b : Stream) : Bool := b.kind == 0 || b.kind == 2 || b.kind == 4
  || (b.kind == 3 && b.dir == 0)

/-- What one stream operation finds: it fails, it must wait, or it takes place. -/
inductive StreamRes where
  | bad
  | wait
  | ok (s : State) (e : FifoEntry)

/-- One entry popped from stream `n` (R112, R117, R118, R121). -/
def streamPop (s : State) (i : Tid) (n : Nat) : StreamRes :=
  match smFind (thr s i).streams n with
  | none => .bad
  | some b =>
    if !b.isInput then .bad
    else if b.kind = 3 then
      match pipeOf s i b with
      | none => .bad
      | some p =>
        match p.fifo with
        | e :: q => .ok (setPipeFifo (setStream s i n { b with pos := b.pos + 1 }) i b q) e
        | [] => if p.ended then .bad else .wait
    else if b.count != 0 && decide (b.count ≤ b.pos) then .bad
    else
      match b.fifo with
      | e :: q => .ok (setStream s i n { b with fifo := q, pos := b.pos + 1 }) e
      | [] => if b.marked then .bad else .wait

/-- One entry pushed to stream `n` (R112, R117, R118, R121). -/
def streamPush (s : State) (i : Tid) (n : Nat) (v : VWord) : StreamRes :=
  match smFind (thr s i).streams n with
  | none => .bad
  | some b =>
    if b.isInput || b.st = 3 then .bad
    else if b.kind = 3 then
      match pipeOf s i b with
      | none => .bad
      | some p =>
        let e : FifoEntry := { n := 0, v := v, bad := false }
        if 4 ≤ p.fifo.length then .wait
        else .ok (setPipeFifo (setStream s i n { b with pos := b.pos + 1 }) i b (p.fifo ++ [e])) e
    else if b.count != 0 && decide (b.count ≤ b.pos) then .bad
    else if 4 ≤ b.fifo.length then .wait
    else
      let e : FifoEntry := { n := b.pos, v := v, bad := false }
      .ok (setStream s i n { b with fifo := b.fifo ++ [e], pos := b.pos + 1 }) e

/-- Whether a binding's pushed entries are all performed or popped (R119): entries of a stream in
error stay unperformed, and a pipe whose read end has gone is popped by no one (log 16 [DEDUCED]). -/
def streamDrained (s : State) (i : Tid) (b : Stream) : Bool :=
  if b.isInput || b.st = 3 then true
  else if b.kind = 3 then
    match pipeOf s i b with
    | none => true
    | some p => p.fifo.isEmpty || p.rgone
  else b.fifo.isEmpty

/-! ### Window registers -/

/-- A window register of a thread. -/
def readWin (s : State) (i : Tid) (f : Nat) : VWord :=
  smGet 0 (tile s i.tile).vfile ((thr s i).vwBase + f)

/-- Whether reading a window register takes an uncorrectable word (R173). -/
def winBad (s : State) (i : Tid) (f : Nat) : Bool :=
  (tile s i.tile).vMarks.bad.any (fun w => w / 64 == (thr s i).vwBase + f)

/-- A window register of a thread written. -/
def writeWin (s : State) (i : Tid) (f : Nat) (v : VWord) : State :=
  let ph := (thr s i).vwBase + f
  updTile s i.tile fun t =>
    { t with vfile := smSet t.vfile ph v, vMarks := t.vMarks.keep (fun w => w / 64 != ph) }

/-- Whether a vector field names a stream (R41). -/
def isStream (f : BitVec 5) : Bool := 24 ≤ f.toNat

/-! ### Operands -/

/-- The source operands of a vector word: whether one waits, their values, the source of the first
that is uncorrectable (R314), and the state after the pops. -/
structure Pops where
  wait : Bool
  vs : List VWord
  bad : Option Nat
  s : State

/-- One more operand before those that follow it. -/
def Pops.before (wait : Bool) (v : VWord) (bad : Option Nat) (p : Pops) : Pops :=
  { p with wait := wait || p.wait, vs := v :: p.vs, bad := bad <|> p.bad }

/-- Pops in order (R113): the first failing field, or the operands; a window field gives its register. A
field that fails traps at once though an earlier field's stream must still wait, which the spec leaves open
(log 16 [DESIGN CHOICE]). -/
def popAll (i : Tid) : List (BitVec 5) → State → Except (BitVec 5) Pops
  | [], s => .ok { wait := false, vs := [], bad := none, s := s }
  | f :: fs, s =>
    if isStream f then
      match streamPop s i (f.toNat - 24) with
      | .bad => .error f
      | .wait => (popAll i fs s).map (Pops.before true 0 none)
      | .ok s' e => (popAll i fs s').map (Pops.before false e.v (if e.bad then some 5 else none))
    else
      (popAll i fs s).map
        (Pops.before false (readWin s i f.toNat) (if winBad s i f.toNat then some 3 else none))

/-- A trap STREAM for a field: TVAL holds its stream's word (R121). -/
def streamTrap (f : BitVec 5) (s : State) : Ret :=
  .trap .stream (sstatWord s s.cur (f.toNat - 24)) s

/-- The streams of the issuing thread and the pipes of its tile as they were (R113). -/
def undoPops (s0 s : State) : State :=
  updMe (updTile s s.cur.tile fun tl => { tl with pipes := (tile s0 s0.cur.tile).pipes })
    fun th => { th with streams := (me s0).streams }

/-- An issue's outcome when the streams `pops` have been popped: undone when the instruction traps or
issues again, and put off while a store's probe may still find a trap (R113); threads that wait for a pipe
look again. -/
def afterPops (s0 : State) (pops : List Nat) : Ret → Ret
  | .sleep (.probe ea bytes _) s => .sleep (.probe ea bytes pops) (undoPops s0 s)
  | .trap c v s => .trap c v (undoPops s0 s)
  | .sleep .retry s => .sleep .retry (undoPops s0 s)
  | .go s => .go (retryTile s s.cur.tile)
  | .goto pc s => .goto pc (retryTile s s.cur.tile)
  | .sleep w s => .sleep w (retryTile s s.cur.tile)
  | r => r

/-- An entry of no bytes. -/
def noEntry : FifoEntry := { n := 0, v := 0, bad := false }

/-- Vector operands: sources in the order of R113, and a destination field that must have room.
The body gets the values and the state after the pops. -/
def withVecs (srcs : List (BitVec 5)) (dst : Option (BitVec 5))
    (body : List VWord → State → Ret) (s : State) : Ret :=
  let i := s.cur
  match popAll i srcs s with
  | .error f => streamTrap f s
  | .ok p =>
    let push := match dst with
      | some f => if isStream f then streamPush s i (f.toNat - 24) 0 else .ok s noEntry
      | none => .ok s noEntry
    match push with
    | .bad => streamTrap (dst.getD 0) s
    | .wait => .sleep .stream s
    | .ok _ _ =>
      if p.wait then .sleep .stream s
      else
        match p.bad with
        | some k => .park k (chargeSram s i.tile 3)
        | none =>
          if (srcs ++ dst.toList).any isStream then
            afterPops s ((srcs.filter isStream).map (fun f => f.toNat - 24)) (body p.vs p.s)
          else body p.vs p.s

/-- How an understudy follows a word whose vector comes from outside: it takes the value from the
queue; a push into a stream is an action (R317, R318). -/
def takesVec (dst : BitVec 5) : PairAt := if isStream dst then .both else .takes (some (32 + dst.toNat))

/-- A vector result of latency `lat` for a destination field: a window register, or an entry
pushed (R112). -/
def putVec (stl : BitVec 3) (lat : Nat) (dst : BitVec 5) (v : VWord) (s : State) : State :=
  if isStream dst then
    match streamPush s s.cur (dst.toNat - 24) v with
    | .ok s' _ => updMe s' (flagsBy (s.cycle + lat))
    | _ => s
  else putV stl lat dst.toNat v s

/-- A vector result that arrives later, for a waiting thread and its understudy. -/
def vecLand (s : State) (i : Tid) (dst : Nat) (v : VWord) : State :=
  if dst < 24 then withShadow s i (fun s j => writeWin (landUpTo s j s.cycle) j dst v)
  else
    match streamPush s i (dst - 24) v with
    | .ok s' _ => retryTile s' i.tile
    | _ => s

/-! ### Lanes -/

/-- Bits of a lane of ET (R173). -/
def etBits (et : Nat) : Nat :=
  if et = 3 then 8 else if et = 0 || et = 4 then 64 else if et = 1 || et = 5 then 32 else 16

/-- Whether ET is a float type. -/
def etFloat (et : Nat) : Bool := 4 ≤ et

/-- The float format of a float ET. -/
def etFmt (et : Nat) : FFmt := ctFmt (et - 4)

/-- The lanes of a register, lane 0 first. -/
def lanes (w : Nat) (v : VWord) : List Nat := chunks w (4096 / w) v.toNat

/-- A register of lanes. -/
def ofLanes (w : Nat) (l : List Nat) : VWord := BitVec.ofNat 4096 (packChunks w l)

/-- An exact value rounded once into a format, with the draw it may take (R31, R166). -/
def roundTo (f : FFmt) (mode : RMode) (u : BitVec 32) (v : FVal × FlagSet) : FRes :=
  let (b, fl) := f.encode ⟨⟨mode, u⟩, false, false⟩ v.1
  ⟨b, v.2 ||| fl, mode == .stoch && v.1.draws⟩

/-- Lanes computed in ascending order: the generator steps once per rounded lane (R175). -/
def runLanes : List (BitVec 32 → FRes) → BitVec 32 → List Nat × FlagSet × BitVec 32
  | [], u => ([], 0, u)
  | f :: fs, u =>
    let r := f u
    let (l, fl, u') := runLanes fs (if r.drew then lfsrNext u else u)
    (r.bits :: l, r.fl ||| fl, u')

/-- A result with its flags and the generator's state, written or trapped (R175). -/
def vecDone (stl : BitVec 3) (lat : Nat) (dst : BitVec 5) (v : VWord) (fl : FlagSet)
    (u : BitVec 32) (s : State) : Ret :=
  withFlags fl (fun s => .go (putVec stl lat dst v (updMe s fun th => { th with lfsr := u }))) s

end Sys2Proof.Machine
end

