-- ==== Sys2Proof/Machine/MemEvents.lean ====
section
/-! DEFINITION. The memory system's own steps: slices (R73, R86, R94), the ports of scratchpads and
shared memories (R129, R130), memory-side units (R74), replies (R129, R235) and acknowledgements
(R243). -/

namespace Sys2Proof.Machine

/-! ### Packets -/

/-- The packet of a number. -/
def pktOf (s : State) (id : Nat) : Option Pkt := s.net.find? (fun k => k.id == id)

/-- A packet taken out of the net. -/
def dropPkt (s : State) (id : Nat) : State := { s with net := s.net.filter (fun k => k.id != id) }

/-! ### Replies -/

/-- The pointer an access waits with. -/
def Wait.ea : Wait → Word
  | .load _ _ _ ea => ea
  | .amo _ _ ea => ea
  | .vload _ _ ea => ea
  | .probe ea _ _ => ea
  | .spawn _ ea _ => ea
  | _ => 0

/-- PFCAUSE set by a failed translation (R89). -/
def setPfcause (s : State) (i : Tid) (sub : Nat) : State :=
  if sub = 0 then s
  else withShadow s i fun s j => updThr s j fun th => { th with pfcause := BitVec.ofNat 8 sub }

/-- A failed access of a thread (R89). -/
def failThread (s : State) (i : Tid) (f : Failure) (v : Word) : State :=
  trapPair (setPfcause s i f.sub) i f.cause v

/-- Refusals of spawn (R260). -/
def spawnFull : Word := 0x8000_0000_0000_0001
/-- The creation is denied. -/
def spawnDenied : Word := 0x8000_0000_0000_0002

/-- A spawned thread starts as after a fence of N toward every path (R231): its tile's loads find what is
performed before it (R232), as after a fence (log 14 [DESIGN CHOICE]). -/
def startFence (s : State) (j : Tid) : State := clearView s j.tile

/-- A spawn whose descriptor has come (R258 to R260). -/
def spawnLand (s : State) (i : Tid) (rd : Nat) (ea : Word) (arg : Option Word) (v : Nat) : State :=
  let th := thr s i
  let done := fun (s : State) (w : Word) => complete s i (fun th => setX th rd w)
  match parseDesc v with
  | none => trapPair s i .illegal ea
  | some d =>
    if th.priv < d.priv || (th.priv == 0 && d.troupe != th.troupe) then done s spawnDenied
    else
      let n : NewThread := { d := d, x4 := arg.getD d.arg, regs := [], asid := th.asid,
                             launch := th.launch, units := th.units, placed := false }
      match createThread s th.home true n with
      | none => done s spawnFull
      | some (j, s) =>
        let s := { startFence s j with launches := s.launches.map fun l =>
          if l.id = th.launch then { l with threads := l.threads ++ [j] } else l }
        done s (tidWord j)

/-- The value of an access written and its instruction completed. -/
def landWait (s : State) (i : Tid) (v : Nat) : Wait → State
  | .load rd size sgn _ => complete s i (fun th => setX th rd (extendLoad sgn size v))
  | .amo rd size _ => complete s i (fun th => setX th rd (amoResult size v))
  | .vload vd _ _ => complete (vecLand s i vd (BitVec.ofNat 4096 v)) i id
  | .spawn rd ea arg => spawnLand s i rd ea arg v
  | .value rd => complete s i (fun th => setX th rd (w64 v))
  | .vector vd => complete (vecLand s i vd (BitVec.ofNat 4096 v)) i id
  | .done => complete s i id
  | _ => s

/-- A reply delivered to its thread (R89, R129, R313). -/
def deliver (s : State) (i : Tid) (v : Nat) (bad : Option Nat) (fail : Option Failure) : State :=
  match (thr s i).wait? with
  | none => s
  | some w =>
    match fail, bad with
    | some f, _ => failThread s i f w.ea
    | none, some src => parkThread s i src
    | none, none => landWait s i v w

/-- A fetched unit enters the view, of 1,024 units shared with the write buffer; where there is no place
for it, other loads fetch theirs again (R234 to R236). -/
def enterView (s : State) (t k : Nat) (u : Unit64) : State :=
  if (smFind (tile s t).view k).isSome then s
  else
    match viewRoom s t with
    | some s => updTile s t fun tl => { tl with view := smSet tl.view k u }
    | none => refetch s t (· == k)

/-- A unit as a load returns it: the tile's own bytes over its view's, or over the fetched ones. -/
def loadedUnit (tl : Tile) (got : SMap (Unit64 × Bool)) (k : Nat) (own : Unit64) : Unit64 :=
  match smFind tl.view k, smFind got k with
  | some v, some _ => v.over own
  | _, some (u, _) => u.over own
  | _, none => own

/-- A global load whose units are there: its value, and the units that enter the view (R235). -/
def gloadLand (s : State) (i : Tid) (off n : Nat) (data : SMap Unit64) (got : SMap (Unit64 × Bool))
    (bad : Bool) : State :=
  let us := data.map (fun e => loadedUnit (tile s i.tile) got e.1 e.2)
  let s := got.foldl (fun s e =>
    if e.2.2 then enterView s i.tile e.1 e.2.1 else refetch s i.tile (· == e.1)) s
  deliver s i (spanValue off n us) (if bad then some 4 else none) none

/-- ACCESS_REPLY (R129, R235): a reply reaches its thread. -/
def execAccessReply (id : Nat) (s : State) : Host.Outcome State Fault Refusal :=
  match pktOf s id with
  | some ⟨_, i, _, .reply v bad fail⟩ => .next (deliver (dropPkt s id) i v bad fail)
  | some ⟨_, i, _, .gload off n _ _ [] _ data got bad⟩ =>
    .next (gloadLand (dropPkt s id) i off n data got bad)
  | _ => .next s

/-- One entry popped from each of some streams (R113). -/
def popStreams (s : State) (i : Tid) (pops : List Nat) : State :=
  pops.foldl (fun s n => match streamPop s i n with
    | .ok s _ => s
    | _ => s) s

/-- STORE_PROBE_REPLY (R133): the probe's answer is kept and the store enters the write buffer, or
its fault is taken. -/
def execStoreProbeReply (id : Nat) (s : State) : Host.Outcome State Fault Refusal :=
  match pktOf s id with
  | some ⟨_, i, _, .reply _ _ fail⟩ =>
    match (thr s i).wait? with
    | some (.probe ea bytes pops) =>
      let s := dropPkt s id
      match fail with
      | some f => .next (failThread s i f ea)
      | none =>
        let asid := (thr s i).asid
        let keys := (spanPages (pOff ea) bytes.length).map (pageKey asid)
        match storeSpan s i.tile asid (pOff ea) bytes.length (bytesNat bytes) with
        | none => .next (trapPair s i .phaseLogFull ea)
        | some s =>
          let keep := fun (tl : Tile) =>
            let ps := tl.probed.filter (fun k => !keys.contains k) ++ keys
            { tl with probed := ps.drop (ps.length - 64) }
          let s := noteStores s i (unitKeys asid (pOff ea) bytes.length)
          .next (retryTile (complete (popStreams (updTile s i.tile keep) i pops) i (fun th => th)) i.tile)
    | _ => .next s
  | _ => .next s

/-! ### Ports (R129, R130) -/

/-- Whether a body is an access at a port, not of a saved context. -/
def Body.atPort : Body → Bool
  | .port pl .. => decide (pl < savedBase)
  | _ => false

/-- Whether an access to a port is the oldest of its source and target (R129). -/
def oldestAtPort (s : State) (k : Pkt) : Bool :=
  match s.net.find? (fun q => q.src == k.src && q.tgt == k.tgt && q.body.atPort) with
  | some q => q.id == k.id
  | none => false

/-- The source byte of an uncorrectable word at a place (R314). -/
def placeSource (place : Nat) : Nat := if place < 1024 then 1 else 2

/-- The elements of one unit of a gather or scatter moved at a place; `put` writes an element (R187). -/
def gatherMove (place u : Nat) (put : State → Nat → Nat → State) (op : GatherOp) (s : State) :
    State × GatherOp :=
  let mine := op.els.filter (fun e => e.2 / 64 == u)
  let op' := { op with els := op.els.filter (fun e => e.2 / 64 != u) }
  if op.write then
    (mine.foldl (fun s e =>
      put s e.2 (op.v.toNat / 2 ^ (8 * op.sz * e.1) % 2 ^ (8 * op.sz))) s, op')
  else
    (s, mine.foldl (fun op e =>
      let (v, bad) := placeRead s place e.2 op.sz
      { op with got := smSet op.got e.1 v, bad := op.bad || bad }) op')

/-- The unit that a gather or scatter moves next at a bank: that of the lowest lane (R187). -/
def GatherOp.next (op : GatherOp) (bank : Nat) : Option Nat :=
  (op.els.find? (fun e => e.2 / 64 % 32 == bank)).map (fun e => e.2 / 64)

/-- A gather's vector (R186). -/
def GatherOp.value (op : GatherOp) : Nat :=
  packChunks (8 * op.sz) ((List.range (512 / op.sz)).map (smGet 0 op.got))

/-- An access applied at its port (R130): the state and what the packet becomes. -/
def portApply (s : State) (place off src : Nat) (posted : Option (Nat × Word)) :
    PortAcc → State × Body
  | .load size =>
    let (v, bad) := placeRead s place off size
    (if bad then chargeSram s place 3 else s,
      .reply v (if bad then some (placeSource place) else none) none)
  | .store bytes =>
    (placeWrite s place off bytes.length (bytesNat bytes) 0 src,
      .ack false (posted.map (·.1)) none)
  | .amo op size b c =>
    let (old, bad) := placeRead s place off size
    if bad then (chargeSram s place 3, .reply old (some (placeSource place)) none)
    else
      match amoNew op size old b.toNat c.toNat with
      | some v => (placeWrite s place off size v 1 src, .reply old none none)
      | none => (s, .reply old none none)
  | .gather op =>
    let (d, s) := draw s
    match (List.range 32).findSome? (fun b => op.next ((d + b) % 32)) with
    | some u =>
      let (s, op) := gatherMove place u (fun s o v => placeWrite s place o op.sz v 0 src) op s
      (s, .port place off (.gather op) src posted)
    | none =>
      (if op.bad then chargeSram s place 3 else s,
        .reply (if op.write then 0 else op.value)
          (if op.bad then some (placeSource place) else none) none)

/-- REMOTE_PORT_ACCESS (R130). -/
def execRemotePortAccess (id : Nat) (s : State) : Host.Outcome State Fault Refusal :=
  match pktOf s id with
  | some k =>
    match k.body with
    | .port place off acc src posted =>
      if oldestAtPort s k then
        let (s', b) := portApply s place off src posted acc
        .next (setBody s' id b)
      else .next s
    | _ => .next s
  | none => .next s

/-- The earlier of a recorded failure and a new one (R243). -/
def noteFail (old : Option (Nat × Word)) (id : Nat) : Option Word → Option (Nat × Word)
  | none => old
  | some v =>
    match old with
    | some (j, w) => if j ≤ id then some (j, w) else some (id, v)
    | none => some (id, v)

/-- A fence that waits issues again once nothing it waits for is left (R243, R246). -/
def fenceWake (s : State) (i : Tid) : State :=
  let th := thr s i
  match th.wait? with
  | some (.fence w n c _) =>
    if (w && th.postedW != 0) || (n && th.postedN != 0) || (c && pushesLeft th) then s
    else reissue s i
  | _ => s

/-- An acknowledgement counted (R129, R243). -/
def ackLand (s : State) (i : Tid) (id : Nat) (signal : Bool) (posted : Option Nat)
    (fail : Option Word) : State :=
  let s := match posted with
    | some t => retryTile (updTile s t fun tl => { tl with posted := tl.posted - 1 }) t
    | none => s
  let s := updThr s i fun th =>
    if signal then { th with postedN := th.postedN - 1, failN := noteFail th.failN id fail }
    else { th with postedW := th.postedW - 1, failW := noteFail th.failW id fail }
  fenceWake s i

/-- POSTED_ACK (R243). -/
def execPostedAck (id : Nat) (s : State) : Host.Outcome State Fault Refusal :=
  match pktOf s id with
  | some ⟨_, i, _, .ack signal posted fail⟩ =>
    .next (ackLand (dropPkt s id) i id signal posted fail)
  | _ => .next s

/-- The first place of vector register files in SEC_WRITEBACK. -/
def vfilePlace : Nat := 2048

/-- The first place of operand memories in SEC_WRITEBACK. -/
def opmemPlace : Nat := 4096

/-- SEC_WRITEBACK (R126, R173): a corrected word of an SRAM is written back: a scratchpad's at a place
below 1,024, the shared memory's of cluster `place - 1024` below 2,048, the vector register file's of
tile `place - 2048` below 4,096, from there the operand memory's of tile `place - 4096`. Its partition is
charged with the corrected error (R280, log 36 [DEDUCED]). -/
def execSecWriteback (place word : Nat) (s : State) : Host.Outcome State Fault Refusal :=
  let clean := fun (m : Marks) => { m with corr := m.corr.filter (· != word) }
  if place < 1024 then
    .next (updTile (chargeSram s place 1) place fun tl => { tl with spadMarks := clean tl.spadMarks })
  else if place < vfilePlace then
    .next (updCluster (chargeSram s place 1) (place - 1024) fun k =>
      { k with shmMarks := clean k.shmMarks })
  else if place < opmemPlace then
    let t := place - vfilePlace
    .next (updTile (chargeSram s t 1) t fun tl => { tl with vMarks := clean tl.vMarks })
  else
    let t := place - opmemPlace
    .next (updTile (chargeSram s t 1) t fun tl => { tl with opMarks := clean tl.opMarks })

/-- VIEW_DROP (R235): a unit with no unpublished byte leaves the view. -/
def execViewDrop (t key : Nat) (s : State) : Host.Outcome State Fault Refusal :=
  if (unpublished (tile s t)).contains key then .next s else .next (dropView s t (· == key))

/-! ### Slices (R73, R86) -/

/-- The 32 bytes of one half of a unit: the value with its poison, and whether a lost page gives
it. -/
inductive Half where
  | val (s : State) (v : Nat) (bad lost : Bool)
  | fail (s : State) (sub : Nat)
  | wait (s : State)

/-- One half read: bytes of a failed remote page come poisoned (R97). -/
def readHalf (s : State) (a : Acc) (off : Nat) : Half :=
  match gRead s a off 32 with
  | .ok s v b => .val s v b false
  | .fault s sub => if sub = 8 then .val s 0 true true else .fail s sub
  | .wait s => .wait s

/-- A unit's bytes for a load: the state, the data, whether bytes it needs and whether any bytes
are bad, and how many of them a lost page gives. -/
def readUnit (s : State) (a : Acc) (off : Nat) : Half × Half :=
  match readHalf s a off with
  | .val s v b l => (.val s v b l, readHalf s a (off + 32))
  | .fail s sub => (.fail s sub, .fail s sub)
  | .wait s =>
    match readHalf s a (off + 32) with
    | .val s' _ _ _ => (.wait s', .wait s')
    | .wait s' => (.wait s', .wait s')
    | .fail s' _ => (.wait s', .wait s')

/-- Whether a page is remote (R94). -/
def isRemote (t : Tlb) : Bool := pteState t.pte.toNat == 1

/-- A failure of a packet's access: the packet turns into its reply. -/
def failPkt (s : State) (id : Nat) (sub : Nat) : State :=
  setBody (fwdDone s id) id (.reply 0 none (some ⟨subCause sub, sub⟩))

/-- A load's packet after its next unit has come. -/
def gloadGot (s : State) (id : Nat) (b : Body) (v1 v2 : Nat) (p1 p2 lost : Bool) : State :=
  match b with
  | .gload off n asid priv (k :: todo) _ data got bad =>
    let own := (smGet Unit64.empty data k).mask.toNat
    let need := unitNeed off n k &&& (own ^^^ fullMask 64)
    let take := (p1 && need % 2 ^ 32 != 0) || (p2 && need / 2 ^ 32 != 0)
    let u : Unit64 := ⟨BitVec.ofNat 512 (v1 + v2 * 2 ^ 256), BitVec.allOnes 64⟩
    let got' := smSet got k (u, !(p1 || p2))
    if lost && take then failPkt s id 8
    else setBody (fwdDone s id) id (.gload off n asid priv todo false data got' (bad || take))
  | _ => s

/-- A load's next unit at its slice. -/
def gloadStep (s : State) (id : Nat) (b : Body) : State :=
  match b with
  | .gload off n asid priv (k :: todo) fill data got bad =>
    let a : Acc := { asid := asid, priv := priv, write := false, fetch := false, client := id }
    let o := unitOff k
    let read := fun (s : State) => match readUnit s a o with
      | (.val _ v1 p1 l1, .val s v2 p2 l2) => gloadGot s id b v1 v2 p1 p2 (l1 || l2)
      | (_, .wait s') => keepRequests s s'
      | (_, .fail s sub) => failPkt s id sub
      | (_, _) => s
    if fill then s
    else if (readsHad s a o 32).isSome || (readsHad s a (o + 32) 32).isSome then read s
    else if s.heldPages.contains (pageKey asid o) then s
    else
      match translate s a o with
      | (s, .error sub) => failPkt s id sub
      | (s, .ok t) =>
        if isRemote t || pteNC t.pte.toNat || lineHas s asid o 64 then read s
        else setBody s id (.gload off n asid priv (k :: todo) true data got bad)
  | _ => s

/-- A store's probe at its slice: the translation as a write (R133). -/
def probeStep (s : State) (id off n : Nat) (asid : BitVec 16) (priv : Nat) : State :=
  let a : Acc := { asid := asid, priv := priv, write := true, fetch := false, client := id }
  let ps := spanPages off n
  if ps.any (fun o => s.heldPages.contains (pageKey asid o)) then s
  else
    match pagesTest s a ps with
    | (s, 0) => setBody s id (.reply 0 none none)
    | (s, sub) => failPkt s id sub

/-- Whether the slice's dirty copy of a sector may not go back yet: an op packet other than `id` holds
bytes of the sector at its unit (R77). -/
def sectorHeld (s : State) (id : Nat) (asid : BitVec 16) (off : Nat) : Bool :=
  match smFind s.lines (lineKey asid off) with
  | none => false
  | some l =>
    let k := off % 256 / 32
    l.dirty.getLsbD k && opHeld s id (l.pa + 32 * k) 32

/-- A slice writes back its dirty copy of a sector and invalidates it (R74). -/
def expelSector (s : State) (asid : BitVec 16) (off : Nat) : State :=
  let key := lineKey asid off
  match smFind s.lines key with
  | none => s
  | some l =>
    let bit : BitVec 8 := BitVec.ofNat 8 (2 ^ (off % 256 / 32))
    let s := writebackLine s (asidPart asid) { l with dirty := l.dirty &&& bit }
    let l := { l with valid := l.valid &&& ~~~bit, dirty := l.dirty &&& ~~~bit,
                      poison := l.poison &&& ~~~bit }
    { s with lines := if l.valid = 0 then smDel s.lines key else smSet s.lines key l }

/-- A global atomic at its slice (R74, R94, R136). -/
def gamoStep (s : State) (id off : Nat) (asid : BitVec 16) (priv : Nat) (op size : Nat)
    (b c : Word) : State :=
  let wr := op != 0x0E
  let a : Acc := { asid := asid, priv := priv, write := wr, fetch := false, client := id }
  match s.fwds.find? (fun q => q.client == id && q.answer.isSome) with
  | some q =>
    match q.answer with
    | some (.value v) =>
      setBody (fwdDone s id) id
        (.reply (v % 2 ^ 256) (if 2 ^ 256 ≤ v then some 4 else none) none)
    | some (.refused f) => failPkt s id f.sub
    | _ => failPkt s id 8
  | none =>
  if s.heldPages.contains (pageKey asid off) then s
  else
    match translate s a off with
    | (s, .error sub) => failPkt s id sub
    | (s, .ok t) =>
      if isRemote t then
        let s' := fwdAsk s a (pteOwner t.pte.toNat) (off / 32) (.amo op size b c (off % 32))
        if s'.fresh = s.fresh then s else countAccess s' t
      else if unitBusy s id (pteGran t.pte.toNat) (leafPa t.pte.toNat t.big off) then s
      else
        let s := expelSector (if wr then setDirty s t else s) asid off
        setBody s id (.gamo off asid priv op size b c (some (leafPa t.pte.toNat t.big off))
          (pteGran t.pte.toNat))

/-- Whether a function's request is its oldest (R347). -/
def vfOldest (s : State) (id fn : Nat) : Bool :=
  match s.net.find? (fun k => match k.body with
      | .vf f .. => f == fn
      | _ => false) with
  | some k => k.id == id
  | none => false

/-- A virtual function's request at its slices: it is served, or gets an error completion that
changes nothing (R347). -/
def vfStep (s : State) (id : Nat) (asid : BitVec 16) (write : Bool) (off size data : Nat) :
    State :=
  let a : Acc := { asid := asid, priv := 3, write := write, fetch := false, client := id }
  if 2 ^ 52 < off + size then dropPkt s id
  else
    match (if write then gWrite s a off size data (fullMask size) else gRead s a off size) with
    | .ok s' _ _ => dropPkt (fwdDone s' id) id
    | .fault _ _ => dropPkt (fwdDone s id) id
    | .wait s' => keepRequests s s'

/-- SLICE_ACCESS (R86): an access at the slice that owns its line. -/
def execSliceAccess (id : Nat) (s : State) : Host.Outcome State Fault Refusal :=
  match pktOf s id with
  | some k =>
    match k.body with
    | .gload .. => .next (gloadStep s id k.body)
    | .probe off n asid priv => .next (probeStep s id off n asid priv)
    | .gamo off asid priv op size b c none _ => .next (gamoStep s id off asid priv op size b c)
    | .vf fn asid write off size data =>
      .next (if vfOldest s id fn then vfStep s id asid write off size data else s)
    | _ => .next s
  | none => .next s

/-- SECTOR_FILL (R73): the sectors a waiting load needs come from HBM4E. -/
def execSectorFill (id : Nat) (s : State) : Host.Outcome State Fault Refusal :=
  match pktOf s id with
  | some k =>
    match k.body with
    | .gload off n asid priv (u :: todo) true data got bad =>
      let a : Acc := { asid := asid, priv := priv, write := false, fetch := false, client := id }
      let o := unitOff u
      let s := match translate s a o with
        | (s, .error _) => s
        | (s, .ok t) =>
          if isRemote t || pteNC t.pte.toNat then s else fillLine s t o (sectorsOf o 64)
      .next (setBody s id (.gload off n asid priv (u :: todo) false data got bad))
    | _ => .next s
  | none => .next s

/-- SECTOR_WRITEBACK (R73): a slice writes a line's dirty sectors back and keeps it. Sectors whose bytes
an op packet holds at their unit go back after its reply (R77). -/
def execSectorWriteback (key : Nat) (s : State) : Host.Outcome State Fault Refusal :=
  .next (if lineHeld s key then s else flushLine s key true)

/-- An atomic on 4 or 8 bytes at a physical address: the old value, whether it was bad (then
nothing is written), and the new state (R74). -/
def memAmo (s : State) (asid : BitVec 16) (gran pa op size : Nat) (b c : Word) :
    Nat × Bool × State :=
  let ((v, code), s) := sectorFetch s (some (asidPart asid)) gran (pa / 65536) (pa % 65536 / 32)
  let old := getBytes v (pa % 32) size
  if 2 ≤ code then (old, true, s)
  else
    match amoNew op size old b.toNat c.toNat with
    | some w => (old, false, gateTouched s { s with hbm := physWrite s.hbm gran pa size w } pa)
    | none => (old, false, s)

/-- MEMORY_SIDE_AMO (R74, R242). -/
def execMemorySideAmo (id : Nat) (s : State) : Host.Outcome State Fault Refusal :=
  match pktOf s id with
  | some k =>
    match k.body with
    | .gamo off asid _ op size b c (some pa) gran =>
      let (old, bad, s) := memAmo (expelSector s asid off) asid gran pa op size b c
      .next (setBody s id (.reply old (if bad then some 4 else none) none))
    | _ => .next s
  | none => .next s

end Sys2Proof.Machine
end

