-- ==== Sys2Proof/Machine/EngineOps.lean ====
section
/-! DEFINITION. What the four engine ports share: commands with their snapshots (R101, R202),
status words (R80, R104, R214, R224), status codes (R109, R213), and how a command ends. -/

namespace Sys2Proof.Machine

/-! ### Status words -/

/-- The status word of a port (R80, R104, R214, R224). -/
def portWord (port : Nat) (p : PortStat) : Word :=
  if port = 3 then w64 (p.lastst % 256 * 2 ^ 16 + p.outst % 65536)
  else
    w64 (p.done % 2 ^ 32 * 2 ^ 32 + p.lastst % 65536 * 2 ^ 16 + p.flushed % 256 * 2 ^ 8
      + p.outst % 256)

/-- The status fields of a thread's port. -/
def portStat (s : State) (i : Tid) (port : Nat) : PortStat :=
  smGet PortStat.zero (thr s i).ports port

/-- A thread's port status changed. -/
def updPort (s : State) (i : Tid) (port : Nat) (f : PortStat → PortStat) : State :=
  updThr s i fun th => { th with ports := smUpd PortStat.zero th.ports port f }

/-- One more command outstanding. -/
def portMore (s : State) (i : Tid) (port : Nat) : State :=
  updPort s i port fun p => { p with outst := p.outst + 1 }

/-- One command less outstanding. -/
def portLess (s : State) (i : Tid) (port : Nat) : State :=
  updPort s i port fun p => { p with outst := p.outst - 1 }

/-- A failed command recorded (status and DONE), and the word that the ENGINE trap holds. -/
def portFail (s : State) (i : Tid) (port st done : Nat) : State × Word :=
  let f := fun (p : PortStat) => { p with done := done, lastst := st }
  (updPort s i port f, portWord port (f (portStat s i port)))

/-- A refused post or flush: the error mark and LASTST; DONE stays that of the last failed task (R223,
R224). -/
def postFail (s : State) (i : Tid) (cue : CueRef) (st : Nat) : State :=
  let (s, w) := portFail s i 2 st (portStat s i 2).done
  cueComplete s cue (some w)

/-- A command's signal: 1, with the error mark and the port's word after a failure of this status
and DONE (R42, R201). -/
def cmdSignal (s : State) (i : Tid) (port : Nat) (cue : CueRef) (fail : Option (Nat × Nat)) :
    State :=
  match fail with
  | none => cueComplete s cue none
  | some (st, done) =>
    let (s, w) := portFail s i port st done
    cueComplete s cue (some w)

/-! ### Commands -/

/-- The snapshots of the issuing thread for a command with this TAG (R101, R202). -/
def takeSnap (s : State) (tag : BitVec 4) : Snap :=
  let th := me s
  { tid := s.cur, home := th.home, displaced := displaced s.cur th, asid := th.asid,
    priv := th.priv, frm := th.frm, lfsr := th.lfsr, vwSize := th.vwSize,
    e := (List.range 8).map (smGet 0 th.e), cue := tagCue s.cur th tag.toNat, task := none }

/-- A new command of the issuing thread. -/
def newCommand (s : State) (port cmd : Nat) (tag : BitVec 4) (a b : Word) : Command × State :=
  let (n, s) := freshId s
  ({ id := n, port := port, cmd := cmd, a := a, b := b, snap := takeSnap s tag, done := 0,
     started := false, srcA := 0, srcB := 0, scales := none, seen := [] }, s)

/-- The accesses of a command of the home tile `home`: writes to scratchpads are traced with kind
`kind`; `own` traces those to the home scratchpad too. -/
def cmdAgent (s : State) (c : Command) (home kind : Nat) (own : Bool) : Agent :=
  { acc := { asid := c.snap.asid, priv := c.snap.priv, write := false, fetch := false,
             client := c.id },
    st := standing s home c.snap.asid, home := home, src := ltileOf s home,
    kindHome := if own then some kind else none, kindFar := kind,
    path := if c.port = 0 then 3 else 2, cmd := c.id, seen := c.seen }

/-- The status code of a failed access (R109, R213): the cause and its sub-cause. -/
def accStatus (c : Cause) (sub : Nat) : Nat := c.code * 256 + sub

/-- The status of an uncorrectable word. -/
def stUncorr : Nat := 0x0D00

/-- The earliest row of a refusal table that applies. -/
def refusal (l : List (Bool × Nat)) : Option Nat := (l.find? (·.1)).map (·.2)

/-- Why `n` bytes at a pointer cannot be reached, before translation (R18, R128). -/
def unreachable (s : State) (g : Agent) (p : Word) (n : Nat) : Option Cause :=
  match resolve s g.st g.home (some g.home) p n with
  | .error c => some c
  | .ok _ => none

/-- A thread whose command has been accepted goes on, wherever its context lies (R330). -/
def acceptThread (s : State) (c : Command) : State :=
  let (s, i) := followTid 16 s c.snap.tid
  if (thr s i).wait? == some (.accept c.port) then complete s i id else s

/-- The rounding mode of a command's snapshot (R30). -/
def Snap.mode (p : Snap) : Option RMode := rmodeOf (p.frm.toNat % 8)

/-- FRM.SAT of a command's snapshot. -/
def Snap.sat (p : Snap) : Bool := bitOf p.frm.toNat 3

end Sys2Proof.Machine
end

