-- ==== Sys2Proof/Machine/Thr.lean ====
section
/-! DEFINITION. The thread instructions (R258 to R262). -/

namespace Sys2Proof.Machine

/-- A result that answers at once to a thread that deschedules for it. -/
def answer (rd : Nat) (v : Word) (s : State) : Ret :=
  .sleep (.value rd) (send s s.cur 0 (.reply v.toNat none none))

/-- A descheduling operation that is done at once. -/
def answered (s : State) : Ret := .sleep .done (send s s.cur 0 (.reply 0 none none))

/-- spawn (R260): the descriptor is read as a thread load reads it, then `spawnLand` creates. -/
def execSpawn (stl : BitVec 3) (rd ra rb : BitVec 5) (s : State) :
    Host.Outcome State Fault Refusal :=
  run stl { xs := [rd, ra, rb] } (fun s =>
    let p := rx s ra
    let w : Wait := .spawn rd.toNat p (if rb = 0 then none else some (rx s rb))
    if pOff p % 64 != 0 then .trap .misalign p s
    else
      match threadTarget s s.cur p 64 with
      | .error c => .trap c p s
      | .ok (.here o) =>
        let s := hereAt o 64 s
        let (v, bad) := spadRead s s.cur.tile o 64
        .sleep w (send (if bad then chargeSram s s.cur.tile 3 else s) s.cur 0
          (.reply v (if bad then some 1 else none) none))
      | .ok (.far pl o) =>
        .sleep w (send s s.cur pl (.port pl o (.load 64) (ltileOf s (me s).home) none))
      | .ok (.glob o) => .sleep w (globalLoad s o 64)) s

/-- The thread an identifier names, if its reserved bits are zero (R10, R260). -/
def targetTid (s : State) (w : Word) : Option Tid :=
  if w.toNat / 2 ^ 19 = 0 then some (resolveTid s (tidOf w)) else none

/-- Whether join and detach refuse a target (R262): a free slot, another home tile, the issuer, an
understudy, or a thread that another join waits for. -/
def joinRefused (s : State) (j : Tid) : Bool :=
  let t := thr s j
  t.absent || t.shadow || t.home != (me s).home || j == s.cur || (joinerOf s j).isSome

/-- A slot becomes free. -/
def freeSlot (s : State) (j : Tid) : State := setThr s j Thread.none

/-- join (R260, R261). -/
def execJoin (stl : BitVec 3) (rd ra : BitVec 5) (s : State) : Host.Outcome State Fault Refusal :=
  run stl { xs := [rd, ra], pair := .takes (some rd.toNat) } (fun s =>
    match targetTid s (rx s ra) with
    | none => .trap .illegal (rx s ra) s
    | some j =>
      let t := thr s j
      if joinRefused s j || t.detached then .trap .illegal (rx s ra) s
      else if t.st = .parked then answer rd.toNat parkedValue s
      else if t.exited then answer rd.toNat t.exitVal (freeSlot s j)
      else .sleep (.join rd.toNat j) s) s

/-- exit (R260, R261): it waits as sunbind does for what its streams have pushed (R119, R121). -/
def execExit (stl : BitVec 3) (ra : BitVec 5) (s : State) : Host.Outcome State Fault Refusal :=
  run stl { xs := [ra] } (fun s =>
    if (me s).streams.all (fun e => streamDrained s s.cur e.2) then
      .stay (endThread s s.cur (rx s ra))
    else .sleep .retry s) s

/-- yield (R260). -/
def execYield (stl : BitVec 3) (s : State) : Host.Outcome State Fault Refusal :=
  run stl {} (fun s => .go (updMe s fun th => { th with yielded := true })) s

/-- prio (R260): the boost stays (R255). -/
def execPrio (stl : BitVec 3) (ra : BitVec 5) (s : State) : Host.Outcome State Fault Refusal :=
  run stl { xs := [ra] } (fun s =>
    .go (updMe s fun th => { th with prio := min (rx s ra).toNat 7 })) s

/-- tid (R10, R260). -/
def execTid (stl : BitVec 3) (rd : BitVec 5) (s : State) : Host.Outcome State Fault Refusal :=
  run stl { xs := [rd], pair := .takes (some rd.toNat) } (fun s =>
    .go (putX stl 4 rd (tidWord s.cur) s)) s

/-- detach (R260). -/
def execDetach (stl : BitVec 3) (ra : BitVec 5) (s : State) : Host.Outcome State Fault Refusal :=
  run stl { xs := [ra] } (fun s =>
    match targetTid s (rx s ra) with
    | none => .trap .illegal (rx s ra) s
    | some j =>
      if joinRefused s j then .trap .illegal (rx s ra) s
      else if (thr s j).exited then answered (freeSlot s j)
      else answered (updThr s j fun t => { t with detached := true })) s

/-- The tile that holds the context an identifier names, along the forwarding entries of vacated
tiles (R330). -/
def contextTile (s : State) (j : Tid) : Nat :=
  if departed s j then (followTid 16 s j).2.tile else j.tile

/-- The partition and logical cluster of a tile: by its logical tile, or, for a vacated tile, by its
cluster (R277, R389). -/
def tileOwner (s : State) (t : Nat) : Option (Nat × Nat) :=
  match tilePart s t with
  | some (p, lt) => some (p, (ltileCluster s p lt).getD 0)
  | none =>
    (s.parts.filter (fun e => e.2.valid)).findSome? fun e =>
      (e.2.cmap.findIdx? (· == tileCluster t)).map (fun l => (e.1, l))

/-- Whether a tile lies where the issuer's kill and send may name threads: its partition, or any
tile for a thread on a partitionless tile (R262, R268, R389). -/
def samePartition (s : State) (t : Nat) : Bool :=
  match tilePart s (me s).home with
  | none => true
  | some (p, _) => (tileOwner s t).map (·.1) == some p

/-- The exit value of a killed thread (R260). -/
def killedValue : Word := 0xFFFF_FFFF_FFFF_FFFF

/-- kill (R260 to R262). -/
def execKill (stl : BitVec 3) (ra : BitVec 5) (s : State) : Host.Outcome State Fault Refusal :=
  run stl { priv := 1, xs := [ra] } (fun s =>
    match targetTid s (rx s ra) with
    | none => .trap .illegal (rx s ra) s
    | some j0 =>
      let j := if (thr s j0).shadow then ⟨j0.tile, (thr s j0).partner⟩ else j0
      let t := thr s j
      if !samePartition s j.tile then .trap .addr (rx s ra) s
      else if t.absent then .trap .illegal (rx s ra) s
      else if t.ended || t.st = .parked then answered s
      else if j = s.cur then .stay (endThread s j killedValue)
      else answered (endThread s j killedValue)) s

end Sys2Proof.Machine
end

