-- ==== Sys2Proof/Machine/Swap.lean ====
section
/-! DEFINITION. The swap engines (R78 to R80, R96, R98, R349): page lists, the frame pool, pages to
and from flash, and pages pulled from remote owners. -/

namespace Sys2Proof.Machine

/-! ### Commands (R79) -/

/-- swpin. -/
def cmdSwpin : Nat := 0
/-- swpout. -/
def cmdSwpout : Nat := 1
/-- swppull. -/
def cmdSwppull : Nat := 2

/-- STATUS codes of an entry (R78). -/
def swState : Nat := 1
/-- NOFRAME. -/
def swNoFrame : Nat := 2
/-- FLASH. -/
def swFlash : Nat := 3
/-- LOST. -/
def swLost : Nat := 4
/-- GRAN. -/
def swGran : Nat := 5
/-- ALIGN. -/
def swAlign : Nat := 6
/-- FAULT. -/
def swFault : Nat := 7
/-- BUSY. -/
def swBusy : Nat := 8
/-- LASTST of an entry that could not be read or whose STATUS could not be written. -/
def swUnread : Nat := 0xFE
/-- LASTST of a refused command. -/
def swRefused : Nat := 0xFF

/-- The die of a tile (R9). -/
def tileDie (t : Nat) : Nat := t / 256

/-- The issue of a port-3 command (R79). -/
def swapIssue (cmd : Nat) (stl : BitVec 3) (tag : BitVec 4) (ra rb : BitVec 5) (s : State) :
    Host.Outcome State Fault Refusal :=
  run stl { xs := [ra, rb], res := [(ra, 5)], kind := 3 } (fun s =>
    let (c, s) := newCommand s 3 cmd tag (rx s ra) (rx s rb)
    let s := portMore s s.cur 3
    .sleep (.accept 3) { s with swapArrivals := s.swapArrivals ++ [(tileDie (me s).home, c)] }) s

/-- swpin (R79). -/
def execSwpin (stl : BitVec 3) (tag : BitVec 4) (ra rb : BitVec 5) (s : State) :
    Host.Outcome State Fault Refusal :=
  swapIssue cmdSwpin stl tag ra rb s

/-- swpout (R79). -/
def execSwpout (stl : BitVec 3) (tag : BitVec 4) (ra rb : BitVec 5) (s : State) :
    Host.Outcome State Fault Refusal :=
  swapIssue cmdSwpout stl tag ra rb s

/-- swppull (R79). -/
def execSwppull (stl : BitVec 3) (tag : BitVec 4) (ra rb : BitVec 5) (s : State) :
    Host.Outcome State Fault Refusal :=
  swapIssue cmdSwppull stl tag ra rb s

/-- Whether a command is refused (R79). -/
def swapRefused (c : Command) : Bool :=
  let p := c.a
  let n := c.b.toNat
  let limit := if pSpace p = 0 then 2 ^ 52 else spadSize
  n = 0 || decide (4096 < n) || pOff p % 32 != 0 || !(pSpace p == 0 || pSpace p == 2)
    || decide (limit < pOff p + 32 * n)
    || (c.cmd != cmdSwppull && !Config.volumeOk (asidPart c.snap.asid) (c.e 0))

/-- An entry of a command that nothing has been done for. -/
def SwapEntry.fresh (id : Nat) (c : Command) (i : Nat) : SwapEntry :=
  { id := id, cmd := c.id, op := c.cmd, rec_ := pWith c.a (pOff c.a + 32 * i), vol := w64 (c.e 0),
    snap := c.snap, stage := 0, page := 0, pteAt := 0, va := 0, flash := 0, len := 0, gran := 0,
    frame := 0, place := 0, unitsLeft := 0, status := 0 }

/-- SWAP_ACCEPT (R79): the die's engine takes its oldest command into its queue of 64, or refuses
it. -/
def execSwapAccept (die : Nat) (s : State) : Host.Outcome State Fault Refusal :=
  match s.swapArrivals.find? (fun e => e.1 == die) with
  | none => .next s
  | some (_, c) =>
    if 64 ≤ (s.swapQueue.filter (fun e => e.1 == die)).length then .next s
    else
      let s := { s with swapArrivals := s.swapArrivals.filter (fun e => e.2.id != c.id) }
      if swapRefused c then
        let (s, i) := followTid 16 s c.snap.tid
        .next (acceptThread (cmdSignal (portLess s i 3) i 3 c.snap.cue (some (swRefused, 0)))
          { c with snap := { c.snap with tid := i } })
      else
        let n := c.b.toNat
        let es := (List.range n).map (fun i => SwapEntry.fresh (s.fresh + i) c i)
        .next (acceptThread { s with
          swapQueue := s.swapQueue ++ [(die, c)], swapEntries := s.swapEntries ++ es,
          fresh := s.fresh + n } c)

/-! ### The frame pool (R98) -/

/-- A doubleword of a partition's pool descriptor. -/
def pool64 (s : State) (p i : Nat) : Nat := table64 s (poolOff p + 8 * i)

/-- Whether a partition has a pool. -/
def poolValid (s : State) (p : Nat) : Bool := bitOf (pool64 s p 0) 63

/-- A return place reserved: its number (R98). -/
def poolReserve (s : State) (p : Nat) : Option (Nat × State) :=
  let tail := pool64 s p 4 % 2 ^ 32
  let head := pool64 s p 5 % 2 ^ 32
  if poolValid s p && decide ((tail + 2 ^ 32 - head) % 2 ^ 32 < 2 ^ (pool64 s p 3 % 32)) then
    some (tail, putTable64 s (poolOff p + 32) ((tail + 1) % 2 ^ 32))
  else none

/-- A frame taken from the alloc ring (R98). -/
def poolTake (s : State) (p : Nat) : Option (Nat × State) :=
  let head := pool64 s p 1 % 2 ^ 32
  let tail := pool64 s p 2 % 2 ^ 32
  if poolValid s p && head != tail then
    let d0 := pool64 s p 0
    let at_ := field d0 39 12 * 4096 + 8 * (head % 2 ^ (d0 % 32))
    some (phys64 s.hbm (at_ % 2 ^ 40) % 2 ^ 24,
      putTable64 (physNote s 0 (at_ % 2 ^ 40)) (poolOff p + 8) ((head + 1) % 2 ^ 32))
  else none

/-- A reserved return place written: the freed frame, or NONE (R98). -/
def poolReturn (s : State) (p place : Nat) (frame : Option Nat) : State :=
  let d3 := pool64 s p 3
  let at_ := field d3 39 12 * 4096 + 8 * (place % 2 ^ (d3 % 32))
  let v := match frame with
    | some f => 2 ^ 63 + f % 2 ^ 24
    | none => 2 ^ 63 + 2 ^ 62
  physStore s 0 (at_ % 2 ^ 40) 8 v

/-! ### Pages -/

/-- A doubleword of a table entry changed physically. -/
def setPte (s : State) (at_ : Nat) (f : Nat → Nat) : State :=
  physStore s 0 at_ 8 (f (phys64 s.hbm at_))

/-- A field of a number replaced. -/
def withField (n hi lo v : Nat) : Nat :=
  n - field n hi lo * 2 ^ lo + v % 2 ^ (hi + 1 - lo) * 2 ^ lo

/-- A leaf made resident in a frame (R79). -/
def pteResident (frame : Nat) (e : Nat) : Nat :=
  withField (withField e 63 62 0) 39 15 (frame * 2)

/-- Every slice drops its translations of a page, their counts added first (R95). -/
def dropPage (s : State) (asid : BitVec 16) (page : Nat) : State :=
  dropTlbs s fun t => t.asid == asid &&
    (if t.big then t.page / 4096 == page / 4096 else t.page == page)

/-- Every slice writes back and drops its lines of a page. -/
def expelPage (s : State) (asid : BitVec 16) (page : Nat) : State :=
  (smKeys s.lines).foldl (fun s k =>
    if k / 256 = asid.toNat * 2 ^ 36 + page then flushLine s k false else s) s

/-- Whether a dirty sector of a page may not be written back yet (R77). -/
def pageHeld (s : State) (asid : BitVec 16) (page : Nat) : Bool :=
  (smKeys s.lines).any fun k => k / 256 == asid.toNat * 2 ^ 36 + page && lineHeld s k

/-- `n` sectors of a frame read by their controllers from sector `i`, in whole granules (R71). -/
def readSectors (s : State) (p gran f i n : Nat) : State :=
  (List.range (n / granP gran)).foldl (fun s g =>
    (granFetch s (some p) gran f (i + g * granP gran)).2) s

/-- `n` sectors written from sector `i` of a frame, in whole granules; `bad` marks those that are
poisoned, bit by bit. -/
def putSectors (h : Memory) (gran f i n v bad : Nat) : Memory :=
  let p := granP gran
  (List.range (n / p)).foldl (fun h g =>
    sectorsWrite h gran f (i + g * p) ((List.range p).map (fun k =>
      (k, v / 2 ^ (256 * (g * p + k)) % 2 ^ 256, bitOf bad (g * p + k))))) h

/-- The key of a page that accesses are held for (R96). -/
def swapKey (e : SwapEntry) : Nat := e.snap.asid.toNat * 2 ^ 36 + e.page

/-- A slot of the entry list replaced. -/
def setEntry (s : State) (e : SwapEntry) : State :=
  { s with swapEntries := s.swapEntries.map (fun x => if x.id = e.id then e else x) }

/-! ### An entry's end (R79) -/

/-- How an engine reaches its list and the STATUS words in it: from outside the tile on path C, with its
writes logged as remote stores (R147, R225). -/
def swapAgent (s : State) (e : SwapEntry) : Agent :=
  { acc := { asid := e.snap.asid, priv := e.snap.priv, write := false, fetch := false,
             client := e.id },
    st := standing s e.snap.home e.snap.asid, home := e.snap.home,
    src := ltileOf s e.snap.home, kindHome := some 0, kindFar := 0, path := 2 }

/-- An access of an engine to its list counted at the tile that the list has left, where it lies in the
home scratchpad (R330). -/
def swapVia (s : State) (e : SwapEntry) : State := if pSpace e.rec_ = 2 then countVia s e.cmd else s

/-- An entry gone; its command completes with its last entry. -/
def swapGone (s : State) (e : SwapEntry) : State :=
  let s := fwdDone { s with swapEntries := s.swapEntries.filter (fun x => x.id != e.id) } e.id
  if s.swapEntries.any (fun x => x.cmd == e.cmd) then s
  else portLess { dropVia s e.cmd with swapQueue := s.swapQueue.filter (fun c => c.2.id != e.cmd) }
    e.snap.tid 3

/-- The signal of an entry that ends with LASTST `st`, 0 for DONE; a completion for a migrated
context is forwarded (R330). -/
def swapSignal (s : State) (e : SwapEntry) (st : Nat) : State :=
  let (s, i) := followTid 16 s e.snap.tid
  let e := { e with snap := { e.snap with tid := i } }
  cmdSignal (swapGone s e) e.snap.tid 3 e.snap.cue (if st = 0 then none else some (st, 0))

/-- The stage of an entry that has ended while it held its page, which it holds until its STATUS is
written. -/
def swHolds : Nat := 4
/-- The stage of an entry that has ended without having passed the BUSY check. -/
def swFree : Nat := 5

/-- STATUS of an ended entry written, and the entry signalled; the write may have to wait, with every
effect of the entry performed (R79). -/
def swapStatus (s : State) (e : SwapEntry) : State :=
  match agentWrite s (swapAgent s e) (pWith e.rec_ (pOff e.rec_ + 20)) 4 e.status with
  | .ok s _ _ => swapSignal (swapVia s e) e e.status
  | .fail s _ _ => swapSignal (swapVia s e) e swUnread
  | .wait s' => keepRequests s s'

/-- An entry whose work has ended with STATUS `st`. -/
def swapEnd (s : State) (e : SwapEntry) (stage st : Nat) : State :=
  let e := { e with stage := stage, status := st }
  swapStatus (setEntry s e) e

/-! ### Pulls (R79, R96, R97) -/

/-- The next 512 bytes of a pull asked of the owner. -/
def pullAsk (s : State) (e : SwapEntry) : State :=
  let (tag, s) := freshTag s
  let p := asidPart e.snap.asid
  let off := e.page * 65536 + 512 * (128 - e.unitsLeft)
  let aspc := e.snap.asid.toNat % 4096
  let o : Outst := { rtag := tag, id := s.fresh, tid := deadTid, tile := 1024, sent := s.cycle,
                     fail := w64 e.id, kind := 6 }
  let s := { s with outst := s.outst ++ [o] }
  match rankEntry s p (pteOwner (phys64 s.hbm e.pteAt)) with
  | none => send s deadTid 0 (.fwdFail tag)
  | some r =>
    if r.self then
      send s deadTid 0 (.pullHere true off r.part aspc e.snap.priv (myCoord s) tag)
    else
      inject s deadTid
        { typ := 6, cls := 0, len := 0, pcls := p, dpart := r.part, dst := r.coord, src := 0,
          rtag := tag, addr := w64 off, priv := e.snap.priv, aspc := aspc, data := [] } []

/-- 512 bytes of a pulled page written, with a mark for each poisoned sector; the next are asked
for, or the entry is ready. -/
def pullLand (s : State) (id v bad : Nat) : State :=
  match s.swapEntries.find? (fun e => e.id == id) with
  | none => s
  | some e =>
    let h := putSectors s.hbm e.gran e.frame (16 * (128 - e.unitsLeft)) 16 v bad
    let e := { e with unitsLeft := e.unitsLeft - 1 }
    let s := setEntry { s with hbm := h } (if e.unitsLeft = 0 then { e with stage := 2 } else e)
    if e.unitsLeft = 0 then s else pullAsk s e

/-- A pull that fails: the entry ends with STATUS LOST where the owner cannot be reached (R97), and with
FAULT where the owner refuses it, for which R79 names no status (log 38 [DESIGN CHOICE]). -/
def pullFail (s : State) (id st : Nat) : State :=
  match s.swapEntries.find? (fun e => e.id == id) with
  | none => s
  | some e => setEntry s { e with stage := 2, status := st }

/-- The leaf of a page marked lost after a failed access or pull (R97). -/
def markLost (s : State) (asid : BitVec 16) (page at_ : Nat) : State :=
  let s := dropPage (setPte s at_ (fun e => withField e 63 62 3)) asid page
  raiseHyp s 0x10 (page * 65536 + asid.toNat)

/-! ### Processing (R79) -/

/-- The walk of an entry's page: the leaf and its place, or a status. Of R86's leaf tests, those for the
lost and the swapped state are left to the state that each command requires, so that a lost page ends STATE
and not FAULT, which R79 does not settle (log 38 [DESIGN CHOICE]). -/
def swapWalk (s : State) (e : SwapEntry) (off : Nat) : Except Nat (Nat × Nat) :=
  match walk s e.snap.asid off with
  | .bad _ => .error swFault
  | .leaf pte at_ big =>
    if big then .error swAlign
    else if (pteState pte = 0 && bitOf pte 15) || 4 < pteGran pte
        || (e.snap.priv == 0 && !bitOf pte 54) then .error swFault
    else .ok (pte, at_)

/-- Whether another entry holds the page (R79). -/
def swapBusy (s : State) (e : SwapEntry) : Bool :=
  s.swapEntries.any fun x =>
    x.id != e.id && x.stage != 0 && x.stage != swFree && swapKey x == swapKey e

/-- The state a page must be in for an operation. -/
def swapNeeds (op : Nat) : Nat := if op = cmdSwpin then 2 else if op = cmdSwpout then 0 else 1

/-- Whether every access already forwarded to a page has been answered (R96). -/
def forwardsDone (s : State) (e : SwapEntry) : Bool :=
  s.fwds.all fun q => q.answer.isSome || q.asid != e.snap.asid || q.unit / 2048 != e.page

/-- An entry that has passed its checks: a place and a frame, and the page on its way. -/
def swapBegin (s : State) (e : SwapEntry) (pte : Nat) : State :=
  let p := asidPart e.snap.asid
  match poolReserve s p with
  | none => swapEnd s e swHolds swNoFrame
  | some (place, s) =>
    if e.op = cmdSwpout then
      let frame := pteAddr pte / 65536
      let s := setPte s e.pteAt (fun e => withField (withField e 63 62 2) 39 15 0)
      let s := expelPage (dropPage s e.snap.asid e.page) e.snap.asid e.page
      setEntry s { e with stage := 1, place := place, frame := frame, unitsLeft := e.len }
    else
      match poolTake s p with
      | none => swapEnd (poolReturn s p place none) e swHolds swNoFrame
      | some (frame, s) =>
        let e := { e with place := place, frame := frame }
        if e.op = cmdSwpin then setEntry s { e with stage := 1, unitsLeft := e.len }
        else
          setEntry { s with heldPages := s.heldPages ++ [swapKey e] }
            { e with stage := 3, unitsLeft := 128 }

/-- An entry read and checked (R79). -/
def swapFirst (s : State) (e : SwapEntry) : State :=
  match agentRead s (swapAgent s e) e.rec_ 32 with
  | .wait s' => keepRequests s s'
  | .fail s _ _ => swapSignal (swapVia s e) e swUnread
  | .ok s' v bad =>
    let s' := swapVia s' e
    if bad then swapSignal s' e swUnread
    else
      let d := fun i => v / 2 ^ (64 * i) % 2 ^ 64
      let va := w64 (d 0)
      let gran := d 2 % 8
      let len := if field (d 2) 12 8 = 0 then 16 else min 16 (field (d 2) 12 8)
      let e := { e with va := va, flash := d 1, gran := gran, len := len,
                        page := pOff va / 65536 }
      if e.op != cmdSwpout && decide (4 < gran) then swapEnd s' e swFree swGran
      else if pSpace va != 0 || pOff va % 65536 != 0 || d 1 % 4096 != 0 then
        swapEnd s' e swFree swAlign
      else
        let w := swapWalk s' e (pOff va)
        let s' := walked s' e.snap.asid (pOff va)
        match w with
        | .error st => swapEnd s' e swFree st
        | .ok (pte, at_) =>
          let e := { e with pteAt := at_ }
          if swapBusy s' e then swapEnd s' e swFree swBusy
          else if pteState pte != swapNeeds e.op then swapEnd s' e swHolds swState
          else if e.op = cmdSwpout && pageHeld s' e.snap.asid e.page then s
          else swapBegin s' e pte

/-- An entry whose page has moved, or whose move failed: its PTE, its return place, its STATUS. -/
def swapLast (s : State) (e : SwapEntry) : State :=
  let p := asidPart e.snap.asid
  let ok := e.status = 0
  let rest := { s with heldPages := s.heldPages.filter (· != swapKey e) }
  if e.op = cmdSwpout then
    let s' := if ok then s else setPte s e.pteAt (pteResident e.frame)
    swapEnd (poolReturn s' p e.place (if ok then some e.frame else none)) e swHolds e.status
  else
    let s' := if !ok then (if e.op != cmdSwppull then s
        else if e.status = swLost then markLost rest e.snap.asid e.page e.pteAt else rest)
      else if e.op = cmdSwpin then
        setPte s e.pteAt (fun x =>
          withField (withField (withField (pteResident e.frame x) 59 57 e.gran) 52 52 0) 51 44 0)
      else
        dropPage (setPte rest e.pteAt (fun x => withField (pteResident e.frame x) 59 57 e.gran))
          e.snap.asid e.page
    swapEnd (poolReturn s' p e.place (if ok then none else some e.frame)) e swHolds e.status

/-- SWAP_ENTRY_DONE (R79): an entry begins, goes on once its page is quiet, ends, or has its STATUS
written. -/
def execSwapEntryDone (id : Nat) (s : State) : Host.Outcome State Fault Refusal :=
  match s.swapEntries.find? (fun e => e.id == id) with
  | none => .next s
  | some e =>
    if e.stage = 0 then .next (swapFirst s e)
    else if e.stage = 2 then .next (swapLast s e)
    else if e.stage = swHolds || e.stage = swFree then .next (swapStatus s e)
    else if e.stage = 3 && forwardsDone s e then
      let e := { e with stage := 1 }
      .next (pullAsk (setEntry s e) e)
    else .next s

/-- The granule of a swpout's page, as its leaf has it. -/
def swapGran (s : State) (e : SwapEntry) : Nat := min 4 (pteGran (phys64 s.hbm e.pteAt))

/-- FLASH_UNIT_REPLY (R349): a 4 KiB unit read into the frame, or acknowledged as written, with the frame's
128 sectors read for it (R71); or an error. -/
def execFlashUnitReply (id : Nat) (err : Bool) (data : BitVec 32768) (s : State) :
    Host.Outcome State Fault Refusal :=
  match s.swapEntries.find? (fun e => e.id == id) with
  | none => .next s
  | some e =>
    if e.stage != 1 || e.op = cmdSwppull then .next s
    else if err then .next (setEntry s { e with stage := 2, status := swFlash })
    else
      let k := e.len - e.unitsLeft
      let last := e.unitsLeft ≤ 1
      let e' := { e with unitsLeft := e.unitsLeft - 1, stage := if last then 2 else 1 }
      if e.op = cmdSwpin then
        let h := putSectors s.hbm e.gran e.frame (128 * k) 128 data.toNat 0
        let h := if last then putSectors h e.gran e.frame (128 * e.len) (128 * (16 - e.len)) 0 0
          else h
        .next (setEntry { s with hbm := h } e')
      else
        .next (setEntry (readSectors s (asidPart e.snap.asid) (swapGran s e) e.frame (128 * k) 128) e')

end Sys2Proof.Machine
end

