-- ==== Sys2Proof/Machine/Xl.lean ====
section
/-! DEFINITION. Translation commands (R91 to R93): the record, and the four commands. -/

namespace Sys2Proof.Machine

/-! ### Records (R92) -/

/-- DONE. -/
def xlDone : Nat := 0
/-- GENBUSY. -/
def xlGenBusy : Nat := 1
/-- BADCMD. -/
def xlBad : Nat := 2
/-- FAULT. -/
def xlFault : Nat := 3

/-- A record's dword 0 with its STATUS. -/
def withStatus (d0 : Word) (st : Nat) : Word := w64 (withField d0.toNat 55 48 st)

/-- A record in 32 bytes read as a number, of the thread that issues. -/
def parseXl (s : State) (id rec_ n : Nat) : XlCmd :=
  let d := fun i => n / 2 ^ (64 * i) % 2 ^ 64
  { id := id, op := d 0 % 256, asid := BitVec.ofNat 16 (d 0 / 65536), own := (me s).asid, done := 0,
    bits := 0, fault := false, va := w64 (d 1), count := d 2 % 2 ^ 13, out := w64 (d 3),
    tile := (me s).home, rec_ := rec_, cue := field (d 0) 47 40, dword0 := w64 (d 0),
    tid := s.cur }

/-- Whether a record is BADCMD at issue: OUT is HARVEST's alone (R92). A VA or an OUT of a SPACE that its
field does not allow counts among the misaligned, for which R92 names no outcome (log 18
[DESIGN CHOICE]). -/
def xlBadRecord (c : XlCmd) (d2 : Nat) : Bool :=
  let d0 := c.dword0.toNat
  let out := c.out
  field d0 63 56 != 0 || field d0 39 32 != 0 || field d0 15 8 != 0 || d2 / 2 ^ 13 != 0
    || c.count = 0 || decide (4096 < c.count) || pSpace c.va != 0 || pOff c.va % 65536 != 0
    || !(c.op == 1 || c.op == 3 || c.op == 4 || c.op == 5)
    || (c.op == 5 && (pOff out % 8 != 0 || !(pSpace out == 0 || pSpace out == 2)))

/-- A command ends: STATUS, then its cue (R92). -/
def xlEnd (s : State) (c : XlCmd) (st : Nat) : State :=
  -- STATUS and the signal are two packets, which a forwarding entry redirects after a move (R330)
  let s := passVia (countVia s c.id) c.id
  let s := placeWrite { s with xl := s.xl.filter (fun x => x.id != c.id) } c.tile (c.rec_ + 6) 1 st 0
    (ltileOf s c.tile)
  cueComplete s (.tile c.tile c.cue) (if st = 0 then none else some (withStatus c.dword0 st))

/-- A write of XLCMD (R92): none when the pointer is not one it takes; the flag says that the record
is uncorrectable. -/
def xlIssue (s : State) (p : Word) : Option (State × Bool) :=
  if pSpace p != 2 || pOff p % 32 != 0 || decide (spadSize < pOff p + 32) then none
  else
    let (n, bad) := spadRead s (me s).home (pOff p) 32
    if bad then some (chargeSram s (me s).home 3, true)
    else
      let (id, s) := freshId s
      let c := parseXl s id (pOff p) n
      if xlBadRecord c (n / 2 ^ 128 % 2 ^ 64) then some (xlEnd s c xlBad, false)
      else some ({ s with xl := s.xl ++ [c] }, false)

/-- A translation command in progress. -/
def xlOf (s : State) (id op : Nat) : Option XlCmd :=
  s.xl.find? (fun c => c.id == id && c.op == op)

/-! ### The commands (R91, R93) -/

/-- XL_INVPAGE (R93, R95): every slice drops its translations of the pages, counts added first. -/
def execXlInvpage (id : Nat) (s : State) : Host.Outcome State Fault Refusal :=
  match xlOf s id 1 with
  | none => .next s
  | some c =>
    let first := pOff c.va / 65536
    let hit := fun (t : Tlb) =>
      t.asid == c.asid &&
        (if t.big then decide (first / 4096 ≤ t.page / 4096)
            && decide (t.page / 4096 ≤ (first + c.count - 1) / 4096)
          else decide (first ≤ t.page) && decide (t.page < first + c.count))
    .next (xlEnd (dropTlbs s hit) c xlDone)

/-- The retired mask of a space: all ones from a start on (R91). -/
def retiredMask (s : State) (asid : BitVec 16) : BitVec 16 :=
  smGet (BitVec.allOnes 16) s.retired (asid.toNat / 16)

/-- Whether a generation is retired (R91). -/
def isRetired (s : State) (asid : BitVec 16) : Bool :=
  (retiredMask s asid).getLsbD (asid.toNat % 16)

/-- The retired bit of a generation written. -/
def setRetired (s : State) (asid : BitVec 16) (v : Bool) : State :=
  let bit := BitVec.ofNat 16 (2 ^ (asid.toNat % 16))
  let m := retiredMask s asid
  { s with retired := smSet s.retired (asid.toNat / 16) (if v then m ||| bit else m &&& ~~~bit) }

/-- Every slice writes back and drops its lines of an ASID. -/
def expelAsid (s : State) (asid : BitVec 16) : State :=
  (smKeys s.lines).foldl (fun s k =>
    if k / 2 ^ 44 = asid.toNat then flushLine s k false else s) s

/-- Whether a space entry holds the generation while V = 1. -/
def genActive (s : State) (asid : BitVec 16) : Bool :=
  let e := (spaceEntry s asid).1
  bitOf e 63 && field e 43 40 == asid.toNat % 16

/-- Whether a dirty sector of an ASID may not be written back yet (R77). -/
def asidHeld (s : State) (asid : BitVec 16) : Bool :=
  (smKeys s.lines).any fun k => k / 2 ^ 44 == asid.toNat && lineHeld s k

/-- XL_RETIRE (R91, R93); it waits for bytes that an op packet holds (R77). -/
def execXlRetire (id : Nat) (s : State) : Host.Outcome State Fault Refusal :=
  match xlOf s id 3 with
  | none => .next s
  | some c =>
    if genActive s c.asid then .next (xlEnd (physNote s 0 (spaceAt s c.asid)) c xlBad)
    else if asidHeld s c.asid then .next s
    else
      let s := physNote s 0 (spaceAt s c.asid)
      let s := dropTlbs (expelAsid s c.asid) (fun t => t.asid == c.asid)
      .next (xlEnd (setRetired s c.asid true) c xlDone)

/-- XL_ACTIVATE (R91, R93). -/
def execXlActivate (id : Nat) (s : State) : Host.Outcome State Fault Refusal :=
  match xlOf s id 4 with
  | none => .next s
  | some c =>
    if isRetired s c.asid then
      let s := setPte s (spaceAt s c.asid) (fun e => withField e 43 40 (c.asid.toNat % 16))
      .next (xlEnd (setRetired s c.asid false) c xlDone)
    else .next (xlEnd s c xlGenBusy)

/-- The D bit of one page read and cleared at its leaf; none when its walk fails (R93). A range that runs
past offset 2^52 goes on at the pages of offset 0, while INVPAGE and the slices' own D bits end there; R93
names no outcome (log 18 [DESIGN CHOICE]). -/
def harvestPage (s : State) (asid : BitVec 16) (off : Nat) : State × Option Bool :=
  let w := walk s asid off
  let s := walked s asid off
  match w with
  | .bad _ => (s, none)
  | .leaf e at_ big =>
    let a : Acc := { asid := asid, priv := 3, write := false, fetch := false, client := 0 }
    if leafTest e big a = 0 then
      (setPte s at_ (fun x => withField x 52 52 0), some (bitOf e 52))
    else (s, none)

/-- D cleared in every slice's entries for a harvested range (R93). -/
def clearDirty (s : State) (c : XlCmd) : State :=
  let first := pOff c.va / 65536
  let hit := fun (t : Tlb) =>
    t.asid == c.asid &&
      (if t.big then decide (first / 4096 ≤ t.page / 4096)
          && decide (t.page / 4096 ≤ (first + c.count - 1) / 4096)
        else decide (first ≤ t.page) && decide (t.page < first + c.count))
  { s with tlbs := s.tlbs.map (fun t =>
      if hit t then { t with pte := w64 (withField t.pte.toNat 52 52 0) } else t) }

/-- How a command reaches OUT: as its issuer (log 18 [DEDUCED]). -/
def xlAgent (s : State) (c : XlCmd) : Agent :=
  { acc := { asid := c.own, priv := 3, write := false, fetch := false, client := c.id },
    st := standing s c.tile c.own, home := c.tile, src := ltileOf s c.tile,
    kindHome := some 0, kindFar := 0 }

/-- The COUNT bits written at OUT, the other bits of the last byte kept. -/
def harvestOut (s : State) (c : XlCmd) : MRes :=
  let g := xlAgent s c
  let n := (c.count + 7) / 8
  match agentRead s g c.out n with
  | .ok s' old _ => agentWrite s' g c.out n (old / 2 ^ c.count * 2 ^ c.count + c.bits)
  | r => r

/-- A harvest whose pages are done: D cleared in the slices, OUT and the end. One whose access to OUT fails
ends with STATUS FAULT, its D bits cleared: R93 gives FAULT for a failed walk only (log 18
[DESIGN CHOICE]). -/
def harvestEnd (s : State) (c : XlCmd) : State :=
  match harvestOut s c with
  | .wait s' => keepRequests s s'
  | .fail s' _ _ => xlEnd (fwdDone (clearDirty s' c) c.id) c xlFault
  | .ok s' _ _ =>
    xlEnd (fwdDone (clearDirty s' c) c.id) c (if c.fault then xlFault else xlDone)

/-- XL_HARVEST (R93, R99): a page's D bit read and cleared at its leaf; after the last page every
slice clears its own, and the command ends. -/
def execXlHarvest (id : Nat) (s : State) : Host.Outcome State Fault Refusal :=
  match xlOf s id 5 with
  | none => .next s
  | some c =>
    if c.done < c.count then
      let (s, d) := harvestPage s c.asid (pOff c.va + 65536 * c.done)
      let c' := { c with done := c.done + 1, fault := c.fault || d.isNone,
                         bits := c.bits + (if d == some true then 2 ^ c.done else 0) }
      .next { s with xl := s.xl.map (fun x => if x.id = id then c' else x) }
    else .next (harvestEnd s c)

end Sys2Proof.Machine
end

