-- ==== Sys2Proof/Machine/Csr.lean ====
section
/-! DEFINITION. The control and status registers (R151 to R157): their maps, and csrr, csrw, csrs and
csrc. -/

namespace Sys2Proof.Machine

/-! ### Reads -/

/-- THRINFO of the issuing thread (R155). -/
def thrinfo (s : State) : Nat :=
  let th := me s
  th.prio * 2 ^ 32 + th.priv * 2 ^ 30 + (if (tile s s.cur.tile).wide then 2 ^ 29 else 0)
    + (if th.leader || th.shadow then 2 ^ 28 else 0) + th.troupe * 2 ^ 24
    + ltileOf s th.home % 4096 * 4096 + ltileOf s s.cur.tile % 4096

/-- TSTAT (R304). -/
def tstat (th : Thread) : Nat :=
  (if th.clamped then 2 ^ 15 else 0) + (if th.chkstl then 2 ^ 14 else 0)
    + (if th.inh then 2 ^ 13 else 0) + th.ppriv % 4 * 2 ^ 11

/-- TRCTL (R145). -/
def trctl (t : Trace) : Nat :=
  t.fill % 512 * 2 ^ 32 + t.head % 256 * 2 ^ 24 + t.sel % 256 * 2 ^ 16 + (if t.ovf then 2 ^ 8 else 0)
    + (if t.logLocal then 4 else 0) + (if t.wrap then 2 else 0) + (if t.en then 1 else 0)

/-- Positions that are off, by ROSET or by shedding (R257). -/
def posOff (tl : Tile) : Nat := (tl.rosetOff ||| tl.shedOff).toNat

/-- TQUOTA (R257). -/
def tquota (tl : Tile) : Nat :=
  let tr := smGet Troupe.zero tl.troupes tl.tqSel
  tl.tqSel % 16 * 2 ^ 60 + (if tr.radm then 2 ^ 48 else 0) + posOff tl * 2 ^ 32
    + usedSlots tl tl.tqSel % 1024 * 2 ^ 16 + tr.quota % 1024

/-- The value of a CSR for the issuing thread (R151). -/
def csrGet (s : State) (n : Nat) : Nat :=
  let th := me s
  let tl := tile s s.cur.tile
  match n with
  | 0x001 => th.fflags.toNat
  | 0x002 => th.frm.toNat
  | 0x003 => th.lfsr.toNat
  | 0x008 => s.cycle % 2 ^ 64
  | 0x009 => th.instret.toNat
  | 0x00A => thrinfo s
  | 0x010 => tstat th
  | 0x011 => th.tcause.toNat
  | 0x012 => th.tval.toNat
  | 0x013 => th.tpc.toNat
  | 0x018 => th.repidx.toNat
  | 0x020 => th.cuemap.toNat
  | 0x021 => th.vwSize % 32 * 256 + th.vwBase % 256
  | 0x030 => th.pfcause.toNat
  | 0x080 => (smGet Troupe.zero tl.troupes th.troupe).tvec.toNat
  | 0x0C0 => trctl tl.trace
  | 0x0C1 => (smGet (0, 0) tl.trace.entries tl.trace.sel).1.toNat
  | 0x0C2 => (smGet (0, 0) tl.trace.entries tl.trace.sel).2.toNat
  | 0x0C4 => tl.tagcfg.toNat
  | 0x0C8 => tl.ageStep.toNat
  | 0x101 => th.asid.toNat
  | 0x120 => tquota tl
  | 0x121 => tl.runord.toNat
  | 0x140 => s.sptb.toNat
  | _ => 0

/-! ### Writes -/

/-- The bits of a CSR that hold its fields of access W1C and WO (R6): TRCTL.OVF and CLR, TQUOTA.WQ,
and all of XLCMD. -/
def csrTrigger (n : Nat) : Word :=
  if n = 0x0C0 then 0x108 else if n = 0x120 then w64 (2 ^ 59)
  else if n = 0x141 then BitVec.allOnes 64 else 0

/-- The value that a write gives the fields (R156): 1 csrw, 2 csrs, 3 csrc. -/
def csrMerge (fn n : Nat) (old m : Word) : Word :=
  let t := csrTrigger n
  if fn = 1 then m
  else if fn = 2 then ((old ||| m) &&& ~~~t) ||| (m &&& t)
  else (old &&& ~~~m) &&& ~~~t

/-- TSTAT written (R304). -/
def putTstat (v : Nat) (th : Thread) : Thread :=
  { th with clamped := bitOf v 15, chkstl := bitOf v 14, inh := bitOf v 13,
            ppriv := min (field v 12 11) th.priv }

/-- Whether TAGCFG stores EN = 1 (R140). -/
def tagcfgOk (v : Nat) : Bool :=
  let lsh := field v 15 12
  let base := field v 39 20
  decide (6 ≤ lsh) && decide (lsh ≤ 12) && decide (field v 11 8 + field v 7 6 ≤ 10)
    && base % 2 ^ lsh == 0 && decide (base + 2 ^ (field v 11 8 + field v 7 6 + lsh) ≤ spadSize)

/-- TAGCFG written: every entry becomes invalid and every replacement pointer resets (R140). -/
def tagcfgPut (v : Nat) (tl : Tile) : Tile :=
  let w := field v 39 20 * 2 ^ 20 + field v 15 6 * 2 ^ 6
    + (if bitOf v 0 && tagcfgOk v then 1 else 0)
  { tl with tagcfg := w64 w, tags := [], tagPtr := [] }

/-- The ring emptied (R145). -/
def traceClear (t : Trace) : Trace := { t with fill := 0, head := 0, ovf := false }

/-- TRCTL written (R145). -/
def trctlPut (v : Nat) (tl : Tile) : Tile :=
  let t := tl.trace
  let t := { t with sel := field v 23 16, ovf := t.ovf && !bitOf v 8, logLocal := bitOf v 2,
                    wrap := bitOf v 1, en := bitOf v 0 }
  { tl with trace := if bitOf v 3 then traceClear t else t }

/-- TQUOTA written (R257). -/
def tquotaPut (v : Nat) (tl : Tile) : Tile :=
  let sel := field v 63 60
  let tr := smGet Troupe.zero tl.troupes sel
  let tl := { tl with tqSel := sel }
  let tr := { tr with quota := min (field v 9 0) 512, radm := bitOf v 48 }
  if bitOf v 59 then { tl with troupes := smSet tl.troupes sel tr } else tl

/-- TVEC written (R306). -/
def tvecPut (troupe v : Nat) (tl : Tile) : Tile :=
  let w := field v 63 63 * 2 ^ 63 + field v 60 52 * 2 ^ 52 + field v 51 2 * 4 + v % 2
  { tl with troupes := smUpd Troupe.zero tl.troupes troupe fun tr => { tr with tvec := w64 w } }

/-- A thread CSR written. The count that a write of INSTRET stores is that which stands after it, so
the completion of the write itself is taken off (R154). -/
def csrPutThread (n v : Nat) (th : Thread) : Thread :=
  match n with
  | 0x001 => { th with fflags := BitVec.ofNat 13 (field v 12 8 * 256 + v % 32) }
  | 0x002 => { th with frm := BitVec.ofNat 4 v }
  | 0x003 => { th with lfsr := if v % 2 ^ 32 = 0 then 1 else BitVec.ofNat 32 v }
  | 0x009 => { th with instret := w64 v - 1 }
  | 0x010 => putTstat v th
  | 0x011 => { th with tcause := BitVec.ofNat 8 v }
  | 0x012 => { th with tval := w64 v }
  | 0x013 => { th with tpc := w64 (v / 4 * 4) }
  | 0x018 => { th with repidx := BitVec.ofNat 15 v }
  | 0x020 => { th with cuemap := w64 v }
  | 0x101 => { th with asid := BitVec.ofNat 16 (th.asid.toNat / 4096 * 4096 + v % 4096) }
  | _ => th

/-- A thread, tile or troupe CSR written by the issuing thread (R151); a write of PFCAUSE is
ignored. -/
def csrPut (n : Nat) (v : Word) (s : State) : State :=
  let t := s.cur.tile
  match n with
  | 0x080 => updTile s t (tvecPut (me s).troupe v.toNat)
  | 0x0C0 => updTile s t (trctlPut v.toNat)
  | 0x0C4 => updTile s t (tagcfgPut v.toNat)
  | 0x0C8 => updTile s t fun tl => { tl with ageStep := v.setWidth 8 }
  | 0x120 => updTile s t (tquotaPut v.toNat)
  | _ => updMe s (csrPutThread n v.toNat)

/-! ### The instructions (R156, R157) -/

/-- The cycle until which an access to FFLAGS or FRM is held (R157), 0 when it is not. -/
def flagsHold (s : State) : Nat := (me s).flagsDue

/-- The CSRs whose value an understudy takes from its leader's read (R155): CYCLE, INSTRET, THRINFO
and every tile, troupe and package CSR. -/
def csrShared (n : Nat) : Bool :=
  n == 0x008 || n == 0x009 || n == 0x00A || (decide (0x080 ≤ n) && decide (n < 0x100))
    || decide (0x120 ≤ n)

/-- A package CSR accessed: the thread is descheduled until it has been performed (R157). -/
def csrPackage (fn n : Nat) (rd : BitVec 5) (write : Bool) (m : Word) (s : State) : Ret :=
  let old := w64 (csrGet s n)
  let reply := fun (s : State) =>
    Ret.sleep (.value rd.toNat) (send s s.cur 0 (.reply old.toNat none none))
  if !write then reply s
  else if n = 0x140 then reply { s with sptb := csrMerge fn n old m }
  else if fn = 3 then reply s
  else
    match xlIssue s m with
    | none => .trap .addr m s
    | some (s, bad) => if bad then .park 1 s else reply s

/-- An access to a CSR: csrr (0), csrw, csrs, csrc (R156). -/
def csrAccess (fn : Nat) (ok : Bool) (stl : BitVec 3) (rd ra : BitVec 5) (c : BitVec 9)
    (s : State) : Host.Outcome State Fault Refusal :=
  let n := c.toNat
  let write := fn == 1 || (fn != 0 && ra != 0)
  run stl { ok := ok, priv := csrPriv n, xs := [rd, ra], instret := n == 9,
            pair := if !write && csrShared n then .takes (some rd.toNat) else .both } (fun s =>
    let hold := flagsHold s
    if (n = 1 || n = 2) && decide (s.cycle < hold) then
      .stay (updMe s fun th => { th with st := .issued hold })
    else if 0x140 ≤ n then csrPackage fn n rd write (rx s ra) s
    else
      let old := w64 (csrGet s n)
      let m := rx s ra
      let s := if write then csrPut n (csrMerge fn n old m) s else s
      .go (putX stl 4 rd old s)) s

/-- csrr (R156). -/
def execCsrr (stl : BitVec 3) (rd : BitVec 5) (c : BitVec 9) (s : State) :
    Host.Outcome State Fault Refusal :=
  csrAccess 0 (csrReadOk c) stl rd 0 c s

/-- csrw (R156). -/
def execCsrw (stl : BitVec 3) (rd ra : BitVec 5) (c : BitVec 9) (s : State) :
    Host.Outcome State Fault Refusal :=
  csrAccess 1 (csrWriteOk c) stl rd ra c s

/-- csrs (R156). -/
def execCsrs (stl : BitVec 3) (rd ra : BitVec 5) (c : BitVec 9) (s : State) :
    Host.Outcome State Fault Refusal :=
  csrAccess 2 (csrSetOk ra c) stl rd ra c s

/-- csrc (R156). -/
def execCsrc (stl : BitVec 3) (rd ra : BitVec 5) (c : BitVec 9) (s : State) :
    Host.Outcome State Fault Refusal :=
  csrAccess 3 (csrSetOk ra c) stl rd ra c s

/-! ### The effects of writes as steps of their own -/

/-- TAGCFG_WRITE (R140): what a write of TAGCFG does to its tile. -/
def execTagcfgWrite (t : Nat) (v : BitVec 64) (s : State) : Host.Outcome State Fault Refusal :=
  .next (updTile s t (tagcfgPut v.toNat))

/-- TRCTL_CLEAR (R145): what CLR = 1 does to its tile. -/
def execTrctlClear (t : Nat) (s : State) : Host.Outcome State Fault Refusal :=
  .next (updTile s t fun tl => { tl with trace := traceClear tl.trace })

/-- TQUOTA_WRITE (R257): what a write of TQUOTA does to its tile. -/
def execTquotaWrite (t : Nat) (v : BitVec 64) (s : State) : Host.Outcome State Fault Refusal :=
  .next (updTile s t (tquotaPut v.toNat))

end Sys2Proof.Machine
end

