-- ==== Sys2Proof/Machine/Cues.lean ====
section
/-! DEFINITION. The cue instructions (R263 to R266) and messages (R267, R268), with the steps that
carry signals, messages and held events. -/

namespace Sys2Proof.Machine

/-! ### Cues -/

/-- n of the cue instructions: x[ra][31:0], or 1 when RA = 0 (R264). -/
def cueCount (s : State) (ra : BitVec 5) : Nat := if ra = 0 then 1 else (rx s ra).toNat % 2 ^ 32

/-- The cue that an instruction names. -/
def cueNamed (s : State) (prv : BitVec 1) (cue : BitVec 8) : CueRef := cueOf s.cur (me s) prv cue

/-- Whether a cue lies on another tile than the thread runs on. -/
def cueFar (s : State) (prv : BitVec 1) : Bool := prv == 0 && displaced s.cur (me s)

/-- A cue operation without a result (R266): a displaced thread waits for the home tile's reply. -/
def cueGo (prv : BitVec 1) (s : State) : Ret := if cueFar s prv then answered s else .go s

/-- A cue operation with a result. -/
def cuePut (stl : BitVec 3) (prv : BitVec 1) (rd : BitVec 5) (v : Word) (s : State) : Ret :=
  if cueFar s prv then answer rd.toNat v s else .go (putX stl 4 rd v s)

/-- The trap of a wait that finds the mark set, which clears it (R265). -/
def cueErr (r : CueRef) (s : State) : Ret :=
  let c := getCue s r
  .trap .engine c.estat (setCue s r { c with err := false, estat := 0 })

/-- cinit (R264). -/
def execCinit (stl : BitVec 3) (prv : BitVec 1) (cue : BitVec 8) (ra : BitVec 5) (s : State) :
    Host.Outcome State Fault Refusal :=
  run stl { ok := cueOk prv cue, xs := [ra] } (fun s =>
    let r := cueNamed s prv cue
    let c := { getCue s r with value := BitVec.ofNat 32 (cueCount s ra), err := false, estat := 0 }
    cueGo prv (cueServe (setCue s r c) r c.waiters)) s

/-- csig (R264). -/
def execCsig (stl : BitVec 3) (prv : BitVec 1) (cue : BitVec 8) (ra : BitVec 5) (s : State) :
    Host.Outcome State Fault Refusal :=
  run stl { ok := cueOk prv cue, xs := [ra] } (fun s =>
    cueGo prv (cueSignal s (cueNamed s prv cue) (cueCount s ra))) s

/-- cread (R264). -/
def execCread (stl : BitVec 3) (prv : BitVec 1) (cue : BitVec 8) (rd : BitVec 5) (s : State) :
    Host.Outcome State Fault Refusal :=
  run stl { ok := cueOk prv cue, xs := [rd], pair := .takes (some rd.toNat) } (fun s =>
    let c := getCue s (cueNamed s prv cue)
    cuePut stl prv rd (w64 (c.value.toNat + (if c.err then 2 ^ 63 else 0))) s) s

/-- ctry (R264, R265). -/
def execCtry (stl : BitVec 3) (prv : BitVec 1) (cue : BitVec 8) (ra rd : BitVec 5) (s : State) :
    Host.Outcome State Fault Refusal :=
  run stl { ok := cueOk prv cue, xs := [ra, rd], pair := .takes (some rd.toNat) } (fun s =>
    let r := cueNamed s prv cue
    let c := getCue s r
    let n := cueCount s ra
    if c.err then cueErr r s
    else if c.waiters.isEmpty && decide (n ≤ c.value.toNat) then
      cuePut stl prv rd 1 (setCue s r { c with value := BitVec.ofNat 32 (c.value.toNat - n) })
    else cuePut stl prv rd 0 s) s

/-- A wait at a cue (R264, R265): the trap of a set mark, `served` when it is served at issue, else
the thread queues. -/
def cueWait (r : CueRef) (n : Nat) (w : Wait) (served : State → Ret) (s : State) : Ret :=
  let c := getCue s r
  if c.err then cueErr r s
  else if n = 0 then served s
  else if c.waiters.isEmpty && decide (n ≤ c.value.toNat) then
    served (setCue s r { c with value := BitVec.ofNat 32 (c.value.toNat - n) })
  else .sleep w (setCue s r { c with waiters := c.waiters ++ [⟨s.cur, n⟩] })

/-- cwait (R264). -/
def execCwait (stl : BitVec 3) (prv : BitVec 1) (cue : BitVec 8) (ra : BitVec 5) (s : State) :
    Host.Outcome State Fault Refusal :=
  run stl { ok := cueOk prv cue, xs := [ra], pair := .takes none } (fun s =>
    let r := cueNamed s prv cue
    cueWait r (cueCount s ra) (.cue r) (cueGo prv) s) s

/-- cwaitt (R264): its limit counts the rotations after the one it issues in. -/
def execCwaitt (stl : BitVec 3) (prv : BitVec 1) (cue : BitVec 8) (ra rd : BitVec 5) (s : State) :
    Host.Outcome State Fault Refusal :=
  run stl { ok := cueOk prv cue, xs := [ra, rd], pair := .takes (some rd.toNat) } (fun s =>
    let r := cueNamed s prv cue
    let limit := if ra = 0 then 0 else (rx s ra).toNat / 2 ^ 32
    cueWait r (cueCount s ra) (.cueTimed r rd.toNat (limit + 1)) (cuePut stl prv rd 1) s) s

/-- CWAITT_LIMIT (R264): the limit has ended before the wait was served. -/
def execCwaittLimit (t slot : Nat) (s : State) : Host.Outcome State Fault Refusal :=
  let i : Tid := ⟨t, slot⟩
  match (thr s i).wait? with
  | some (.cueTimed r rd 0) =>
    let s := complete (cueLeave s r i) i (fun th => setX th rd 0)
    .next (cueServe s r (getCue s r).waiters)
  | _ => .next s

/-- csigr (R264, R266): posted. -/
def execCsigr (stl : BitVec 3) (cue : BitVec 8) (ra rd : BitVec 5) (s : State) :
    Host.Outcome State Fault Refusal :=
  run stl { xs := [ra, rd] } (fun s =>
    let x := rx s rd
    if x.toNat / 2 ^ 12 != 0 then .trap .illegal x s
    else
      match reachTile s (standing s (me s).home (me s).asid) x.toNat with
      | .error c => .trap c x s
      | .ok t =>
        let s := send s s.cur t (.cueSig t cue.toNat (cueCount s ra) x)
        .go (updMe s fun th => { th with postedN := th.postedN + 1 })) s

/-- CUE_SIGNAL_ARRIVAL (R243, R264): the cue applies the signal and acknowledges it; one for a saved
context goes to its inbox instead (R330). -/
def execCueSignalArrival (id : Nat) (s : State) : Host.Outcome State Fault Refusal :=
  match pktOf s id with
  | some ⟨_, _, _, .cueSig t cue n _⟩ =>
    if savedBase ≤ t then .next s
    else .next (cueSignal (setBody s id (.ack true none none)) (.tile t cue) n)
  | _ => .next s

/-! ### Messages -/

/-- send (R267, R268). -/
def execSend (stl : BitVec 3) (ra rb : BitVec 5) (s : State) : Host.Outcome State Fault Refusal :=
  run stl { xs := [ra, rb] } (fun s =>
    let x := rx s ra
    let j := tidOf x
    let t := contextTile s j
    if x.toNat / 2 ^ 19 != 0 then .trap .illegal x s
    else if harvested s j.tile || !samePartition s t then .trap .addr x s
    else
      let st := standing s (me s).home (me s).asid
      let ok := match tileOwner s t with
        | some (p, l) => p != st.p || permits st l
        | none => true
      if ok then .sleep .send (send s s.cur j.tile (.msg j (rx s rb))) else .trap .perm x s) s

/-- The live place of a thread by its home slot when it is displaced (R274). -/
def homePlace (s : State) (i : Tid) : Tid := (displacedFrom s i).getD i

/-- A send that is over: its thread goes on. -/
def sendDone (s : State) (i : Tid) : State :=
  if (thr s i).wait? == some .send then complete s i (fun th => th) else s

/-- MESSAGE_DELIVERY (R267): a message enters its mailbox, or is discarded. -/
def execMessageDelivery (id : Nat) (s : State) : Host.Outcome State Fault Refusal :=
  match pktOf s id with
  | some ⟨_, i, _, .msg to_ v⟩ =>
    let j := homePlace s to_
    if departed s j then .next s
    else if !mailLive s j then .next (sendDone (dropPkt s id) i)
    else if (thr s j).mailbox.length < 8 then .next (sendDone (mailPut (dropPkt s id) j v) i)
    else .next s
  | _ => .next s

/-- recv (R267). -/
def execRecv (stl : BitVec 3) (rd : BitVec 5) (s : State) : Host.Outcome State Fault Refusal :=
  run stl { xs := [rd], pair := .takes (some rd.toNat) } (fun s =>
    match (me s).mailbox with
    | v :: q => .go (putX stl 4 rd v (updMe s fun th => { th with mailbox := q }))
    | [] => .sleep (.recv rd.toNat) s) s

/-- recvt (R267). -/
def execRecvt (stl : BitVec 3) (rd ra : BitVec 5) (s : State) :
    Host.Outcome State Fault Refusal :=
  run stl { xs := [rd, ra], pair := .takes (some rd.toNat) } (fun s =>
    let n := (me s).mailbox.length
    if n != 0 || rx s ra = 0 then .go (putX stl 4 rd (w64 n) s)
    else .sleep (.recvt rd.toNat ((rx s ra).toNat + 1)) s) s

/-- RECVT_LIMIT (R267). -/
def execRecvtLimit (t slot : Nat) (s : State) : Host.Outcome State Fault Refusal :=
  let i : Tid := ⟨t, slot⟩
  match (thr s i).wait? with
  | some (.recvt rd 0) =>
    .next (complete s i (fun th => setX th rd (w64 th.mailbox.length)))
  | _ => .next s

/-! ### Held events (R312) -/

/-- The first held event whose mailbox has room, of a list. -/
def heldReady (s : State) (l : List (Tid × Word)) : Option (Tid × Word) :=
  l.find? (fun e => !mailLive s e.1 || decide ((thr s e.1).mailbox.length < 8))

/-- A list without its first entry equal to `e`. -/
def dropHeld (e : Tid × Word) : List (Tid × Word) → List (Tid × Word)
  | [] => []
  | x :: xs => if x = e then xs else x :: dropHeld e xs

/-- A held event put into its mailbox as `put` delivers it, or discarded with its target. -/
def heldPut (put : State → Tid → Word → State) (s : State) (e : Tid × Word) : State :=
  if mailLive s e.1 then put s e.1 e.2 else s

/-- EVENT_DELIVERY (R312): a held event of tile `place`, or of the package for a place from 1,024
on, enters its mailbox. -/
def execEventDelivery (place : Nat) (s : State) : Host.Outcome State Fault Refusal :=
  if place < 1024 then
    match heldReady s (tile s place).heldEvents with
    | some e =>
      .next (heldPut eventPut (updTile s place fun tl =>
        { tl with heldEvents := dropHeld e tl.heldEvents }) e)
    | none => .next s
  else
    match heldReady s s.hypEvents with
    | some e => .next (heldPut hypPut { s with hypEvents := dropHeld e s.hypEvents } e)
    | none => .next s

end Sys2Proof.Machine
end

