-- ==== Sys2Proof/Machine/Transc.lean ====
section
/-! DEFINITION. The special functions of R178 as exact values: each is computed in integer
arithmetic between a lower and an upper bound, with more fraction bits until both bounds agree on
the bits kept. -/

namespace Sys2Proof.Machine

/-- A fixed-point product with `p` fraction bits, rounded down. -/
def fxMul (p : Nat) (a b : Int) : Int := a * b / (2 ^ p : Nat)

/-- The sum of z^(2k+1)/(2k+1) from the power `t` at odd number `k`, `n` terms. -/
def fxAtanhSum (p : Nat) (z2 : Int) : Nat → Nat → Int → Int
  | 0, _, _ => 0
  | n + 1, k, t => t / (k : Int) + fxAtanhSum p z2 n (k + 2) (fxMul p t z2)

/-- 2 atanh z for |z| at most 1/3, within 2^12 units. -/
def fxLog (p : Nat) (z : Int) : Int := 2 * fxAtanhSum p (fxMul p z z) (p / 3 + 4) 1 z

/-- ln 2 with `p` fraction bits, within 2^12 units: 2 atanh (1/3). -/
def fxLn2 (p : Nat) : Int := fxLog p ((2 ^ p : Nat) / 3)

/-- The sum of y^k/k! from the term `t` at `k`, `n` terms. -/
def fxExpSum (p : Nat) (y : Int) : Nat → Nat → Int → Int
  | 0, _, _ => 0
  | n + 1, k, t => t + fxExpSum p y n (k + 1) (fxMul p t y / ((k + 1 : Nat) : Int))

/-- e^y for |y| below 1, within 2^14 units. -/
def fxExp (p : Nat) (y : Int) : Int := fxExpSum p y (p + 4) 0 (2 ^ p : Nat)

/-- `m * 2^e` with `p` fraction bits, rounded down. -/
def fxOf (p : Nat) (m : Nat) (e : Int) : Int :=
  if 0 ≤ e + p then (m * 2 ^ (e + p).toNat : Nat) else (m / 2 ^ (-(e + p)).toNat : Nat)

/-- e^(-y) for y at least 0 given with `p` fraction bits, within 2^18 units: the argument is split
into n ln 2 + r. -/
def fxExpNeg (p : Nat) (y : Int) : Int :=
  let l := fxLn2 p
  let n := (y / l).toNat
  fxExp p (-(y - n * l)) / (2 ^ n : Nat)

/-- Precisions tried one after the other, with 24 guard bits: when both bounds of the value agree
on the bits above the guard, they are the value's leading bits. -/
def ziv (f : Nat → Int) : List Nat → Nat × Int
  | [] => (0, 0)
  | [p] => ((f p / 2 ^ 24).toNat, 24 - (p : Int))
  | p :: p' :: ps =>
    let v := f p
    let lo := (v - 2 ^ 20) / 2 ^ 24
    let hi := (v + 2 ^ 20) / 2 ^ 24
    if lo = hi && 2 ^ 100 ≤ lo then (lo.toNat, 24 - (p : Int)) else ziv f (p' :: ps)

/-- The precisions of `ziv`. -/
def zivSteps : List Nat := [320, 640, 1280, 2560, 5120, 10240]

/-- An inexact magnitude found by `ziv`. -/
def zivVal (neg : Bool) (f : Nat → Int) : FVal :=
  let (m, e) := ziv f zivSteps
  .fin neg m e true

/-- A magnitude just below 2^k or just above it. -/
def nearPow (neg : Bool) (k : Int) (above : Bool) : FVal :=
  .fin neg (if above then 2 ^ 200 else 2 ^ 200 - 1) (k - 200) true

/-- A nonzero magnitude below every subnormal's share of a draw. -/
def tinyVal (neg : Bool) : FVal := .fin neg 0 (-6000) true

/-- The exponent of the leading bit of a nonzero magnitude. -/
def topExp (m : Nat) (e : Int) : Int := (Nat.log2 m : Int) + e

/-- 2^a (R178). -/
def exp2Val (a : FVal) : FVal × FlagSet :=
  match a with
  | .nan s => (.nan false, if s then flagNV else 0)
  | .inf n => (if n then .zero false else .inf false, 0)
  | .fin n m e _ =>
    if m = 0 then (.fin false 1 0 false, 0)
    else if topExp m e ≥ 14 then (if n then tinyVal false else .fin false 1 16384 true, 0)
    else if topExp m e < -220 then (nearPow false 0 (!n), 0)
    else if 0 ≤ e || m % 2 ^ (-e).toNat = 0 then
      -- an integer: exact
      let k : Int := if 0 ≤ e then (m * 2 ^ e.toNat : Nat) else (m / 2 ^ (-e).toNat : Nat)
      (.fin false 1 (if n then -k else k) false, 0)
    else
      -- floor and fraction of the signed argument, the fraction exact over 2^d
      let d := (-e).toNat
      let v : Int := if n then -(m : Int) else m
      let k := v / (2 ^ d : Nat)
      let fr := (v % (2 ^ d : Nat)).toNat
      let r := zivVal false (fun p => fxExp p (fxMul p (fxOf p fr e) (fxLn2 p)))
      (r.scale k, 0)

/-- log2 a (R178). -/
def log2Val (a : FVal) : FVal × FlagSet :=
  match a with
  | .nan s => (.nan false, if s then flagNV else 0)
  | .inf n => if n then (.nan false, flagNV) else (.inf false, 0)
  | .fin n m e _ =>
    if m = 0 then (.inf true, flagDZ)
    else if n then (.nan false, flagNV)
    else
      let k := topExp m e
      if m = 2 ^ Nat.log2 m then (if k = 0 then .zero false else .fin (k < 0) k.natAbs 0 false, 0)
      else
        -- log2 a = k + log2 (m / 2^log2 m), negative when k is negative
        let g := fun p =>
          let one : Int := (2 ^ p : Nat)
          let x := fxOf p m (-(Nat.log2 m : Int))
          let z := (x - one) * one / (x + one)
          let fr := fxLog p z * one / fxLn2 p
          if k < 0 then -(k * one + fr) else k * one + fr
        (zivVal (k < 0) g, 0)

/-- tanh a (R178). -/
def tanhVal (a : FVal) : FVal × FlagSet :=
  match a with
  | .nan s => (.nan false, if s then flagNV else 0)
  | .inf n => (.fin n 1 0 false, 0)
  | .fin n m e _ =>
    if m = 0 then (.zero n, 0)
    else if topExp m e ≥ 8 then (nearPow n 0 false, 0)
    else if topExp m e < -70 then (.fin n (m * 2 ^ 100 - 1) (e - 100) true, 0)
    else
      let g := fun p =>
        let one : Int := (2 ^ p : Nat)
        let t := fxExpNeg p (fxOf p m (e + 1))
        (one - t) * one / (one + t)
      (zivVal n g, 0)

/-- 1 / (1 + e^(-a)) (R178). -/
def sigmVal (a : FVal) : FVal × FlagSet :=
  match a with
  | .nan s => (.nan false, if s then flagNV else 0)
  | .inf n => (if n then .zero false else .fin false 1 0 false, 0)
  | .fin n m e _ =>
    if m = 0 then (.fin false 1 (-1) false, 0)
    else if topExp m e ≥ 12 then (if n then tinyVal false else nearPow false 0 false, 0)
    else if topExp m e < -220 then (nearPow false (-1) (!n), 0)
    else
      let g := fun p =>
        let one : Int := (2 ^ p : Nat)
        let t := fxExpNeg p (fxOf p m e)
        if n then t * one / (one + t) else one * one / (one + t)
      (zivVal false g, 0)

/-- 1 / a (R178). -/
def rcpVal (a : FVal) : FVal × FlagSet := divVal (.fin false 1 0 false) a

/-- 1 / sqrt a (R178). -/
def rsqVal (a : FVal) : FVal × FlagSet :=
  match a with
  | .nan s => (.nan false, if s then flagNV else 0)
  | .inf n => if n then (.nan false, flagNV) else (.zero false, 0)
  | .fin n m e _ =>
    if m = 0 then (.inf n, flagDZ)
    else if n then (.nan false, flagNV)
    else
      -- floor (2^s / sqrt m') with m' at an even exponent
      let e' := if e % 2 = 0 then e else e - 1
      let m' := if e % 2 = 0 then m else 2 * m
      let s := 140 + Nat.log2 m'
      let q := isqrt (2 ^ (2 * s) / m')
      (.fin false q (-(s : Int) - e' / 2) (q * q * m' != 2 ^ (2 * s)), 0)

/-- The function a VFN code 00-06 names (R178). -/
def specialVal : Nat → FVal → FVal × FlagSet
  | 0 => rcpVal | 1 => rsqVal | 2 => sqrtVal | 3 => exp2Val | 4 => log2Val | 5 => tanhVal
  | _ => sigmVal

end Sys2Proof.Machine
end

