-- ==== Sys2Proof/Machine/Xe8.lean ====
section
/-! DEFINITION. XE8 blocks: decoder (R26 to R28) and encoder (R29). -/

namespace Sys2Proof.Machine

/-- Bits of a byte, most significant first. -/
def byteBits (b : Nat) : List Bool := (List.range 8).map (fun j => bitOf b (7 - j))

/-- A byte of eight bits, most significant first. -/
def bitsByte (l : List Bool) : Nat := l.foldl (fun v b => 2 * v + (if b then 1 else 0)) 0

/-- Bits as bytes, most significant first; `n` bytes. -/
def packBits : Nat → List Bool → List Nat
  | 0, _ => []
  | n + 1, l => bitsByte (l.take 8) :: packBits n (l.drop 8)

/-- The length of the block whose first two bytes are given, none for a bad header (R26, R28). -/
def xe8Size (scale hdr : Nat) : Option Nat :=
  if scale = 0x80 then (if hdr = 0 then some 2 else none)
  else if hdr % 16 > 6 then none
  else some (18 + 4 * (hdr % 16 + 1))

/-- One exponent token read (R27, R28). -/
def xe8Token (e0 : Nat) : List Bool → Option (Nat × List Bool)
  | false :: r => some (e0, r)
  | true :: false :: r => some (e0 + 1, r)
  | true :: true :: false :: r => some (e0 + 2, r)
  | true :: true :: true :: a :: b :: c :: d :: r => some (bitsByte [a, b, c, d], r)
  | _ => none

/-- The exponents of `n` elements; none when a token fails. -/
def xe8Exps (e0 : Nat) : Nat → List Bool → Option (List Nat)
  | 0, _ => some []
  | n + 1, l =>
    match xe8Token e0 l with
    | none => none
    | some (e, r) => if e > 15 then none else (xe8Exps e0 n r).map (e :: ·)

/-- A block decoded from its bytes: 32 elements, the scale byte, the length (R28). -/
def xe8Decode (bs : List Nat) : Option (List Nat × Nat × Nat) :=
  let scale := bs.getD 0 0
  let hdr := bs.getD 1 0
  match xe8Size scale hdr with
  | none => none
  | some size =>
    if bs.length < size then none
    else if scale = 0x80 then some (List.replicate 32 0, 0x80, 2)
    else
      let toks := (((bs.drop 18).take (size - 18)).map byteBits).flatten
      (xe8Exps (hdr / 16) 32 toks).map fun es =>
        (es.zipIdx.map (fun e =>
          let nib := bs.getD (2 + e.2 / 2) 0 / 16 ^ (e.2 % 2) % 16
          nib / 8 * 128 + e.1 * 8 + nib % 8), scale, size)

/-- The token of exponent `e` (R27). -/
def xe8TokenOf (e0 e : Nat) : List Bool :=
  if e = e0 then [false]
  else if e = e0 + 1 then [true, false]
  else if e = e0 + 2 then [true, true, false]
  else [true, true, true, bitOf e 3, bitOf e 2, bitOf e 1, bitOf e 0]

/-- The token stream of a block. -/
def xe8Tokens (e0 : Nat) (es : List Nat) : List Bool := (es.map (xe8TokenOf e0)).flatten

/-- The base exponent of R29: the shortest stream, the least on a tie. -/
def xe8Base (es : List Nat) : Nat :=
  ((List.range 16).foldl (fun (best : Nat × Nat) e0 =>
    let n := (xe8Tokens e0 es).length
    if n < best.2 then (e0, n) else best) (0, (xe8Tokens 0 es).length)).1

/-- A zero block (R26). -/
def xe8Zero : List Nat := [0x80, 0]

/-- 32 FP8E4 elements and a scale byte encoded (R29). -/
def xe8Encode (els : List Nat) (scale : Nat) : List Nat :=
  if els.all (fun b => b % 128 == 0) then xe8Zero
  else
    let es := els.map (fun b => b / 8 % 16)
    let e0 := xe8Base es
    let toks := xe8Tokens e0 es
    let len := (toks.length + 31) / 32 - 1
    let nib := fun i => let b := els.getD i 0; b / 128 % 2 * 8 + b % 8
    [scale % 256, e0 * 16 + len] ++ (List.range 16).map (fun j => nib (2 * j) + 16 * nib (2 * j + 1))
      ++ packBits (4 * (len + 1)) (toks ++ List.replicate (32 * (len + 1) - toks.length) false)

end Sys2Proof.Machine
end

