-- ==== Sys2Proof/Machine/Vfn.lean ====
section
/-! DEFINITION. Special functions, conversions, block scales and XE8 in registers (R178 to R182). -/

namespace Sys2Proof.Machine

/-- The mode an RM field selects (R30): 0 takes FRM.RMODE. -/
def rmMode (th : Thread) (rm : BitVec 2) : Option RMode :=
  match rm.toNat with
  | 0 => frmMode th
  | 1 => some .rne
  | 2 => some .rtz
  | _ => some .stoch

/-- Bits of a lane of CT (R173). -/
def ctBits (ct : Nat) : Nat := (ctFmt ct).width

/-- A VFN word of one source that rounds lane by lane. -/
def vfnWord (ok rounds : Bool) (lat : Nat) (rm : BitVec 2) (stl : BitVec 3) (rd ra : BitVec 5)
    (f : Thread → RMode → VWord → BitVec 32 → VWord × FlagSet × BitVec 32) (s : State) :
    Host.Outcome State Fault Refusal :=
  run stl { ok := ok && (!rounds || (rmMode (me s) rm).isSome), vs := [rd, ra],
            form := if rounds && rm == 0 then some ok else none }
    (withVecs [ra] (some rd) fun vs s =>
      let (v, fl, u) := f (me s) ((rmMode (me s) rm).getD .rne) (vs.getD 0 0) (me s).lfsr
      vecDone stl lat rd v fl u s) s

/-- A special function of R178. -/
def vspecial (k : Nat) (stl : BitVec 3) (rd ra : BitVec 5) (ct rm : BitVec 2) (s : State) :
    Host.Outcome State Fault Refusal :=
  let c := ct.toNat
  let f := ctFmt c
  vfnWord true true (if c = 0 then 64 else 32) rm stl rd ra (fun _ m v u =>
    let (l, fl, u) := runLanes ((lanes f.width v).map (fun a u =>
      roundTo f m u (specialVal k (f.decode a)))) u
    (ofLanes f.width l, fl, u)) s

/-- One element converted from one format into another (R32, R33, R166, R179): `exact` when the
destination holds every value of the source, so that nothing is rounded; an infinity may still
saturate (R32). -/
def cvtElem (src dst : EFmt) (narrow sat exact : Bool) (mode : RMode) (a : Nat) (u : BitVec 32) :
    FRes :=
  let v := src.decode a
  let c : Conv := ⟨⟨if exact then .rne else mode, u⟩, narrow, sat⟩
  let (b, fl) := dst.encode c v
  ⟨b, fl, !exact && mode == .stoch && v.draws⟩

/-- vcvt (R179). -/
def execVcvt (stl : BitVec 3) (rd ra : BitVec 5) (ct : BitVec 2) (sf : BitVec 4) (rm : BitVec 2)
    (s : State) : Host.Outcome State Fault Refusal :=
  let f := ctFmt ct.toNat
  let code := sf.toNat + 1
  let dst := efmtOf code
  let exact := holdsAll dst (.flt f)
  vfnWord (vcvtOk ct sf) (!exact) 16 rm stl rd ra (fun th m v u =>
    let (l, fl, u) := runLanes ((lanes f.width v).map
      (cvtElem (.flt f) dst (decide (3 ≤ code)) (frmSat th) exact m)) u
    (ofLanes dst.width l, fl, u)) s

/-- An element of vcvtf: an infinity passes exactly whatever SAT holds (R179). -/
def cvtfElem (src : EFmt) (f : FFmt) (sat exact : Bool) (mode : RMode) (a : Nat) (u : BitVec 32) :
    FRes :=
  match src.decode a with
  | .inf n => ⟨f.signBit n + f.infBits, 0, false⟩
  | _ => cvtElem src (.flt f) (f.width == 16) sat exact mode a u

/-- vcvtf (R179). -/
def execVcvtf (stl : BitVec 3) (rd ra : BitVec 5) (ct : BitVec 2) (sf : BitVec 4) (rm : BitVec 2)
    (s : State) : Host.Outcome State Fault Refusal :=
  let f := ctFmt ct.toNat
  let src := efmtOf (sf.toNat + 1)
  let exact := holdsAll (.flt f) src
  vfnWord (vcvtOk ct sf) (!exact) 16 rm stl rd ra (fun th m v u =>
    let els := chunks src.width (4096 / f.width) v.toNat
    let (l, fl, u) := runLanes (els.map (cvtfElem src f (frmSat th) exact m)) u
    (ofLanes f.width l, fl, u)) s

/-! ### Block scales (R180) -/

/-- The larger of two finite magnitudes. -/
def maxMag (a b : FVal) : FVal :=
  match a, b with
  | .fin _ m1 e1 _, .fin _ m2 e2 _ =>
    if ltVal (.fin false m1 e1 false) (.fin false m2 e2 false) then .fin false m2 e2 false
    else .fin false m1 e1 false
  | _, b => b

/-- The largest finite value of a scaled storage format (R180). -/
def fmtLimit : EFmt → FVal
  | .flt f => f.decode f.maxBits
  | .int w => intVal ((2 ^ (w - 1) : Nat) - 1)

/-- The scale of a block whose largest magnitude is given (R180), as a signed number. -/
def scaleOf (lim amax : FVal) : Int :=
  match amax, lim with
  | .fin _ m e _, .fin _ lm le _ =>
    if m = 0 then -128
    else
      let t := (Nat.log2 m : Int) + e - ((Nat.log2 lm : Int) + le)
      let s := if ltVal (.fin false lm le false) (.fin false m (e - t) false) then t + 1 else t
      max (-127) (min 127 s)
  | _, _ => 127

/-- The scale byte of one block and its flags. -/
def blockScale (lim : FVal) (block : List FVal) : Nat × FlagSet :=
  if block.any (fun v => v.isNan || v.isInf) then (127, flagNV)
  else (wrapInt 8 (scaleOf lim (block.foldl maxMag (.zero false))), 0)

/-- Consecutive groups of `k` items, `n` of them. -/
def groupsOf {α : Type} (k : Nat) : Nat → List α → List (List α)
  | 0, _ => []
  | n + 1, l => l.take k :: groupsOf k n (l.drop k)

/-- vbscl (R180). -/
def execVbscl (stl : BitVec 3) (rd ra : BitVec 5) (ct : BitVec 2) (sf : BitVec 4) (s : State) :
    Host.Outcome State Fault Refusal :=
  let f := ctFmt ct.toNat
  vfnWord (scaleSfOk sf) false 16 1 stl rd ra (fun _ _ v u =>
    let vals := (lanes f.width v).map f.decode
    let r := (groupsOf 32 (4096 / f.width / 32) vals).map
      (blockScale (fmtLimit (efmtOf (sf.toNat + 1))))
    (ofLanes 8 (r.map (·.1)), r.foldl (fun fl e => fl ||| e.2) 0, u)) s

/-- A lane of vscale (R180): scale -128 gives +0 and rounds nothing; an overflow gives an infinity
in every mode. -/
def scaleLane (f : FFmt) (mode : RMode) (sc a : Nat) (u : BitVec 32) : FRes :=
  let s := sgn 8 sc
  if s = -128 then ⟨0, 0, false⟩
  else
    let v := (f.decode a).scale s
    let r := roundTo f mode u (v, if v.isSnan then flagNV else 0)
    if r.fl &&& flagOF != 0 then { r with bits := f.signBit v.neg + f.infBits } else r

/-- vscale (R180). -/
def execVscale (stl : BitVec 3) (rd ra : BitVec 5) (ct : BitVec 2) (sf : BitVec 4) (rm : BitVec 2)
    (s : State) : Host.Outcome State Fault Refusal :=
  let f := ctFmt ct.toNat
  run stl { ok := scaleSfOk sf && (rmMode (me s) rm).isSome, vs := [rd, ra] }
    (withVecs [ra, rd] (some rd) fun vs s =>
      let sc := lanes 8 (vs.getD 0 0)
      let fs := (lanes f.width (vs.getD 1 0)).zipIdx.map (fun e =>
        scaleLane f ((rmMode (me s) rm).getD .rne) (sc.getD (e.2 / 32) 0) e.1)
      let (l, fl, u) := runLanes fs (me s).lfsr
      vecDone stl 16 rd (ofLanes f.width l) fl u s) s

/-! ### XE8 in registers (R181) -/

/-- A block of vpack: a zero block for scale -128 or for elements that are all zero. -/
def vpackBlock (bs : List Nat) (b : Nat) : List Nat :=
  let sc := bs.getD (128 + b) 0
  if sc = 0x80 then xe8Zero else xe8Encode ((bs.drop (32 * b)).take 32) sc

/-- vpack's result (R181). -/
def vpackVal (v : VWord) : VWord :=
  let bs := lanes 8 v
  let out := ((List.range 4).map (vpackBlock bs)).flatten
  ofLanes 8 (out ++ List.replicate (511 - out.length) 0 ++ [out.length])

/-- vpack (R181). -/
def execVpack (stl : BitVec 3) (rd ra : BitVec 5) (s : State) :
    Host.Outcome State Fault Refusal :=
  vfnWord true false 32 1 stl rd ra (fun _ _ v u => (vpackVal v, 0, u)) s

/-- Consecutive blocks decoded: elements, scales and bytes taken, or the failing block's number. -/
def vunpackFrom (bs : List Nat) : Nat → Nat → Nat → Except Nat (List Nat × List Nat × Nat)
  | 0, _, pos => .ok ([], [], pos)
  | n + 1, b, pos =>
    match xe8Decode ((bs.drop pos).take (512 - pos)) with
    | none => .error b
    | some (els, sc, size) =>
      (vunpackFrom bs n (b + 1) (pos + size)).map (fun r => (els ++ r.1, sc :: r.2.1, r.2.2))

/-- vunpack (R181). -/
def execVunpack (stl : BitVec 3) (rd ra : BitVec 5) (s : State) :
    Host.Outcome State Fault Refusal :=
  run stl { vs := [rd, ra] }
    (withVecs [ra] (some rd) fun vs s =>
      match vunpackFrom (lanes 8 (vs.getD 0 0)) 4 0 0 with
      | .error b => .trap .format (w64 b) s
      | .ok (els, scs, pos) =>
        .go (putVec stl 32 rd (ofLanes 8 (els ++ scs ++ List.replicate 379 0 ++ [pos])) s)) s

/-- vrcp (R178). -/
def execVrcp (stl : BitVec 3) (rd ra : BitVec 5) (ct rm : BitVec 2) (s : State) :
    Host.Outcome State Fault Refusal :=
  vspecial 0 stl rd ra ct rm s

/-- vrsq (R178). -/
def execVrsq (stl : BitVec 3) (rd ra : BitVec 5) (ct rm : BitVec 2) (s : State) :
    Host.Outcome State Fault Refusal :=
  vspecial 1 stl rd ra ct rm s

/-- vsqrt (R178). -/
def execVsqrt (stl : BitVec 3) (rd ra : BitVec 5) (ct rm : BitVec 2) (s : State) :
    Host.Outcome State Fault Refusal :=
  vspecial 2 stl rd ra ct rm s

/-- vexp2 (R178). -/
def execVexp2 (stl : BitVec 3) (rd ra : BitVec 5) (ct rm : BitVec 2) (s : State) :
    Host.Outcome State Fault Refusal :=
  vspecial 3 stl rd ra ct rm s

/-- vlog2 (R178). -/
def execVlog2 (stl : BitVec 3) (rd ra : BitVec 5) (ct rm : BitVec 2) (s : State) :
    Host.Outcome State Fault Refusal :=
  vspecial 4 stl rd ra ct rm s

/-- vtanh (R178). -/
def execVtanh (stl : BitVec 3) (rd ra : BitVec 5) (ct rm : BitVec 2) (s : State) :
    Host.Outcome State Fault Refusal :=
  vspecial 5 stl rd ra ct rm s

/-- vsigm (R178). -/
def execVsigm (stl : BitVec 3) (rd ra : BitVec 5) (ct rm : BitVec 2) (s : State) :
    Host.Outcome State Fault Refusal :=
  vspecial 6 stl rd ra ct rm s

end Sys2Proof.Machine
end

