-- ==== Sys2Proof/Machine/MatrixOps.lean ====
section
/-! DEFINITION. The data paths of a matrix engine: operand memory and accumulators (R196 to R198),
the array's sums (R34, R206, R207), and the rows of loads, drains and copies to vector registers
(R203, R211, R212). -/

namespace Sys2Proof.Machine

/-! ### Operand memory (R196 to R198) -/

/-- The byte of operand memory at which a slot's row starts. -/
def slotAt (slot row : Nat) : Nat := 16384 * slot + 128 * row

/-- The byte of the side-stores at which a slot's row of scales starts. -/
def sideAt (slot row : Nat) : Nat := 1024 * slot + 8 * row

/-- The byte of the accumulators at which a row starts. -/
def accAt (acc row : Nat) : Nat := 65536 * acc + 512 * row

/-- The uncorrectable words of operand memory, side-stores and accumulators are numbered one after
the other: whether `n` bytes at `a` of the part that starts at word `base` hold one. -/
def opBadIn (tl : Tile) (base a n : Nat) : Bool :=
  tl.opMarks.bad.any (fun w => base + a / 8 ≤ w && w ≤ base + (a + n - 1) / 8)

/-- The marks after whole words have been written. -/
def opClear (tl : Tile) (base a n : Nat) : Tile :=
  { tl with opMarks := tl.opMarks.keep (fun w => !(base + a / 8 ≤ w && w ≤ base + (a + n - 1) / 8)) }

/-- First word of the side-stores. -/
def sideBase : Nat := 32768
/-- First word of the accumulators. -/
def accBase : Nat := 34816

/-- A slot row with its scale bytes written. -/
def putSlotRow (tl : Tile) (slot row v : Nat) (scales : List Nat) : Tile :=
  let tl := opClear (opClear tl 0 (slotAt slot row) 128) sideBase (sideAt slot row) 8
  { tl with opmem := writeLE tl.opmem (slotAt slot row) 128 v,
            side := writeLE tl.side (sideAt slot row) 8 (packChunks 8 scales) }

/-- A row of an accumulator as a number. -/
def accRow (tl : Tile) (acc row : Nat) : Nat := readLE tl.acc (accAt acc row) 512

/-- A row of an accumulator written. -/
def putAccRow (tl : Tile) (acc row v : Nat) : Tile :=
  let tl := opClear tl accBase (accAt acc row) 512
  { tl with acc := writeLE tl.acc (accAt acc row) 512 v }

/-- The raw elements of an accumulator row read as FP32, INT32 or the FP64 pair (ATYPE 0, 1, 2). -/
def accElems (tl : Tile) (atype acc row : Nat) : List Nat :=
  if atype = 2 then chunks 64 64 (accRow tl acc row) ++ chunks 64 64 (accRow tl (acc + 1) row)
  else chunks 32 128 (accRow tl acc row)

/-- An accumulator row written from 128 raw elements. -/
def putAccElems (tl : Tile) (atype acc row : Nat) (l : List Nat) : Tile :=
  if atype = 2 then
    putAccRow (putAccRow tl acc row (packChunks 64 (l.take 64))) (acc + 1) row
      (packChunks 64 (l.drop 64))
  else putAccRow tl acc row (packChunks 32 l)

/-- Whether an accumulator row, or its pair's, holds an uncorrectable word. -/
def accBad (tl : Tile) (atype acc row : Nat) : Bool :=
  opBadIn tl accBase (accAt acc row) 512
    || (atype == 2 && opBadIn tl accBase (accAt (acc + 1) row) 512)

/-- Bits of an element in a slot row (R196). -/
def slotBits (f : Nat) : Nat :=
  match fmtK f with
  | 16 => 64
  | 32 => 32
  | 64 => 16
  | 256 => 4
  | _ => 8

/-- The side-store scales of a slot row, by element: one for each of `n` elements. -/
def rowScales (tl : Tile) (tag : SlotTag) (slot row n : Nat) : List Int :=
  if tag.blkl = 0 then List.replicate n 0
  else
    let bytes := chunks 8 8 (readLE tl.side (sideAt slot row) 8)
    (List.range n).map (fun k => sgn 8 (bytes.getD (k / 2 ^ tag.blkl) 0))

/-- The first `n` elements of a slot row as exact values with their scales (R197): an element of a
block of scale -128 is +0. -/
def slotRow (tl : Tile) (slot row n : Nat) : List (FVal × Int) :=
  let tag := presentTag tl slot
  let w := slotBits tag.fmt
  let els := chunks w n (readLE tl.opmem (slotAt slot row) 128)
  List.zipWith (fun e s => if s = -128 then (.zero false, 0) else ((efmtOf tag.fmt).decode e, s))
    els (rowScales tl tag slot row n)

/-- Whether an uncorrectable word of operand memory holds one of the first `n` elements of a row of a
slot whose value the array takes: one outside the blocks of scale -128 (R24, R197). -/
def elemBad (tl : Tile) (tag : SlotTag) (slot n w : Nat) : Bool :=
  let bits := slotBits tag.fmt
  let a := 8 * w
  let row := (a - slotAt slot 0) / 128
  let scales := rowScales tl tag slot row n
  decide (slotAt slot 0 ≤ a) && decide (row < 128)
    && (List.range' (8 * (a % 128) / bits) ((64 + bits - 1) / bits + 1)).any (fun e =>
      decide (e < n) && decide (e * bits < 8 * (a % 128) + 64)
        && decide (8 * (a % 128) < (e + 1) * bits) && scales.getD e 0 != -128)

/-- Whether the first `n` elements of every row of a slot, or their scales, hold an uncorrectable
word that the array takes. -/
def slotBad (tl : Tile) (slot n : Nat) : Bool :=
  let tag := presentTag tl slot
  tl.opMarks.bad.any (elemBad tl tag slot n)
    || (tag.blkl != 0 && (List.range 128).any (fun r => opBadIn tl sideBase (sideAt slot r) 8))

/-! ### The sum of R34 -/

/-- The exact product of two scaled elements. -/
def scaledProduct (a b : FVal × Int) : FVal := (mulVal a.1 b.1).1.scale (a.2 + b.2)

/-- The exact sum of a group's products. -/
def groupSum (ps : List FVal) : FVal := ps.foldl (fun s p => (addVal .rne s p).1) (.zero false)

/-- An accumulator element after one group (R34). -/
def groupAcc (acc : AccType) (c : Nat) (sum : FVal) : Nat :=
  match acc with
  | .int32 => wrapInt 32 (sgn 32 c + (roundInt ⟨.rtz, 0⟩ sum).1)
  | _ =>
    if sum.isZero then c
    else (fp32.encode ⟨⟨.rne, 0⟩, false, false⟩ (addVal .rne (fp32.decode c) sum).1).1

/-- The groups of R34 folded into an accumulator element. -/
def foldGroups (acc : AccType) (g : Nat) : Nat → Nat → List FVal → Nat
  | 0, c, _ => c
  | n + 1, c, ps => foldGroups acc g n (groupAcc acc c (groupSum (ps.take g))) (ps.drop g)

/-- One accumulator element after a step over these pairs of elements; a skipped position is
`none` and contributes an exact zero (R34). -/
def stepElem (k : PairKind) (c : Nat) (l : List (Option ((FVal × Int) × (FVal × Int)))) : Nat :=
  match k.acc with
  | .fp64 =>
    l.foldl (fun c p => match p with
      | some (a, b) =>
        (fp64.encode ⟨⟨.rne, 0⟩, false, false⟩ (fmaVal .rne a.1 b.1 (fp64.decode c)).1).1
      | none => c) c
  | acc =>
    foldGroups acc k.g ((l.length + k.g - 1) / k.g) c
      (l.map fun p => match p with
        | some (a, b) => scaledProduct a b
        | none => .zero false)

/-- The ATYPE under which a pair's accumulator is read. -/
def PairKind.atype (k : PairKind) : Nat :=
  match k.acc with
  | .fp64 => 2
  | .int32 => 1
  | .fp32 => 0

/-! ### Steps (R206, R207) -/

/-- A dense step on slots `a` and `b` (R206); an uncorrectable word leaves the accumulator as it
was (R208). -/
def denseStep (tl : Tile) (a b acc : Nat) : Except Nat Tile :=
  let ta := presentTag tl a
  let tb := presentTag tl b
  match pairOf ta tb with
  | none => .error 0x0904
  | some k =>
    let kk := min (fmtK ta.fmt) (fmtK tb.fmt)
    if slotBad tl a kk || slotBad tl b kk
        || (List.range 128).any (fun r => accBad tl k.atype acc r) then .error stUncorr
    else
      let cols := (List.range 128).map (fun n => slotRow tl b n kk)
      .ok ((List.range 128).foldl (fun t m =>
        let ra := slotRow tl a m kk
        let cs := accElems tl k.atype acc m
        putAccElems t k.atype acc m (List.zipWith
          (fun c rb => stepElem k c (List.zipWith (fun x y => some (x, y)) ra rb)) cs cols)) tl)

/-- Elements of a group of a structured-sparse row (R207). -/
def sparseP (n : Nat) : Nat := if n = 6 then 8 else 4

/-- The kept positions of a group's nibbles; none when they break R207. -/
def keptOf (n : Nat) (nibs : List Nat) : Option (List Nat) :=
  let kept := nibs.take n
  let ok := kept.all (· ≤ 11) && (List.zipWith (fun a b => decide (a < b)) kept kept.tail).all id
    && (nibs.drop n).all (· == 15)
  if ok then some kept else none

/-- A row's positions: for each of its groups the kept ones; none when a group breaks R207. -/
def rowPositions (n groups v : Nat) : Option (List (List Nat)) :=
  ((groupsOf (sparseP n) groups (chunks 4 (sparseP n * groups) v)).mapM (keptOf n))

/-- The logical row of a sparse operand: the value at each kept position, `none` at the others. -/
def logicalRow (p : Nat) (vals : List (FVal × Int)) (pos : List (List Nat)) :
    List (Option (FVal × Int)) :=
  (pos.zipIdx.map fun e =>
    let group := (vals.drop (p * e.2)).take p
    (List.range 12).map (fun q => (e.1.idxOf? q).bind (fun j => group[j]?))).flatten

/-- The operands of an mmas. -/
structure SparseArgs where
  n : Nat
  slotA : Nat
  slotB : Nat
  slotM : Nat
  acc : Nat
  deriving DecidableEq, Repr

/-- Whether row `m` of an mmas takes an uncorrectable word of the A slot, the META slot or the
accumulator. -/
def sparseBad (tl : Tile) (k : PairKind) (x : SparseArgs) (m : Nat) : Bool :=
  let tag := presentTag tl x.slotA
  let ka := fmtK tag.fmt
  let p := sparseP x.n
  tl.opMarks.bad.any (fun w => (8 * w - slotAt x.slotA 0) / 128 == m && elemBad tl tag x.slotA ka w)
    || (tag.blkl != 0 && opBadIn tl sideBase (sideAt x.slotA m) 8)
    || opBadIn tl 0 (slotAt x.slotM m) (p * (ka / p) / 2) || accBad tl k.atype x.acc m

/-- The rows of an mmas from row `m` on, and the status and DONE of the first row that fails, by the
earliest row of R213 where it meets several failures (log 17 [DEDUCED]): a group that breaks R207 leaves
the rows before it complete, an uncorrectable word leaves the accumulator as it was (R208). -/
def sparseRows (tl0 : Tile) (k : PairKind) (x : SparseArgs) (badB : Bool)
    (cols : List (List (FVal × Int))) : Nat → Nat → Tile → Tile × Option (Nat × Nat)
  | 0, _, t => (t, none)
  | fuel + 1, m, t =>
    let ka := fmtK (presentTag tl0 x.slotA).fmt
    let p := sparseP x.n
    match rowPositions x.n (ka / p) (readLE tl0.opmem (slotAt x.slotM m) 128) with
    | none => (t, some (0x0906, m))
    | some pos =>
      if badB || sparseBad tl0 k x m then (tl0, some (stUncorr, 0))
      else
        let row := logicalRow p (slotRow tl0 x.slotA m ka) pos
        let cs := accElems tl0 k.atype x.acc m
        sparseRows tl0 k x badB cols fuel (m + 1) (putAccElems t k.atype x.acc m (List.zipWith
          (fun c col => stepElem k c (List.zipWith (fun a b => a.map (fun v => (v, b))) row col))
          cs cols))

/-- A sparse step (R207): the state of the tile, and the status and DONE of a stop. -/
def sparseStep (tl : Tile) (x : SparseArgs) : Tile × Option (Nat × Nat) :=
  let ta := presentTag tl x.slotA
  let tb := presentTag tl x.slotB
  match pairOf ta tb with
  | none => (tl, some (0x0904, 0))
  | some k =>
    let kb := fmtK tb.fmt
    let nb := if x.n = 6 then 2 else 3
    let bs := (List.range nb).map (x.slotB + ·)
    let cols := (List.range 128).map (fun n => (bs.map (fun b => slotRow tl b n kb)).flatten)
    sparseRows tl k x (bs.any (fun b => slotBad tl b kb)) cols 128 0 tl

/-! ### Rows -/

/-- The outcome of one row of a load or a drain. -/
inductive RowRes where
  | ok (c : Command) (s : State)
  | stop (s : State) (st : Nat)
  | wait (s : State)

/-- Whether a format's source is scaled (R25). -/
def ptrScaled (p : Word) : Bool := 5 ≤ pFmt p && pFmt p ≤ 11 && pBlkl p != 0

/-- Blocks of a row of `k` elements. -/
def blocksPer (p : Word) (k : Nat) : Nat := k / 2 ^ pBlkl p

/-- ROWS of e0, 0 meaning 128 (R202). -/
def cmdRows (c : Command) : Nat := if field (c.e 0) 15 8 = 0 then 128 else field (c.e 0) 15 8

/-- ROW0 of e0 (R202). -/
def cmdRow0 (c : Command) : Nat := field (c.e 0) 23 16

/-- `n` bytes of an array from a pointer of any space on: each a byte, or 256 more than the status with
which its read fails; none while one waits for another rank's page. -/
def fetchBytes (g : Agent) (p : Word) : Nat → State → Option (List Nat) × State
  | 0, s => (some [], s)
  | n + 1, s =>
    let next := fun (v : Nat) (s : State) =>
      let (l, s) := fetchBytes g (pWith p (pOff p + 1)) n s
      (l.map (v :: ·), s)
    match agentRead s g p 1 with
    | .ok s v bad => next (if bad then 256 + stUncorr else v) s
    | .fail s c sub => next (256 + accStatus c sub) s
    | .wait s => (none, s)

/-- The scale bytes of a command, read from `p` on where it has not read them yet (R106, R205). -/
def fetchScales (g : Agent) (p : Word) (n : Nat) (c : Command) (s : State) : Option Command × State :=
  match c.scales with
  | some _ => (some c, s)
  | none =>
    match holdSpan s g p n with
    | (none, s) => (none, s)
    | (some g, s) =>
      let (l, s) := fetchBytes g p n s
      (l.map (fun l => { c with scales := some l }), s)

/-- The failure of the earliest row of a status table among scale bytes that could not be read. -/
def scaleFail (l : List Nat) : Option Nat := ((l.filter (256 ≤ ·)).map (· - 256)).min?

/-- Bytes of a tile's scratchpad as a port-0 command reads them (R204). -/
def loadRead (s : State) (t : Nat) (c : Command) (off n : Nat) : Nat × Bool := pathRead s 3 c.seen t off n

/-- The bytes of a source row read by block: blocks of scale -128 are not read and give zeros
(R24, R203). -/
def loadBlocks (s : State) (t : Nat) (c : Command) (src bytes : Nat) (scales : List Nat) : Nat × Bool :=
  scales.zipIdx.foldl (fun (acc : Nat × Bool) e =>
    if e.1 = 0x80 then acc
    else
      let (v, b) := loadRead s t c (src + e.2 * bytes) bytes
      (acc.1 + v * 2 ^ (8 * bytes * e.2), acc.2 || b)) (0, false)

/-- A source row as it lies in the slot: 6-bit elements one to a byte (R196). -/
def expandRow (f v : Nat) : Nat := if f = 7 || f = 8 then packChunks 8 (chunks 6 128 v) else v

/-- Bytes of a source row (R196). -/
def srcRowBytes (f : Nat) : Nat := if f = 7 || f = 8 then 96 else 128

/-- One XE8 block at a scratchpad byte: elements, scale, size, or a status (R28, R213). -/
def xe8At (s : State) (t : Nat) (c : Command) (src : Nat) : Except Nat (List Nat × Nat × Nat) :=
  let bytes := fun n => (chunks 8 n (loadRead s t c src n).1)
  if spadSize < src + 2 then .error 0x0400
  else
    match xe8Size ((bytes 2).getD 0 0) ((bytes 2).getD 1 0) with
    | none => if (loadRead s t c src 2).2 then .error stUncorr else .error 0x0901
    | some size =>
      if spadSize < src + size then .error 0x0400
      else
        match xe8Decode (bytes size) with
        | none => .error 0x0901
        | some r => if (loadRead s t c src size).2 then .error stUncorr else .ok r

/-- Where an XE8 block ends, by its first two bytes (R28); none where they give no size or lie past the
limit. -/
def xe8End (s : State) (t : Nat) (c : Command) (src : Nat) : Option Nat :=
  let h := (loadRead s t c src 2).1
  if spadSize < src + 2 then none else (xe8Size (h % 256) (h / 256 % 256)).map (src + ·)

/-- Four XE8 blocks: their elements, scales and end, or the statuses of those that fail. A block that fails
with a known end does not hide what those after it meet: the row's status is the earliest of R213. -/
def xe8Row (s : State) (t : Nat) (c : Command) :
    Nat → Nat → Except (List Nat) (List Nat × List Nat × Nat)
  | 0, src => .ok ([], [], src)
  | n + 1, src =>
    let rest := match xe8End s t c src with
      | some a => xe8Row s t c n a
      | none => .ok ([], [], src)
    match xe8At s t c src, rest with
    | .ok (els, sc, _), .ok r => .ok (els ++ r.1, sc :: r.2.1, r.2.2)
    | .ok _, .error l => .error l
    | .error e, .ok _ => .error [e]
    | .error e, .error l => .error (e :: l)

/-- One row of a load from pointer `p` into `slot` on tile `t` (R203): row number `row`, row `i` of
the command, at stride `stride`; an XE8 row starts at `c.srcA`. A scaled source's bytes of scale are read
before the first row (R205). -/
def loadRow (t slot row i stride : Nat) (p : Word) (c : Command) (s : State) : RowRes :=
  if pFmt p = 12 then
    match xe8Row s t c 4 c.srcA with
    | .error l => .stop (if l.contains stUncorr then chargeSram s t 3 else s) (l.foldl min stUncorr)
    | .ok (els, scs, end_) =>
      .ok { c with srcA := end_ }
        (updTile s t fun tl => putSlotRow tl slot row (packChunks 8 els) scs)
  else
    let n := srcRowBytes (pFmt p)
    let src := pOff p + i * stride
    if ptrScaled p then
      let bpr := blocksPer p (fmtK (pFmt p))
      match fetchScales (cmdAgent s c t 0 false) (w64 (c.e 1)) (cmdRows c * bpr) c s with
      | (none, s) => .wait s
      | (some c, s) =>
        let scs := ((c.scales.getD []).drop (bpr * i)).take bpr
        let (row', b) := loadBlocks s t c src (n / bpr) scs
        let s := if b then chargeSram s t 3 else s
        match scaleFail scs with
        | some st => .stop s st
        | none =>
          if b then .stop s stUncorr
          else .ok c (updTile s t fun tl => putSlotRow tl slot row (expandRow (pFmt p) row') scs)
    else
      let (v, b) := loadRead s t c src n
      if b then .stop (chargeSram s t 3) stUncorr
      else .ok c (updTile s t fun tl => putSlotRow tl slot row (expandRow (pFmt p) v) [])

/-- Rows one after the other, `n` of them: the command and its state after them, and how they end:
in order, at a stop with its status, or waiting for a remote page. -/
inductive RunRes where
  | done (c : Command) (s : State)
  | stop (c : Command) (s : State) (st : Nat)
  | wait (s : State)

/-- `n` rows of a command; DONE counts them. -/
def runRows (f : Command → State → RowRes) : Nat → Command → State → RunRes
  | 0, c, s => .done c s
  | n + 1, c, s =>
    match f c s with
    | .ok c s => runRows f n { c with done := c.done + 1 } s
    | .stop s st => .stop c s st
    | .wait s => .wait s

/-! ### Drains (R211) -/

/-- The exact value of an accumulator element. -/
def accVal (atype v : Nat) : FVal :=
  if atype = 2 then fp64.decode v else if atype = 1 then intVal (sgn 32 v) else fp32.decode v

/-- The conversion of a drain. -/
def drainConv (c : Command) (narrow : Bool) (u : BitVec 32) : Conv :=
  ⟨⟨c.snap.mode.getD .rne, u⟩, narrow, narrow && c.snap.sat⟩

/-- Elements converted in order, the generator stepping for each one (R31, R211). -/
def drainElems (c : Command) (dst : EFmt) (narrow : Bool) :
    List (FVal × Int) → BitVec 32 → List Nat × BitVec 32
  | [], u => ([], u)
  | (v, sc) :: l, u =>
    let b := if sc = -128 then 0
      else (dst.encode (drainConv c narrow u) (v.scale (-sc))).1
    let next := if c.snap.mode = some .stoch then lfsrNext u else u
    let (r, u') := drainElems c dst narrow l next
    (b :: r, u')

/-- The scales of a drained row by block of `k` elements: one byte for each (R180, R211). -/
def drainScales (dst : EFmt) (k : Nat) (vals : List FVal) : List Nat :=
  (groupsOf k (128 / k) vals).map (fun b => (blockScale (fmtLimit dst) b).1)

/-- Elements with the scale of their block. -/
def withScales (k : Nat) (vals : List FVal) (scs : List Nat) : List (FVal × Int) :=
  vals.zipIdx.map (fun e => (e.1, sgn 8 (scs.getD (e.2 / k) 0x80)))

/-- Bytes written one after the other at a pointer. -/
def agentEachByte (s : State) (g : Agent) (p : Word) : List Nat → MRes
  | [] => .ok s 0 false
  | b :: bs =>
    match agentWrite s g p 1 b with
    | .ok s _ _ => agentEachByte s g (pWith p (pOff p + 1)) bs
    | r => r

/-- Bytes written at a pointer of any space: to global memory together (R94), elsewhere one by one. -/
def agentPutBytes (s : State) (g : Agent) (p : Word) (bs : List Nat) : MRes :=
  match resolve s g.st g.home (some g.home) p bs.length with
  | .ok (.glob _) => agentWrite s g p bs.length (packChunks 8 bs)
  | _ => agentEachByte s g p bs

/-- Bytes of a drained row in the scratchpad for a destination format. -/
def dstRowBytes (f atype : Nat) : Nat :=
  if f = 0 then (if atype = 2 then 1024 else 512) else 128 * codeBits f / 8

/-- CLR: a drained row becomes zero (R211). -/
def drainClear (tl : Tile) (c : Command) (atype acc row : Nat) : Tile :=
  if bitOf (c.e 0) 24 then putAccElems tl atype acc row [] else tl

/-- One row of a drain (R211). `c.srcA` counts the bytes written of an XE8 destination. -/
def drainRow (t : Nat) (c : Command) (s : State) : RowRes :=
  let p := c.b
  let f := pFmt p
  let acc := c.a.toNat % 4
  let atype := field (c.e 0) 29 28
  let row := cmdRow0 c + c.done
  let tl := tile s t
  if accBad tl atype acc row then .stop (chargeSram s t 3) stUncorr
  else
    let raw := accElems tl atype acc row
    let vals := raw.map (accVal atype)
    let at_ := pOff p + c.done * field (c.e 0) 63 32
    let fin := fun (u : BitVec 32) (c : Command) (s : State) =>
      RowRes.ok { c with snap := { c.snap with lfsr := u } }
        (updTile s t fun tl => drainClear tl c atype acc row)
    let write := fun (s : State) (n v : Nat) => lateWrite s t 3 c.id at_ n v (fun _ => none)
    if f = 0 then
      fin c.snap.lfsr c (write s (dstRowBytes 0 atype) (packChunks (if atype = 2 then 64 else 32) raw))
    else if f = 12 then
      let scs := drainScales (.flt fp8e4) 32 vals
      let (els, u) := drainElems c (.flt fp8e4) true (withScales 32 vals scs) c.snap.lfsr
      let bytes := ((groupsOf 32 4 els).zipIdx.map
        (fun e => xe8Encode e.1 (scs.getD e.2 0))).flatten
      let o := pOff p + c.srcA
      if spadSize < o + bytes.length then .stop s 0x0400
      else fin u { c with srcA := c.srcA + bytes.length }
        (lateWrite s t 3 c.id o bytes.length (packChunks 8 bytes) (fun _ => none))
    else
      let dst := efmtOf f
      let n := dstRowBytes f atype
      if ptrScaled p then
        let k := 2 ^ pBlkl p
        let scs := drainScales dst k vals
        let (els, u) := drainElems c dst true (withScales k vals scs) c.snap.lfsr
        let e1 := w64 (c.e 1)
        let g := cmdAgent s c t 0 false
        let s' := write s n (packChunks dst.width els)
        match agentPutBytes s' g (pWith e1 (pOff e1 + c.done * (128 / k))) scs with
        | .wait s => .wait s
        | .fail s cause sub => .stop s (accStatus cause sub)
        | .ok s _ _ => fin u c s
      else
        let (els, u) := drainElems c dst (3 ≤ f) (vals.map (fun v => (v, 0))) c.snap.lfsr
        fin u c (write s n (packChunks dst.width els))

/-- The write at LENP after the last row of an XE8 drain (R211). -/
def drainLen (t : Nat) (c : Command) (s : State) : RunRes :=
  if pFmt c.b != 12 then .done c s
  else
    match agentWrite s (cmdAgent s c t 0 false) (w64 (c.e 1)) 8 c.srcA with
    | .ok s _ _ => .done c s
    | .wait s => .wait s
    | .fail s cause sub => .stop c s (accStatus cause sub)

/-! ### Copies to vector registers (R212) -/

/-- A row of an mtov. -/
def tovRow (t : Nat) (c : Command) (s : State) : RowRes :=
  let acc := c.a.toNat % 4
  let atype := field (c.e 0) 29 28
  let row := cmdRow0 c + c.done
  let vd := field (c.e 0) 4 0
  let tl := tile s t
  if accBad tl atype acc row then .stop (chargeSram s t 3) stUncorr
  else if c.snap.tid == deadTid then .ok c s
  else
    let put := fun (s : State) (f a : Nat) =>
      withShadow s c.snap.tid fun s i => writeWin s i f (BitVec.ofNat 4096 (accRow tl a row))
    .ok c (if atype = 2 then put (put s (vd + 2 * c.done) acc) (vd + 2 * c.done + 1) (acc + 1)
      else put s (vd + c.done) acc)

end Sys2Proof.Machine
end

