-- ==== Sys2Proof/Machine/Matrix.lean ====
section
/-! DEFINITION. The matrix engine: claims (R199, R200), port-0 commands (R201 to R215), their
acceptance, start and completion (R213, R390), and mgemm's steps (R209). -/

namespace Sys2Proof.Machine

/-! ### Claims (R200) -/

/-- Whether a claim mask is malformed. -/
def badMask (m : Nat) : Bool := m = 0 || m / 2 ^ 20 != 0

/-- The resources a thread holds on its home tile. -/
def myHeld (s : State) : Nat := heldBy (tile s (me s).home) (.thread s.cur)

/-- mclaim (R200). -/
def execMclaim (stl : BitVec 3) (ra : BitVec 5) (s : State) : Host.Outcome State Fault Refusal :=
  run stl { xs := [ra] } (fun s =>
    let m := (rx s ra).toNat
    if badMask m then .trap .illegal (rx s ra) s
    else if m &&& myHeld s != 0 then .trap .slot (w64 (m &&& myHeld s)) s
    else
      let (n, s) := freshId s
      .sleep .claim (updTile s (me s).home fun tl =>
        { tl with claims := tl.claims ++ [⟨n, s.cur, m⟩] })) s

/-- mrel (R200). -/
def execMrel (stl : BitVec 3) (ra : BitVec 5) (s : State) : Host.Outcome State Fault Refusal :=
  run stl { xs := [ra] } (fun s =>
    let m := (rx s ra).toNat
    let lacks := m - (m &&& myHeld s)
    if badMask m then .trap .illegal (rx s ra) s
    else if lacks != 0 then .trap .slot (w64 lacks) s
    else
      let (n, s) := freshId s
      .sleep .release (updTile s (me s).home fun tl =>
        { tl with releases := tl.releases ++ [⟨n, s.cur, m⟩] })) s

/-- Whether a claim may be granted: its resources are free, and no earlier waiting claim names one
of them (R200). -/
def claimReady (tl : Tile) (c : Claim) : Bool :=
  c.mask &&& heldMask tl == 0
    && (tl.claims.takeWhile (fun d => d.id != c.id)).all (fun d => d.mask &&& c.mask == 0)

/-- MCLAIM_GRANT (R200). -/
def execMclaimGrant (t id : Nat) (s : State) : Host.Outcome State Fault Refusal :=
  match (tile s t).claims.find? (fun c => c.id == id) with
  | some c =>
    if claimReady (tile s t) c then
      let s := updTile s t fun tl =>
        holdAll { tl with claims := tl.claims.filter (fun d => d.id != id) } c.mask (.thread c.tid)
      .next (complete s c.tid (fun th => th))
    else .next s
  | none => .next s

/-- Whether a release may take place: no command of the thread names one of its resources any
more (R200). -/
def releaseReady (tl : Tile) (c : Claim) : Bool :=
  namedBy tl (fun d => d.snap.tid == c.tid && d.snap.task.isNone) &&& c.mask == 0

/-- MREL_FREE (R200). -/
def execMrelFree (t id : Nat) (s : State) : Host.Outcome State Fault Refusal :=
  match (tile s t).releases.find? (fun c => c.id == id) with
  | some c =>
    if releaseReady (tile s t) c then
      let s := updTile s t fun tl =>
        freeAll { tl with releases := tl.releases.filter (fun d => d.id != id) } c.mask
      .next (complete s c.tid (fun th => th))
    else .next s
  | none => .next s

/-! ### Issue (R199, R201, R215) -/

/-- A port-0 word: its checks, the SLOT check of R199, and the command on its way to the engine of
the home tile. -/
def matrixIssue (cmd : Nat) (ok : Bool) (xs : List (BitVec 5)) (a b : State → Word)
    (stl : BitVec 3) (tag : BitVec 4) (s : State) : Host.Outcome State Fault Refusal :=
  run stl { ok := ok, xs := xs, res := xs.map (fun x => (x, 5)), kind := 3 } (fun s =>
    let home := (me s).home
    let (c, s) := newCommand s 0 cmd tag (a s) (b s)
    let tl := tile s home
    let need := cmdNames tl tl.mQueue c
    let lacks := need - (need &&& myHeld s)
    if lacks != 0 then .trap .slot (w64 lacks) s
    else .sleep (.accept 0) (updTile s home fun tl => { tl with mArrivals := tl.mArrivals ++ [c] }))
    s

/-- A slot or accumulator number as an operand value. -/
def numOp (n : BitVec 5) : State → Word := fun _ => w64 n.toNat

/-- mload (R203). -/
def execMload (stl : BitVec 3) (tag : BitVec 4) (ra rb : BitVec 5) (s : State) :
    Host.Outcome State Fault Refusal :=
  matrixIssue cmdLoad (slotOk ra) [rb] (numOp ra) (rx · rb) stl tag s

/-- mma (R206). -/
def execMma (stl : BitVec 3) (tag : BitVec 4) (ra rb : BitVec 5) (s : State) :
    Host.Outcome State Fault Refusal :=
  matrixIssue cmdMma (slotOk ra && slotOk rb) [] (numOp ra) (numOp rb) stl tag s

/-- mmas (R207). -/
def execMmas (stl : BitVec 3) (tag : BitVec 4) (ra rb : BitVec 5) (s : State) :
    Host.Outcome State Fault Refusal :=
  matrixIssue cmdMmas (slotOk ra && slotOk rb) [] (numOp ra) (numOp rb) stl tag s

/-- mgemm (R209). -/
def execMgemm (stl : BitVec 3) (tag : BitVec 4) (ra rb : BitVec 5) (s : State) :
    Host.Outcome State Fault Refusal :=
  matrixIssue cmdGemm true [ra, rb] (rx · ra) (rx · rb) stl tag s

/-- mdrain (R211). -/
def execMdrain (stl : BitVec 3) (tag : BitVec 4) (ra rb : BitVec 5) (s : State) :
    Host.Outcome State Fault Refusal :=
  matrixIssue cmdDrain (accOk ra) [rb] (numOp ra) (rx · rb) stl tag s

/-- mzero (R210). -/
def execMzero (stl : BitVec 3) (tag : BitVec 4) (ra : BitVec 5) (s : State) :
    Host.Outcome State Fault Refusal :=
  matrixIssue cmdZero (accOk ra) [] (numOp ra) (fun _ => 0) stl tag s

/-- mtov (R212). -/
def execMtov (stl : BitVec 3) (tag : BitVec 4) (ra : BitVec 5) (s : State) :
    Host.Outcome State Fault Refusal :=
  matrixIssue cmdTov (accOk ra) [] (numOp ra) (fun _ => 0) stl tag s

/-! ### Refusals (R213) -/

/-- The bits of e0 that a command's fields leave must be zero (R202). -/
def e0Reserved (c : Command) : Bool :=
  let e := c.e 0
  if c.cmd = cmdLoad then field e 31 24 != 0 || field e 7 0 != 0
  else if c.cmd = cmdMma then e / 4 != 0
  else if c.cmd = cmdMmas then e / 2 ^ 11 != 0 || field e 3 2 != 0
  else if c.cmd = cmdGemm then e / 2 ^ 48 != 0 || field e 31 24 != 0 || field e 19 2 != 0
  else if c.cmd = cmdDrain then
    field e 31 30 != 0 || field e 27 25 != 0 || field e 7 0 != 0
  else if c.cmd = cmdTov then e / 2 ^ 30 != 0 || field e 27 24 != 0 || field e 7 5 != 0
  else false

/-- Whether any of these is no multiple of 64. -/
def off64 (l : List Nat) : Bool := l.any (fun n => n % 64 != 0)

/-- Whether a scratchpad operand of `rows` rows, `bytes` each, at a stride lies outside (R18, R202):
an XE8 operand is judged by its pointer's space alone. -/
def srcOutside (p : Word) (last bytes : Nat) : Bool :=
  pSpace p != 2 || (pFmt p != 12 && decide (spadSize < pOff p + last + bytes))

/-- What an array of scale bytes or LENP fails before translation. -/
def arrayFails (s : State) (g : Agent) (c : Command) (n : Nat) (cause : Cause) : Bool :=
  unreachable s g (w64 (c.e 1)) n == some cause

/-- Whether a pointer that needs a format fails R20. -/
def typedBad (p : Word) : Bool := pFmt p != 0 && !typedOk p

/-- The refusals of an mload (R203, R213). -/
def refuseLoad (s : State) (t : Nat) (c : Command) : Option Nat :=
  let p := c.b
  let xe8 := pFmt p = 12
  let rows := cmdRows c
  let bpr := blocksPer p (fmtK (pFmt p))
  let stride := field (c.e 0) 63 32
  let scaled := ptrScaled p && !typedBad p
  let g := cmdAgent s c t 0 false
  let arr := fun cause => scaled && arrayFails s g c (rows * bpr) cause
  refusal [(!xe8 && off64 [pOff p, stride], 0x0300),
    (srcOutside p ((rows - 1) * stride) (srcRowBytes (pFmt p)) || arr .addr, 0x0400),
    (decide (128 < rows) || decide (128 < cmdRow0 c + rows) || e0Reserved c, 0x0402),
    (typedBad p, 0x0900), (scaled && decide (8 < bpr), 0x0905), (arr .perm, 0x1A00)]

/-- The refusals of an mma (R206, R213). -/
def refuseMma (tl : Tile) (q : List Command) (c : Command) : Option Nat :=
  let k := pairOf (effTag tl q (c.a.toNat % 16)) (effTag tl q (c.b.toNat % 16))
  refusal [(e0Reserved c || (k.map (·.acc) == some AccType.fp64 && c.e 0 % 2 == 1), 0x0402),
    (k.isNone, 0x0904)]

/-- The operands of an mmas (R202, R207). -/
def sparseArgs (c : Command) : SparseArgs :=
  { n := field (c.e 0) 10 8, slotA := c.a.toNat % 16, slotB := c.b.toNat % 16,
    slotM := field (c.e 0) 7 4, acc := c.e 0 % 4 }

/-- The refusals of an mmas (R207, R213). -/
def refuseMmas (tl : Tile) (q : List Command) (c : Command) : Option Nat :=
  let x := sparseArgs c
  let nb := sparseNb c
  let tag := effTag tl q
  let k := pairOf (tag x.slotA) (tag x.slotB)
  let same := (List.range nb).all (fun j => 16 ≤ x.slotB + j || tag (x.slotB + j) == tag x.slotB)
  refusal [(e0Reserved c || !(x.n == 3 || x.n == 4 || x.n == 6) || decide (16 < x.slotB + nb)
      || x.slotM == x.slotA || (decide (x.slotB ≤ x.slotM) && decide (x.slotM < x.slotB + nb))
      || (k.map (·.acc) == some AccType.fp64 && c.e 0 % 2 == 1), 0x0402),
    (!same || (k.map (·.sparse)).getD false == false, 0x0904)]

/-- The refusals of an mgemm (R209, R213). -/
def refuseGemm (c : Command) : Option Nat :=
  let k := pairOf (ptrTag c.a) (ptrTag c.b)
  let n := gemmSteps c
  let side := fun (p : Word) (e : Nat) =>
    (pFmt p != 12 && off64 [pOff p, field e 63 32, field e 31 0],
     srcOutside p ((n - 1) * field e 63 32 + 127 * field e 31 0) (srcRowBytes (pFmt p)))
  let a := side c.a (c.e 1)
  let b := side c.b (c.e 2)
  refusal [(a.1 || b.1, 0x0300), (a.2 || b.2, 0x0400),
    (e0Reserved c || n = 0 || decide (4096 < n) || decide (12 < gemmSb c)
      || (k.map (·.acc) == some AccType.fp64 && c.e 0 % 2 == 1), 0x0402),
    (typedBad c.a || typedBad c.b, 0x0900), (k.isNone, 0x0904),
    (ptrScaled c.a || ptrScaled c.b, 0x0905)]

/-- ATYPE 3, or ATYPE 2 with an odd accumulator (R202). -/
def atypeBad (c : Command) : Bool :=
  let at_ := field (c.e 0) 29 28
  at_ == 3 || (at_ == 2 && c.a.toNat % 2 == 1)

/-- The refusals of an mdrain (R211, R213). -/
def refuseDrain (s : State) (t : Nat) (c : Command) : Option Nat :=
  let p := c.b
  let f := pFmt p
  let rows := cmdRows c
  let stride := field (c.e 0) 63 32
  let n := dstRowBytes f (field (c.e 0) 29 28)
  let g := cmdAgent s c t 0 false
  let arr := fun cause =>
    (ptrScaled p && !typedBad p && arrayFails s g c (rows * blocksPer p 128) cause)
      || (f = 12 && arrayFails s g c 8 cause)
  refusal [(decide (1 ≤ f) && decide (f ≤ 12) && c.snap.mode.isNone, 0x0100),
    (off64 [pOff p] || (f != 12 && off64 [stride]) || (f == 12 && c.e 1 % 8 != 0), 0x0300),
    (srcOutside p ((rows - 1) * stride) n || arr .addr, 0x0400),
    (decide (128 < rows) || decide (128 < cmdRow0 c + rows) || e0Reserved c || atypeBad c, 0x0402),
    (typedBad p, 0x0900), (arr .perm, 0x1A00)]

/-- The refusals of an mtov (R212, R213). -/
def refuseTov (c : Command) : Option Nat :=
  let rows := field (c.e 0) 15 8
  let per := if field (c.e 0) 29 28 = 2 then 2 else 1
  refusal [(e0Reserved c || rows = 0 || decide (24 < rows) || decide (128 < cmdRow0 c + rows)
      || atypeBad c || decide (c.snap.vwSize < field (c.e 0) 4 0 + per * rows), 0x0402),
    (c.snap.displaced || c.snap.task.isSome, 0x0403)]

/-- The status with which a command is refused at acceptance behind the queue `q` (R213, R390). -/
def refuseMatrix (s : State) (t : Nat) (q : List Command) (c : Command) : Option Nat :=
  let tl := tile s t
  if c.cmd = cmdLoad then refuseLoad s t c
  else if c.cmd = cmdMma then refuseMma tl q c
  else if c.cmd = cmdMmas then refuseMmas tl q c
  else if c.cmd = cmdGemm then refuseGemm c
  else if c.cmd = cmdDrain then refuseDrain s t c
  else if c.cmd = cmdTov then refuseTov c
  else none

/-! ### Acceptance, start and completion (R201) -/

/-- A task's command has ended: its stage manager learns of it (R222). -/
def taskEnded (s : State) (id st done : Nat) : State :=
  { s with clusters := smMap (fun _ k =>
      { k with running := k.running.map (fun x =>
          if x.id = id then { x with finished := some (st, done) } else x) }) s.clusters }

/-- A command ends with status and DONE, or in order: its signal, or its task's end. -/
def matrixEnd (s : State) (c : Command) (fail : Option (Nat × Nat)) : State :=
  match c.snap.task with
  | some k => taskEnded s k ((fail.map (·.1)).getD 0) ((fail.map (·.2)).getD 0)
  | none => cmdSignal s c.snap.tid 0 c.snap.cue fail

/-- MATRIX_ACCEPT (R201, R213): the oldest arrival enters the queue, or is refused. -/
def execMatrixAccept (t : Nat) (s : State) : Host.Outcome State Fault Refusal :=
  let tl := tile s t
  match tl.mArrivals with
  | [] => .next s
  | c :: rest =>
    if 16 ≤ tl.mQueue.length then .next s
    else
      match refuseMatrix s t tl.mQueue c with
      | some st =>
        let s := updTile s t fun tl => freeGone { tl with mArrivals := rest }
        .next (acceptThread (matrixEnd s c (some (st, 0))) c)
      | none =>
        let s := updTile s t fun tl => { tl with mArrivals := rest, mQueue := tl.mQueue ++ [c] }
        let s := if c.snap.task.isNone then portMore s c.snap.tid 0 else s
        .next (acceptThread s c)

/-- The units a command occupies: load 1, array 2, drain 4 (R201). -/
def cmdUnits (c : Command) : Nat :=
  if c.cmd = cmdLoad then 1 else if c.cmd = cmdGemm then 3
  else if c.cmd = cmdDrain || c.cmd = cmdTov then 4 else 2

/-- Whether two commands conflict (R201). -/
def conflicts (tl : Tile) (c d : Command) : Bool :=
  let q := fun (x : Command) => earlierThan tl.mQueue x.id
  cmdNames tl (q c) c &&& cmdWrites tl (q d) d != 0
    || cmdWrites tl (q c) c &&& cmdNames tl (q d) d != 0

/-- Rows that a command of rows has in all. -/
def rowCount (c : Command) : Nat :=
  if c.cmd = cmdTov then field (c.e 0) 15 8 else cmdRows c

/-- Whether a command of rows has done them all and holds its unit no more, though its writes may not
have reached their banks yet (R201, R216). -/
def rowsDone (c : Command) : Bool :=
  (c.cmd == cmdLoad || c.cmd == cmdDrain || c.cmd == cmdTov) && decide (rowCount c ≤ c.done)

/-- Whether an accepted command may start (R201). -/
def matrixReady (tl : Tile) (c : Command) : Bool :=
  let u := cmdUnits c
  !c.started
    && tl.mQueue.all (fun d => !d.started || rowsDone d || cmdUnits d &&& u == 0)
    && (earlierThan tl.mQueue c.id).all (fun d =>
      (d.started || cmdUnits d &&& u == 0) && !conflicts tl c d)

/-- A command of the engine's queue. -/
def matrixCmd (s : State) (t id : Nat) : Option Command :=
  (tile s t).mQueue.find? (fun c => c.id == id)

/-- A command of the engine's queue replaced. -/
def putMatrixCmd (s : State) (t : Nat) (c : Command) : State :=
  updTile s t fun tl => { tl with mQueue := tl.mQueue.map (fun d => if d.id = c.id then c else d) }

/-- MATRIX_START (R201): mload's tag is set (R196); an XE8 source begins at its OFFSET. -/
def execMatrixStart (t id : Nat) (s : State) : Host.Outcome State Fault Refusal :=
  match matrixCmd s t id with
  | some c =>
    if matrixReady (tile s t) c then
      let first := if c.cmd = cmdLoad then pOff c.b else if c.cmd = cmdGemm then pOff c.a else 0
      let c' := if c.done = 0 then { c with started := true, srcA := first, srcB := pOff c.b }
        else { c with started := true }
      let s := putMatrixCmd s t c'
      .next (if c.cmd = cmdLoad then
          updTile s t fun tl =>
            { tl with slotTag := smSet tl.slotTag (c.a.toNat % 16) (ptrTag c.b) }
        else s)
    else .next s
  | none => .next s

/-- A command leaves the queue and ends. -/
def matrixFinish (s : State) (t : Nat) (c : Command) (fail : Option (Nat × Nat)) : State :=
  let s := updTile s t fun tl => freeGone { tl with mQueue := tl.mQueue.filter (·.id != c.id) }
  let s := if c.snap.task.isNone then portLess s c.snap.tid 0 else s
  matrixEnd (lateDone (fwdDone s c.id) c.id) c fail

/-- What remains of a started command of rows, `n` of them (all of them at completion; fewer when
a stop of R217 interrupts it). -/
def matrixRows (t n : Nat) (c : Command) (s : State) : RunRes :=
  if c.cmd = cmdLoad then
    runRows (fun c s => loadRow t (c.a.toNat % 16) (cmdRow0 c + c.done) c.done
      (field (c.e 0) 63 32) c.b c s) n c s
  else if c.cmd = cmdDrain then runRows (drainRow t) n c s
  else runRows (tovRow t) n c s

/-- The array's work of an mma, mmas or mzero: the tile after it, and a stop's status and DONE. -/
def arrayWork (tl : Tile) (c : Command) : Tile × Option (Nat × Nat) :=
  if c.cmd = cmdMma then
    match denseStep tl (c.a.toNat % 16) (c.b.toNat % 16) (c.e 0 % 4) with
    | .ok tl => (tl, none)
    | .error st => (tl, some (st, 0))
  else if c.cmd = cmdMmas then sparseStep tl (sparseArgs c)
  else
    let a := c.a.toNat % 4
    ({ opClear tl accBase (accAt a 0) 65536 with acc := clearRange tl.acc (accAt a 0) 65536 }, none)

/-- A run of rows ends its command. -/
def finishRun (s0 : State) (t : Nat) (c0 : Command) : RunRes → State
  | .wait s => keepRequests s0 s
  | .stop c s st => matrixFinish s t c (some (st, c.done))
  | .done c s =>
    if c0.cmd = cmdDrain then
      match drainLen t c s with
      | .done c s => matrixFinish s t c none
      | .stop c s st => matrixFinish s t c (some (st, c.done))
      | .wait s => keepRequests s0 s
    else matrixFinish s t c none

/-- A command of rows between two of them: the source unit that an XE8 load has used in part stays as it has
been read (R204). -/
def holdRest (s : State) (t : Nat) (c : Command) : Command :=
  if c.cmd = cmdLoad && pFmt c.b = 12 && c.srcA % 64 != 0 then
    { c with seen := readAhead s 3 t (c.srcA / 64) c.seen }
  else c

/-- A started command of rows does some of them: the number is free (log 17 [DEDUCED]). -/
def matrixMove (t id : Nat) (s : State) : State :=
  match matrixCmd s t id with
  | none => s
  | some c =>
    let left := rowCount c - c.done
    if !c.started || cmdUnits c = 2 || c.cmd = cmdGemm || left = 0 then s
    else
      let (n, s1) := draw s
      match matrixRows t (n % left + 1) c s1 with
      | .done c s => putMatrixCmd s t (holdRest s t c)
      | r => finishRun s1 t c r

/-- The source of a load's element rows: pointer, first byte, rows, bytes from one row to the next, and
the 64-B units a row may touch (R203, R209). -/
def loadSource (c : Command) (d : Nat) : Word × Nat × Nat × Nat × Nat :=
  if c.cmd = cmdGemm then
    let p := if d % 2 = 0 then c.a else c.b
    let e := if d % 2 = 0 then c.e 1 else c.e 2
    if pFmt p = 12 then (p, if d % 2 = 0 then c.srcA else c.srcB, 128, 184, 4)
    else (p, pOff p + c.done * field e 63 32, 128, field e 31 0, 3)
  else if pFmt c.b = 12 then (c.b, c.srcA, cmdRows c - c.done, 184, 4)
  else (c.b, pOff c.b, cmdRows c, field (c.e 0) 63 32, 3)

/-- A started load or mgemm reads one of its source units ahead: which one is free (R204, log 17
[DEDUCED]). -/
def matrixAhead (t id : Nat) (s : State) : State :=
  match matrixCmd s t id with
  | none => s
  | some c =>
    if !c.started || !(c.cmd == cmdLoad || c.cmd == cmdGemm) then s
    else
      let (d, s) := draw s
      let (_, first, rows, stride, n) := loadSource c d
      let a := first + d / 2 % rows * stride + 64 * (d / 2 / rows % n)
      if spadSize ≤ a then s
      else putMatrixCmd s t { c with seen := readAhead s 3 t (a / 64) c.seen }

/-- MATRIX_COMPLETE (R201): a started command has done its work; an mgemm has done its last step. -/
def execMatrixComplete (t id : Nat) (s : State) : Host.Outcome State Fault Refusal :=
  match matrixCmd s t id with
  | some c =>
    if !c.started then .next s
    else if c.cmd = cmdGemm then
      if gemmSteps c ≤ c.done then .next (matrixFinish s t c none) else .next s
    else if cmdUnits c = 2 then
      let (tl, fail) := arrayWork (tile s t) c
      let s := if fail.any (·.1 = stUncorr) then chargeSram s t 3 else s
      .next (matrixFinish (setTile s t tl) t c fail)
    else .next (finishRun s t c (matrixRows t (rowCount c - c.done) c s))
  | none => .next s

/-- The two loads of an mgemm's step and its mma: the state after it with the operands' next XE8
places, or the status of its failure (R209). -/
def gemmStep (t : Nat) (c : Command) (s : State) : State × Except Nat (Nat × Nat) :=
  let ba := gemmSb c + 2 * (c.done % 2)
  let load := fun (slot : Nat) (p : Word) (e src : Nat) (s : State) =>
    let q := if pFmt p = 12 then p else pWith p (pOff p + c.done * field e 63 32)
    let s := updTile s t fun tl => { tl with slotTag := smSet tl.slotTag slot (ptrTag p) }
    runRows (fun c' s => loadRow t slot c'.done c'.done (field e 31 0) q c' s) 128
      { c with done := 0, srcA := src } s
  match load ba c.a (c.e 1) c.srcA s with
  | .stop _ s st => (s, .error st)
  | .wait s => (s, .error 0)
  | .done ca s =>
    match load (ba + 1) c.b (c.e 2) c.srcB s with
    | .stop _ s st => (s, .error st)
    | .wait s => (s, .error 0)
    | .done cb s =>
      match denseStep (tile s t) ba (ba + 1) (c.e 0 % 4) with
      | .error st => (if st = stUncorr then chargeSram s t 3 else s, .error st)
      | .ok tl => (setTile s t tl, .ok (ca.srcA, cb.srcA))

/-- MGEMM_STEP (R209): one step completes, or fails and ends the command. -/
def execMgemmStep (t id : Nat) (s : State) : Host.Outcome State Fault Refusal :=
  match matrixCmd s t id with
  | some c =>
    if c.started && c.cmd == cmdGemm && decide (c.done < gemmSteps c) then
      match gemmStep t c s with
      | (s, .ok (a, b)) =>
        .next (putMatrixCmd s t { c with done := c.done + 1, srcA := a, srcB := b, seen := [] })
      | (s, .error st) => .next (matrixFinish s t c (some (st, c.done)))
    else .next s
  | none => .next s

end Sys2Proof.Machine
end

