-- ==== Sys2Proof/Machine/Stagehand.lean ====
section
/-! DEFINITION. The stagehand (R100, R105 to R111): copies, strided copies, gathers, scatters and
fills, from issue to completion. -/

namespace Sys2Proof.Machine

/-- Commands of port 1 (R53). -/
def cmdCpy : Nat := 0
/-- cpys. -/
def cmdCpys : Nat := 1
/-- cpyg. -/
def cmdCpyg : Nat := 2
/-- cpyx. -/
def cmdCpyx : Nat := 3
/-- cpyf. -/
def cmdCpyf : Nat := 4

/-! ### The shape of a command (R101, R105, R108) -/

/-- Runs and elements per run. -/
def copyShape (c : Command) : Nat × Nat :=
  if c.cmd = cmdCpys then (field (c.e 0) 63 32, field (c.e 0) 31 0)
  else if c.cmd = cmdCpyg || c.cmd = cmdCpyx then (field (c.e 0) 31 0, field (c.e 0) 63 32)
  else (1, c.e 0)

/-- Whether a copy converts (R105). -/
def copyConv (c : Command) : Bool := c.cmd != cmdCpyf && pFmt c.a != pFmt c.b

/-- Bits of a source element. -/
def copySrcBits (c : Command) : Nat := if copyConv c then codeBits (pFmt c.b) else 8

/-- Bits of a destination element. -/
def copyDstBits (c : Command) : Nat := if copyConv c then codeBits (pFmt c.a) else 8

/-- Whether the source is XE8 and is decoded. -/
def copyXe8 (c : Command) : Bool := copyConv c && pFmt c.b == 12

/-- Whether the source has a scale array (R25, R106). -/
def copyScaled (c : Command) : Bool := copyConv c && ptrScaled c.b

/-- Whether rows are picked by an index list. -/
def copyIndexed (c : Command) : Bool := c.cmd = cmdCpyg || c.cmd = cmdCpyx

/-- A signed 32-bit field of e1. -/
def copyStride (c : Command) (hi lo : Nat) : Int := sgn 32 (field (c.e 1) hi lo)

/-- Where destination run `i` begins; `idx` is its index where it is picked (R108). -/
def copyDst (c : Command) (i idx : Nat) : Int :=
  let d : Int := pOff c.a
  if c.cmd = cmdCpys then d + i * copyStride c 63 32
  else if c.cmd = cmdCpyg then d + (i * (copyShape c).2 * copyDstBits c / 8 : Nat)
  else if c.cmd = cmdCpyx then d + (idx * field (c.e 1) 31 0 : Nat)
  else d

/-- Where source run `i` begins; an XE8 source of cpyx goes on where the last block ended. -/
def copySrc (c : Command) (i idx : Nat) : Int :=
  let b : Int := pOff c.b
  if c.cmd = cmdCpys then b + i * copyStride c 31 0
  else if c.cmd = cmdCpyg then b + (idx * field (c.e 1) 31 0 : Nat)
  else if c.cmd = cmdCpyx && !copyXe8 c then b + (i * (copyShape c).2 * copySrcBits c / 8 : Nat)
  else b

/-- Source bytes of `n` elements, an XE8 block counted at 2 bytes (R109). -/
def copySrcLen (c : Command) (n : Nat) : Nat :=
  if copyXe8 c then n / 16 else n * copySrcBits c / 8

/-- The accesses of a copy: its writes to scratchpads are logged by unit (R147). -/
def copyAgent (s : State) (c : Command) : Agent := cmdAgent s c c.snap.home 2 true

/-! ### Refusals (R109) -/

/-- Whether a span fails with a cause before translation; an OFFSET outside 52 bits is ADDR. -/
def spanFails (s : State) (g : Agent) (p : Word) (o : Int) (n : Nat) (cause : Cause) : Bool :=
  if o < 0 || o + n > 2 ^ 52 then cause == .addr
  else unreachable s g (pWith p o.toNat) n == some cause

/-- Whether two spans overlap (R109). -/
def spansMeet (s : State) (g : Agent) (p : Word) (o : Int) (n : Nat) (q : Word) (o' : Int)
    (m : Nat) : Bool :=
  let at_ := fun (p : Word) (o : Int) (n : Nat) =>
    if o < 0 || o ≥ 2 ^ 52 || n = 0 then none
    else (resolve s g.st g.home none (pWith p o.toNat) 1).toOption
  match at_ p o n, at_ q o' m with
  | some (.glob a), some (.glob b) => decide (a < b + m) && decide (b < a + n)
  | some (.far x a), some (.far y b) => x == y && decide (a < b + m) && decide (b < a + n)
  | _, _ => false

/-- Whether a format names an element size. -/
def sizedFmt (p : Word) : Bool := 1 ≤ pFmt p && pFmt p ≤ 12

/-- Whether a side of a copy has spans to judge. -/
def copyJudged (c : Command) (p : Word) : Bool := !copyConv c || sizedFmt p

/-- Spans of a side that the operands alone decide: start and bytes of each. -/
def copySpans (c : Command) (dst : Bool) : List (Int × Nat) :=
  let (r, l) := copyShape c
  let len := fun n => if dst then n * copyDstBits c / 8 else copySrcLen c n
  if c.cmd = cmdCpyg then (if dst then [((pOff c.a : Int), len (r * l))] else [])
  else if c.cmd = cmdCpyx then (if dst then [] else [((pOff c.b : Int), len (r * l))])
  else if c.cmd = cmdCpyf && !dst then []
  else (List.range r).map (fun i => (if dst then copyDst c i 0 else copySrc c i 0, len l))

/-- Whether the arrays that a copy reads beside its source fail with a cause. -/
def copyArrays (s : State) (g : Agent) (c : Command) (cause : Cause) : Bool :=
  let (r, l) := copyShape c
  (copyIndexed c && spanFails s g (w64 (c.e 2)) (pOff (w64 (c.e 2))) (4 * r) cause)
    || (copyScaled c && !copyIndexed c && typedOk c.b
        && spanFails s g (w64 (c.e 3)) (pOff (w64 (c.e 3))) (r * l / 2 ^ pBlkl c.b) cause)

/-- Whether a copy fails with a cause that its operands alone decide. -/
def copyFails (s : State) (g : Agent) (c : Command) (cause : Cause) : Bool :=
  (copyJudged c c.a && (copySpans c true).any (fun x => spanFails s g c.a x.1 x.2 cause))
    || (copyJudged c c.b && (copySpans c false).any (fun x => spanFails s g c.b x.1 x.2 cause))
    || copyArrays s g c cause

/-- The elements that a run's length must be a multiple of (R106). -/
def copyGroup (c : Command) : Nat :=
  let byBits := fun w => if w = 4 then 2 else if w = 6 then 4 else 1
  let src := if copyXe8 c then 32 else if copyScaled c then 2 ^ pBlkl c.b else byBits (copySrcBits c)
  Nat.lcm src (Nat.lcm (byBits (copySrcBits c)) (byBits (copyDstBits c)))

/-- The status with which a copy is refused at acceptance (R109). A side of a converting copy whose FMT names
no element size has spans of no stated length: they are not judged for 0x0400 and 0x1A00, and count one byte
per element for 0x0401 (log 17 [DESIGN CHOICE]). -/
def refuseCopy (s : State) (c : Command) : Option Nat :=
  let g := copyAgent s c
  let conv := copyConv c
  let d := c.a
  refusal [(conv && c.snap.mode.isNone, 0x0100),
    (copyIndexed c && c.e 2 % 4 != 0, 0x0300),
    (copyFails s g c .addr, 0x0400),
    (!copyIndexed c && (copySpans c false).any (fun x => (copySpans c true).any (fun y =>
      spansMeet s g c.b x.1 x.2 c.a y.1 y.2)), 0x0401),
    (conv && (!typedOk c.a || !typedOk c.b), 0x0900),
    (conv && !(decide (1 ≤ pFmt d) && decide (pFmt d ≤ 11) && pBlkl d == 0
      && decide (2 ≤ pSpace d)), 0x0902),
    (conv && ((copyShape c).2 % copyGroup c != 0 || (copyIndexed c && ptrScaled c.b)), 0x0903),
    (copyFails s g c .perm, 0x1A00)]

/-! ### Elements (R106, R108) -/

/-- The source of one element: its bits, the scale of its block and the XE8 place after it; or a
failure's status; or a wait for a remote page. -/
inductive SrcRes where
  | ok (s : State) (v : Nat) (scale : Int) (next : Nat)
  | fail (s : State) (st : Nat)
  | wait (s : State)

/-- A pointer moved to an exact offset; none outside 52 bits. -/
def pAt (p : Word) (o : Int) : Option Word :=
  if o < 0 || o ≥ 2 ^ 52 then none else some (pWith p o.toNat)

/-- An engine's read as a source. -/
def readAs (r : MRes) (f : State → Nat → SrcRes) : SrcRes :=
  match r with
  | .ok s v bad => if bad then .fail s stUncorr else f s v
  | .fail s c sub => .fail s (accStatus c sub)
  | .wait s => .wait s

/-- Bytes read at an exact offset of a pointer. -/
def readOff (s : State) (g : Agent) (p : Word) (o : Int) (n : Nat) (f : State → Nat → SrcRes) :
    SrcRes :=
  match pAt p o with
  | none => .fail s 0x0400
  | some q => readAs (agentRead s g q n) f

/-- An element of the XE8 block at an exact offset of a pointer: element `j` of it. -/
def readXe8 (s : State) (g : Agent) (p : Word) (o : Int) (j next : Nat) : SrcRes :=
  readOff s g p o 2 fun s h =>
    match xe8Size (h % 256) (h / 256) with
    | none => .fail s 0x0901
    | some size => readOff s g p o size fun s v =>
      match xe8Decode (chunks 8 size v) with
      | none => .fail s 0x0901
      | some (els, sc, _) => .ok s (els.getD j 0) (sgn 8 sc) (if j = 31 then next + size else next)

/-- The scale of element `n` of a scaled source (R25), of the array read before the elements (R106); or
the status of its failure. -/
def copyScale (c : Command) (n : Nat) : Except Nat Int :=
  if copyScaled c then
    let v := (c.scales.getD []).getD (n / 2 ^ pBlkl c.b) 0
    if 256 ≤ v then .error (v - 256) else .ok (sgn 8 v)
  else .ok 0

/-- Element `j` of the source run that begins at `o`, element `c.done` of the command. -/
def srcElem (s : State) (g : Agent) (c : Command) (o : Int) (j : Nat) : SrcRes :=
  if c.cmd = cmdCpyf then .ok s (c.b.toNat / 2 ^ (8 * (c.done % 8)) % 256) 0 c.srcA
  else if copyXe8 c then readXe8 s g c.b (o + c.srcA) (j % 32) c.srcA
  else
    match copyScale c c.done with
    | .error st => .fail s st
    | .ok sc =>
      if sc = -128 then .ok s 0 (-128) c.srcA
      else
        let w := copySrcBits c
        let b0 := j * w / 8
        readOff s g c.b (o + b0) ((j * w + w - 1) / 8 + 1 - b0) fun s v =>
          .ok s (v / 2 ^ (j * w % 8) % 2 ^ w) sc c.srcA

/-- The bytes of a copy's source that element `j` of the run at `o` is read from: a pointer and a length;
of an XE8 source its block's, or the first two where they give no length. -/
def srcBytes (s : State) (c : Command) (o : Int) (j : Nat) : Option (Word × Nat) :=
  let w := copySrcBits c
  if c.cmd = cmdCpyf then none
  else if copyXe8 c then
    let n := match readOff s (copyAgent s c) c.b (o + c.srcA) 2 (fun s h => .ok s h 0 0) with
      | .ok _ h _ _ => (xe8Size (h % 256) (h / 256)).getD 2
      | _ => 2
    (pAt c.b (o + c.srcA)).map (fun q => (q, n))
  else (pAt c.b (o + (j * w / 8 : Nat))).map (fun q => (q, (j * w + w - 1) / 8 + 1 - j * w / 8))

/-- The bytes of run `i`'s index: a pointer and a length. -/
def idxBytes (c : Command) (i : Nat) : Option (Word × Nat) :=
  let e2 := w64 (c.e 2)
  if copyIndexed c then (pAt e2 ((pOff e2 : Int) + (4 * i : Nat))).map (fun q => (q, 4)) else none

/-- A command that has read the global units of some bytes as a whole (R111); none while one waits for its
owner. -/
def holdBytes (c : Command) (x : Option (Word × Nat)) (s : State) : Option Command × State :=
  match x with
  | none => (some c, s)
  | some (q, n) =>
    let (g, s) := holdSpan s (copyAgent s c) q n
    (g.map (fun g => { c with seen := g.seen }), s)

/-- The destination bits of an element, and the generator after it (R106). -/
def copyValue (c : Command) (v : Nat) (sc : Int) : Nat × BitVec 32 :=
  if !copyConv c then (v, c.snap.lfsr)
  else
    let u := c.snap.lfsr
    let val := if sc = -128 then .zero false else ((efmtOf (pFmt c.b)).decode v).scale sc
    let f := pFmt c.a
    let mode := c.snap.mode.getD .rne
    let conv : Conv := ⟨⟨mode, u⟩, decide (3 ≤ f), decide (3 ≤ f) && c.snap.sat⟩
    (((efmtOf f).encode conv val).1, if mode = .stoch then lfsrNext u else u)

/-! ### Destinations -/

/-- `n` bytes of a tile's scratchpad as a copy that writes them finds them: over the bank's bytes, its own
(R108). -/
def ownRead (s : State) (t id off n : Nat) : Nat :=
  let own := (tile s t).late.filter (fun e => e.cmd == id)
  laidOver (spadRead s t off n).1 off n (fun u =>
    (own.filter (fun e => e.unit == u)).foldl (fun a e => a.over e.data) Unit64.empty)

/-- `w` bits at bit `b` of a tile's scratchpad written by a copy: 64-B units are written as a whole and
logged each (R111, R147). -/
def copyPut (s : State) (g : Agent) (t b w v : Nat) : State :=
  let o := b / 8
  let n := (b + w - 1) / 8 + 1 - o
  let old := ownRead s t g.cmd o n
  let sh := b % 8
  let new := old % 2 ^ sh + v % 2 ^ w * 2 ^ sh + old / 2 ^ (sh + w) * 2 ^ (sh + w)
  lateWrite s t g.path g.cmd o n new fun u =>
    some { kind := 2, src := g.src, size := 64, off := 64 * u }

/-- Whether a physical address is that of a byte of a virtual span. -/
def spanAliases (s : State) (asid : BitVec 16) (lo n pa : Nat) : Bool :=
  (List.range ((lo % 65536 + n + 65535) / 65536)).any fun k =>
    let page := lo / 65536 * 65536 + 65536 * k
    match paOf s asid page with
    | some p =>
      decide (p ≤ pa) && decide (pa < p + 65536)
        && decide (lo ≤ page + (pa - p)) && decide (page + (pa - p) < lo + n)
    | none => false

/-- The index of run `i`, as it stands. -/
def copyIndex (s : State) (g : Agent) (c : Command) (i : Nat) : SrcRes :=
  if copyIndexed c then
    let e2 := w64 (c.e 2)
    readOff s g e2 ((pOff e2 : Int) + (4 * i : Nat)) 4 fun s v => .ok s v 0 0
  else .ok s 0 0 0

/-- Whether a destination byte of an untyped copy between global spans is also a source byte,
reached by another mapping of its frame (R109). -/
def copyAliased (s : State) (g : Agent) (c : Command) (d : Nat) : Bool :=
  !copyConv c && c.cmd != cmdCpyf && pSpace c.a == 0 && pSpace c.b == 0 &&
    (match paOf s c.snap.asid d with
    | none => false
    | some pa =>
      let (r, l) := copyShape c
      (List.range r).any fun i =>
        let idx := match copyIndex s g c i with
          | .ok _ v _ _ => v
          | _ => 0
        let o := copySrc c i idx
        0 ≤ o && spanAliases s c.snap.asid o.toNat l pa)

/-- The place of a status in the table of R109, whose row of PAGE and PROT is one. -/
def statusRank (st : Nat) : Nat := if st / 256 = 5 || st / 256 = 6 then 0x500 else st

/-- The destination of element `j` of a run at `o`: its first byte's pointer and its bytes; none for an
OFFSET carry past bit 51. -/
def dstSpan (c : Command) (o : Int) (w j : Nat) : Option (Word × Nat) :=
  (pAt c.a (o + (j * w / 8 : Nat))).map (fun q => (q, (j * w + w - 1) / 8 + 1 - j * w / 8))

/-- What the destination of an element fails with: a test without a write, of every byte of it. -/
def dstFails (s : State) (g : Agent) (c : Command) (o : Int) (w j : Nat) : Option Nat :=
  match dstSpan c o w j with
  | none => some 0x0400
  | some (q, n) =>
    match resolve s g.st g.home none q n with
    | .error e => some (accStatus e 0)
    | .ok (.glob a) =>
      match translate s { g.acc with write := true } a with
      | (_, .error sub) => some (accStatus (subCause sub) sub)
      | (_, .ok _) => none
    | .ok _ => none

/-- A 64-B unit of global memory or of a cluster's shared memory that a copy writes as a whole (R111): its
place, none for global memory, its number, what it gets, and the first element that lies in it. -/
structure CopyUnit where
  place : Option Nat
  unit : Nat
  data : Unit64
  first : Nat
  deriving DecidableEq, Repr

/-- The outcome of an element's write: written, or a byte of a unit; a failure; or a wait. -/
inductive DstRes where
  | ok (s : State) (byte : Option CopyUnit)
  | fail (s : State) (st : Nat)
  | wait (s : State)

/-- One byte of a unit, element `n` of its command. -/
def unitByte (place : Option Nat) (a v n : Nat) : CopyUnit :=
  { place := place, unit := a / 64, first := n,
    data := ⟨BitVec.ofNat 512 (v % 256 * 2 ^ (8 * (a % 64))), BitVec.ofNat 64 (2 ^ (a % 64))⟩ }

/-- An element written: to a scratchpad at once, elsewhere with its unit. -/
def dstWrite (s : State) (g : Agent) (c : Command) (o : Int) (w j v : Nat) : DstRes :=
  match dstSpan c o w j with
  | none => .fail s 0x0400
  | some (q, n) =>
    match resolve s g.st g.home none q n with
    | .error e => .fail s (accStatus e 0)
    | .ok (.glob a) =>
      if copyAliased s g c a then
        .ok { s with draws := s.draws + 1 } (some (unitByte none a (Config.freeByte s.draws).toNat c.done))
      else .ok s (some (unitByte none a v c.done))
    | .ok (.here a) => .ok (copyPut s g g.home (8 * a + j * w % 8) w v) none
    | .ok (.far pl a) =>
      if savedBase ≤ pl then .wait s
      else if pl < 1024 then .ok (copyPut s g pl (8 * a + j * w % 8) w v) none
      else .ok s (some (unitByte (some pl) a v c.done))

/-- A unit written as a whole, its bytes outside the copy kept (R111). -/
def putUnit (s : State) (g : Agent) (u : CopyUnit) : MRes :=
  match u.place with
  | none => ofGRes (gWrite s g.acc (64 * u.unit) 64 u.data.data.toNat u.data.mask.toNat)
  | some pl => .ok (shmPut s (pl - 1024) u.unit u.data) 0 false

/-- The bytes that `n` XE8 blocks at an exact offset of a pointer occupy (R108); one that gives no size
counts at 2, with nothing after it. -/
def xe8Span (s : State) (g : Agent) (p : Word) : Nat → Int → Nat
  | 0, _ => 0
  | n + 1, o =>
    match readOff s g p o 2 (fun s h => .ok s h 0 0) with
    | .ok _ h _ _ =>
      match xe8Size (h % 256) (h / 256) with
      | some size => size + xe8Span s g p n (o + size)
      | none => 2
    | _ => 2

/-- The source bytes of `n` elements at an exact offset, XE8 blocks at their encoded length (R108). -/
def srcSpan (s : State) (g : Agent) (c : Command) (o : Int) (n : Nat) : Nat :=
  if copyXe8 c then xe8Span s g c.b (n / 32) o else copySrcLen c n

/-- Whether an index-picked row overlaps the other side's span (R109). -/
def rowMeets (s : State) (g : Agent) (c : Command) (src dst : Int) : Bool :=
  let (r, l) := copyShape c
  if c.cmd = cmdCpyg then
    (copySpans c true).any (fun y => spansMeet s g c.b src (srcSpan s g c src l) c.a y.1 y.2)
  else if c.cmd = cmdCpyx then
    spansMeet s g c.b (pOff c.b) (srcSpan s g c (pOff c.b) (r * l)) c.a dst (l * copyDstBits c / 8)
  else false

/-- The earlier row of two failures (R109). Where an element's source and destination both fail in the one
row of PAGE and PROT, the source's status is reported, which R109 does not settle (log 17
[DESIGN CHOICE]). -/
def firstStatus (a : Nat) : Option Nat → Nat
  | some b => if statusRank b < statusRank a then b else a
  | none => a

/-- The outcome of an element of a copy. -/
inductive ElemRes where
  | ok (c : Command) (s : State) (byte : Option CopyUnit)
  | stop (s : State) (st : Nat)
  | wait (s : State)

/-- What else an element fails with whose index cannot be read: at the side that the index does not move. -/
def unpickedFails (s : State) (g : Agent) (c : Command) (i j : Nat) : Option Nat :=
  if c.cmd = cmdCpyg then dstFails s g c (copyDst c i 0) (copyDstBits c) j
  else
    match srcElem s g c (copySrc c i 0) j with
    | .fail _ st => some st
    | _ => none

/-- The next element of a copy whose index is `idx`: a failure is that of the earliest row of R109. -/
def copyPicked (c : Command) (i j idx : Nat) (s : State) : ElemRes :=
  let w := copyDstBits c
  let c := if j = 0 && c.cmd != cmdCpyx then { c with srcA := 0 } else c
  let src := copySrc c i idx
  let dst := copyDst c i idx
  match holdBytes c (srcBytes s c src j) s with
  | (none, s) => .wait s
  | (some c, s) =>
    let g := copyAgent s c
    let bad := dstFails s g c dst w j
    let bad := if j = 0 && rowMeets s g c src dst then some (firstStatus 0x0401 bad) else bad
    match srcElem s g c src j with
    | .wait s => .wait s
    | .fail s st => .stop s (firstStatus st bad)
    | .ok s v sc next =>
      match bad with
      | some st => .stop s st
      | none =>
        let (x, u) := copyValue c v sc
        match dstWrite s g c dst w j x with
        | .wait s => .wait s
        | .fail s st => .stop s st
        | .ok s b => .ok { c with srcA := next, snap := { c.snap with lfsr := u } } s b

/-- The next element of a copy, whose scale array has been read (R108). -/
def copyElem (c : Command) (s : State) : ElemRes :=
  let l := (copyShape c).2
  let i := c.done / l
  let j := c.done % l
  match holdBytes c (idxBytes c i) s with
  | (none, s) => .wait s
  | (some c, s) =>
    let g := copyAgent s c
    match copyIndex s g c i with
    | .wait s => .wait s
    | .fail s st => .stop s (firstStatus st (unpickedFails s g c i j))
    | .ok s idx _ _ => copyPicked c i j idx s

/-- A unit written, if there is one, then `k`; the elements from its first one on are not done where it
fails. -/
def putThen (c : Command) (u : Option CopyUnit) (s : State) (k : State → RunRes) : RunRes :=
  match u with
  | none => k s
  | some u =>
    match putUnit s (copyAgent s c) u with
    | .ok s _ _ => k s
    | .wait s => .wait s
    | .fail s cause sub => .stop { c with done := u.first } s (accStatus cause sub)

/-- Two bytes of one unit together; none where they lie in different units. -/
def CopyUnit.join (u x : CopyUnit) : Option CopyUnit :=
  if u.place = x.place && u.unit = x.unit then some { u with data := u.data.over x.data } else none

/-- `n` elements of a copy one after the other, with the unit that is being written; DONE counts them. -/
def copyElems : Nat → Command → Option CopyUnit → State → RunRes
  | 0, c, u, s => putThen c u s (.done c)
  | n + 1, c, u, s =>
    match copyElem c s with
    | .wait s => .wait s
    | .stop s st => putThen c u s (fun s => .stop c s st)
    | .ok c' s x =>
      let c' := { c' with done := c'.done + 1 }
      match u, x with
      | u, none => copyElems n c' u s
      | none, some x => copyElems n c' (some x) s
      | some u, some x =>
        match u.join x with
        | some y => copyElems n c' (some y) s
        | none => putThen c' (some u) s (fun s => copyElems n c' (some x) s)

/-- Elements of a command in all. -/
def copyTotal (c : Command) : Nat := (copyShape c).1 * (copyShape c).2

/-- `n` more elements of a copy: the scale array is read before the first (R106). -/
def copyRun (n : Nat) (c : Command) (s : State) : RunRes :=
  if copyScaled c then
    match fetchScales (copyAgent s c) (w64 (c.e 3)) (copyTotal c / 2 ^ pBlkl c.b) c s with
    | (none, s) => .wait s
    | (some c, s) => copyElems n c none s
  else copyElems n c none s

/-- Where run `i` of a copy begins in its source and its destination, as its index stands. -/
def runStarts (s : State) (c : Command) (i : Nat) : Option (Int × Int) :=
  match copyIndex s (copyAgent s c) c i with
  | .ok _ idx _ _ => some (copySrc c i idx, copyDst c i idx)
  | _ => none

/-- Whether a copy may stop after `n` elements: the next one begins 64 destination bytes. -/
def copyBoundary (s : State) (c : Command) (n : Nat) : Bool :=
  let l := (copyShape c).2
  match runStarts s c (n / l) with
  | some (_, d) => (d * 8 + (n % l * copyDstBits c : Nat)) % 512 == 0
  | none => false

/-- The first boundary of a copy from `n` elements on, or its end. -/
def copyCutFrom (s : State) (c : Command) : Nat → Nat → Nat
  | 0, n => n
  | k + 1, n => if copyBoundary s c n then n else copyCutFrom s c k (n + 1)

/-- The units that a copy has read in part when it goes on at its next element stay as they have been read:
that element's and its run's index's (R111). -/
def holdCut (s : State) (c : Command) : Command :=
  let l := (copyShape c).2
  let one := fun (c : Command) (x : Option (Word × Nat)) =>
    match x with
    | none => c
    | some (q, n) =>
      let g := copyAgent s c
      match resolve s g.st g.home none q n with
      | .ok (.far pl a) =>
        if savedBase ≤ pl then c
        else { c with seen := (spanUnitsAt a n).foldl (fun m u => readAhead s 2 pl u m) c.seen }
      | .ok (.glob _) => ((holdBytes c x s).1).getD c
      | _ => c
  if copyTotal c ≤ c.done || c.cmd = cmdCpyf then c
  else
    let c := if c.done % l = 0 then c else one c (idxBytes c (c.done / l))
    match runStarts s c (c.done / l) with
    | some (o, _) => one c (srcBytes s c o (c.done % l))
    | none => c

/-! ### The queue (R100) -/

/-- The issue of a port-1 command (R101, R110). -/
def copyIssue (cmd : Nat) (stl : BitVec 3) (tag : BitVec 4) (ra rb : BitVec 5) (s : State) :
    Host.Outcome State Fault Refusal :=
  let ptrs := if cmd = cmdCpyf then [(ra, 5)] else [(ra, 5), (rb, 5)]
  run stl { xs := [ra, rb], res := ptrs, kind := 3 } (fun s =>
    let (c, s) := newCommand s 1 cmd tag (rx s ra) (rx s rb)
    let s := portMore s s.cur 1
    .sleep (.accept 1) (updCluster s (tileCluster (me s).home) fun k =>
      { k with shArrivals := k.shArrivals ++ [c] })) s

/-- cpy (R108). -/
def execCpy (stl : BitVec 3) (tag : BitVec 4) (ra rb : BitVec 5) (s : State) :
    Host.Outcome State Fault Refusal :=
  copyIssue cmdCpy stl tag ra rb s

/-- cpys (R108). -/
def execCpys (stl : BitVec 3) (tag : BitVec 4) (ra rb : BitVec 5) (s : State) :
    Host.Outcome State Fault Refusal :=
  copyIssue cmdCpys stl tag ra rb s

/-- cpyg (R108). -/
def execCpyg (stl : BitVec 3) (tag : BitVec 4) (ra rb : BitVec 5) (s : State) :
    Host.Outcome State Fault Refusal :=
  copyIssue cmdCpyg stl tag ra rb s

/-- cpyx (R108). -/
def execCpyx (stl : BitVec 3) (tag : BitVec 4) (ra rb : BitVec 5) (s : State) :
    Host.Outcome State Fault Refusal :=
  copyIssue cmdCpyx stl tag ra rb s

/-- cpyf (R108). -/
def execCpyf (stl : BitVec 3) (tag : BitVec 4) (ra rb : BitVec 5) (s : State) :
    Host.Outcome State Fault Refusal :=
  copyIssue cmdCpyf stl tag ra rb s

/-- A port-1 command ends. -/
def copyEnd (s : State) (c : Command) (fail : Option (Nat × Nat)) : State :=
  let s := lateDone (fwdDone s c.id) c.id
  match c.snap.task with
  | some k => taskEnded s k ((fail.map (·.1)).getD 0) ((fail.map (·.2)).getD 0)
  | none => cmdSignal (portLess s c.snap.tid 1) c.snap.tid 1 c.snap.cue fail

/-- The first command of a list whose tile is not stopped (R324). -/
def shNext (s : State) (l : List Command) : Option Command :=
  l.find? (fun c => !(tile s c.snap.home).stopped)

/-- STAGEHAND_ACCEPT (R100, R109): the oldest arrival enters the queue of 64, is refused, or has
nothing to move. -/
def execStagehandAccept (k : Nat) (s : State) : Host.Outcome State Fault Refusal :=
  let cl := cluster s k
  match shNext s cl.shArrivals with
  | none => .next s
  | some c =>
    if 64 ≤ cl.shQueue.length then .next s
    else
      let s' := updCluster s k fun cl =>
        { cl with shArrivals := cl.shArrivals.filter (fun d => d.id != c.id) }
      if copyTotal c = 0 then .next (acceptThread (copyEnd s' c none) c)
      else
        match refuseCopy s c with
        | some st => .next (acceptThread (copyEnd s' c (some (st, 0))) c)
        | none =>
          .next (acceptThread (updCluster s' k fun cl => { cl with shQueue := cl.shQueue ++ [c] }) c)

/-- STAGEHAND_START (R100): up to 8 run, in queue order. A running command holds none of the queue's 64
places, which R100 does not settle (log 17 [DESIGN CHOICE]). -/
def execStagehandStart (k : Nat) (s : State) : Host.Outcome State Fault Refusal :=
  let cl := cluster s k
  match shNext s cl.shQueue with
  | some c =>
    if 8 ≤ cl.shRunning.length then .next s
    else .next (setCluster s k { cl with
      shQueue := cl.shQueue.filter (fun d => d.id != c.id),
      shRunning := cl.shRunning ++ [{ c with started := true }] })
  | none => .next s

/-- The running copy of a cluster. -/
def runningCopy (s : State) (k id : Nat) : Option Command :=
  (cluster s k).shRunning.find? (fun c => c.id == id)

/-- A running copy leaves its cluster's engine. -/
def copyLeave (s : State) (k : Nat) (c : Command) (fail : Option (Nat × Nat)) : State :=
  copyEnd (updCluster s k fun cl =>
    { cl with shRunning := cl.shRunning.filter (fun d => d.id != c.id) }) c fail

/-- A running copy with its progress. -/
def putCopy (s : State) (k : Nat) (c : Command) : State :=
  updCluster s k fun cl =>
    { cl with shRunning := cl.shRunning.map (fun d => if d.id = c.id then c else d) }

/-- A running copy moves some more of its elements, up to a 64-B destination boundary: which one is free
(R110, R111, log 17 [DEDUCED]). -/
def copyMove (k id : Nat) (s : State) : State :=
  match runningCopy s k id with
  | none => s
  | some c =>
    let left := copyTotal c - c.done
    if left = 0 then s
    else
      let (d, s1) := draw s
      let n := c.done + d % left + 1
      match copyRun (copyCutFrom s c (copyTotal c - n) n - c.done) c s1 with
      | .done c s => putCopy s k (holdCut s c)
      | .stop c s st => copyLeave s k c (some (st, c.done))
      | .wait s' => keepRequests s s'

/-- The byte of a running copy's source, index list or scale array that it may read ahead, by a draw: of its
source none before the whole scale array has been read (R106). -/
def copyAheadAt (s : State) (c : Command) (d : Nat) : Option Word :=
  let l := (copyShape c).2
  let n := c.done + d / 3 % (copyTotal c - c.done)
  let early := copyScaled c && c.scales.isNone
  if d % 3 = 0 && copyIndexed c then pAt (w64 (c.e 2)) ((pOff (w64 (c.e 2)) : Int) + (4 * (n / l) : Nat))
  else if early || (d % 3 = 1 && copyScaled c) then
    pAt (w64 (c.e 3)) ((pOff (w64 (c.e 3)) : Int) + (n / 2 ^ pBlkl c.b : Nat))
  else
    (runStarts s c (n / l)).bind fun r =>
      pAt c.b (if copyXe8 c then r.1 + c.srcA + (64 * (n - c.done) / 32 : Nat)
        else r.1 + (n % l * copySrcBits c / 8 : Nat))

/-- A running copy reads one 64-B unit ahead: which one is free (R111, log 17 [DEDUCED]). -/
def copyAhead (k id : Nat) (s : State) : State :=
  match runningCopy s k id with
  | none => s
  | some c =>
    if c.cmd = cmdCpyf || copyTotal c ≤ c.done then s
    else
      let (d, s) := draw s
      let g := copyAgent s c
      match (copyAheadAt s c d).map (fun q => resolve s g.st g.home none q 1) with
      | some (.ok (.far pl a)) =>
        if savedBase ≤ pl then s
        else putCopy s k { c with seen := readAhead s 2 pl (a / 64) c.seen }
      | some (.ok (.glob o)) =>
        match holdUnit (o / 64) g s with
        | (some g, s') => putCopy s' k { c with seen := g.seen }
        | (none, s') => keepRequests s s'
      | _ => s

/-- STAGEHAND_COMPLETE (R109): a running command has moved its elements, or stops (log 17 [DESIGN CHOICE]). -/
def execStagehandComplete (k id : Nat) (s : State) : Host.Outcome State Fault Refusal :=
  match runningCopy s k id with
  | some c =>
    match copyRun (copyTotal c - c.done) c s with
    | .done c s => .next (copyLeave s k c none)
    | .stop c s st => .next (copyLeave s k c (some (st, c.done)))
    | .wait s' => .next (keepRequests s s')
  | none => .next s

end Sys2Proof.Machine
end

