-- ==== Sys2Proof/Machine/StageManager.lean ====
section
/-! DEFINITION. The stage manager (R218 to R224): tile-task records, posting and flushing, the start
and the retirement of tasks. -/

namespace Sys2Proof.Machine

/-! ### Records (R219) -/

/-- Whether the operand fields of a task are what its command's slot, accumulator and must-be-zero
fields allow (R219). -/
def taskOperands (cmd a b : Nat) : Bool :=
  if cmd = cmdLoad then decide (a < 16)
  else if cmd = cmdMma || cmd = cmdMmas then decide (a < 16) && decide (b < 16)
  else if cmd = cmdDrain then decide (a < 4)
  else if cmd = cmdZero then decide (a < 4) && b == 0
  else true

/-- A record in 64 bytes read as a number, for queue `q` of the posting thread; none when it is
malformed (R219, R223). -/
def parseTask (s : State) (id q n : Nat) : Option Task :=
  let d := fun i => n / 2 ^ (64 * i) % 2 ^ 64
  let d0 := d 0
  let eng := field d0 47 44
  let port := field d0 35 34
  let cmd := field d0 33 29
  let a := (d 2)
  let b := (d 3)
  let ok := if port = 0 then decide (2 ≤ cmd) && decide (cmd ≤ 7) && !(decide (8 ≤ eng)
      && decide (eng ≤ 14)) && taskOperands cmd a b else decide (cmd ≤ 4)
  if field d0 39 36 != 0 || field d0 24 0 != 0 || d 1 / 2 ^ 48 != 0 || field d0 63 48 = 0
      || 2 ≤ port || !ok then none
  else
    let snap := { takeSnap s (BitVec.ofNat 4 (field d0 28 25)) with
      e := [w64 (d 4), w64 (d 5), w64 (d 6), w64 (d 7), 0, 0, 0, 0], displaced := false,
      task := some id }
    some { id := id, ident := field d0 63 48, queue := q, eng := eng, barrier := bitOf d0 43,
           deps := (List.range 3).filterMap fun i =>
             if bitOf d0 (40 + i) then some (field (d 1) (16 * i + 15) (16 * i)) else none,
           port := port, cmd := cmd, opa := w64 a, opb := w64 b, snap := snap, tile := 0, seq := id,
           finished := none }

/-! ### Queues (R218, R220) -/

/-- Whether a task with an identifier is waiting or running (R220, R223). -/
def identBusy (k : Cluster) (ident : Nat) : Bool :=
  k.waiting.any (fun t => t.ident == ident) || k.running.any (fun t => t.ident == ident)

/-- Records that a queue holds. -/
def queueFill (k : Cluster) (q : Nat) : Nat :=
  (k.waiting.filter (fun t => t.queue == q)).length
    + (k.running.filter (fun t => t.queue == q)).length

/-- A record added to its queue, or refused because its identifier is in use (R223). -/
def taskAdd (s : State) (k : Nat) (t : Task) (cue : CueRef) : State :=
  if identBusy (cluster s k) t.ident then postFail s t.snap.tid cue 0xFF03
  else
    cueComplete (portMore (updCluster s k fun c => { c with waiting := c.waiting ++ [t] })
      t.snap.tid 2) cue none

/-- Waiting posts that now find room are added in order of arrival (R223). -/
def admitPosts (s : State) (k : Nat) : List (Task × CueRef) → State
  | [] => s
  | (t, cue) :: ps =>
    if queueFill (cluster s k) t.queue < 32 then
      let s := updCluster s k fun c => { c with posts := c.posts.filter (fun p => p.1.id != t.id) }
      let s := taskAdd s k t cue
      let i := t.snap.tid
      let s := if (thr s i).wait? == some (.accept 2) then complete s i id else s
      admitPosts s k ps
    else admitPosts s k ps

/-- Flushes whose started tasks have all retired signal (R223). -/
def flushDone (s : State) (k : Nat) : State :=
  let (ready, wait) := (cluster s k).flushes.partition (fun f => f.2.2.2.isEmpty)
  ready.foldl (fun s f => cueComplete s f.2.2.1 none)
    (updCluster s k fun c => { c with flushes := wait })

/-! ### Retirement (R222) -/

/-- A task retires: the poster's cue, and its port-2 word after a failure. -/
def taskSignal (s : State) (t : Task) (fail : Option (Nat × Nat)) : State :=
  cmdSignal (portLess s t.snap.tid 2) t.snap.tid 2 t.snap.cue fail

/-- The waiting tasks whose DEP names one that retired failed retire themselves, and so on
(R222). -/
def depFail (k : Nat) : Nat → List Nat → State → State
  | 0, _, s => s
  | fuel + 1, failed, s =>
    match failed with
    | [] => s
    | ident :: more =>
      let (hit, rest) := (cluster s k).waiting.partition (fun t => t.deps.contains ident)
      let s := updCluster s k fun c => { c with waiting := rest }
      let s := hit.foldl (fun s t => taskSignal s t (some (0xFF10, 0))) s
      depFail k fuel (more ++ hit.map (·.ident)) s

/-- The dependents of failed tasks, with enough rounds for every waiting task. -/
def depsOf (s : State) (k : Nat) (failed : List Nat) : State :=
  depFail k (failed.length + (cluster s k).waiting.length + 1) failed s

/-- After tasks have left: flushes that end, posts that find room. -/
def queuesMoved (s : State) (k : Nat) : State :=
  let s := flushDone s k
  admitPosts s k (cluster s k).posts

/-- TASK_RETIRE (R221, R222): a task whose command has ended frees its resources and signals. -/
def execTaskRetire (k id : Nat) (s : State) : Host.Outcome State Fault Refusal :=
  match (cluster s k).running.find? (fun t => t.id == id) with
  | some t =>
    match t.finished with
    | none => .next s
    | some (st, done) =>
      let s := updCluster s k fun c =>
        { c with running := c.running.filter (fun x => x.id != id),
                 flushes := c.flushes.map (fun f =>
                   (f.1, f.2.1, f.2.2.1, f.2.2.2.filter (· != id))) }
      let s := if t.port = 0 then updTile s t.tile fun tl =>
          { tl with holders := tl.holders.filter (fun h => h.2 != .task id) } else s
      let s := taskSignal s t (if st = 0 then none else some (st, done))
      let s := if st = 0 then s else depsOf s k [t.ident]
      .next (queuesMoved s k)
  | none => .next s

/-! ### Posting and flushing (R223) -/

/-- A post or flush that fails: the error mark and LASTST. -/
def tqFail (tag : BitVec 4) (st : Nat) (s : State) : Ret :=
  .go (postFail s s.cur (tagCue s.cur (me s) tag.toNat) st)

/-- tqpost (R223). -/
def execTqpost (stl : BitVec 3) (tag : BitVec 4) (ra rb : BitVec 5) (s : State) :
    Host.Outcome State Fault Refusal :=
  run stl { xs := [ra, rb], res := [(ra, 5)], kind := 3 } (fun s =>
    let p := rx s ra
    let q := (rx s rb).toNat
    let k := homeCluster s (me s).home
    let cue := tagCue s.cur (me s) tag.toNat
    if pSpace p != 2 || pOff p % 64 != 0 || decide (spadSize < pOff p + 64) then tqFail tag 0xFF02 s
    else if 3 < q then tqFail tag 0xFF04 s
    else
      let (v, bad) := pathRead s 2 [] (me s).home (pOff p) 64
      let (n, s) := freshId s
      if bad then tqFail tag stUncorr (chargeSram s (me s).home 3)
      else
        match parseTask s n q v with
        | none => tqFail tag 0xFF01 s
        | some t =>
          let full := 32 ≤ queueFill (cluster s k) q || (cluster s k).posts.any (fun e => e.1.queue == q)
          if full then
            .sleep (.accept 2) (updCluster s k fun c => { c with posts := c.posts ++ [(t, cue)] })
          else .go (taskAdd s k t cue)) s

/-- tqflush (R223). -/
def execTqflush (stl : BitVec 3) (tag : BitVec 4) (ra : BitVec 5) (s : State) :
    Host.Outcome State Fault Refusal :=
  run stl { xs := [ra], kind := 3 } (fun s =>
    let q := (rx s ra).toNat
    let k := homeCluster s (me s).home
    let cue := tagCue s.cur (me s) tag.toNat
    if 3 < q then tqFail tag 0xFF04 s
    else
      let cl := cluster s k
      let (gone, rest) := cl.waiting.partition (fun t => t.queue == q)
      let left := (cl.running.filter (fun t => t.queue == q)).map (·.id)
      let s := setCluster s k { cl with waiting := rest,
                                        flushes := cl.flushes ++ [(q, s.cur, cue, left)] }
      let s := gone.foldl (fun s t => taskSignal s t (some (0xFF11, 0))) s
      let s := updPort s s.cur 2 fun p => { p with flushed := gone.length % 256 }
      .go (queuesMoved (depsOf s k (gone.map (·.ident))) k)) s

/-! ### Start (R220, R221) -/

/-- The command of a task on a tile. -/
def taskCommand (t : Task) (tile id : Nat) : Command :=
  { id := id, port := t.port, cmd := t.cmd, a := t.opa, b := t.opb,
    snap := if t.port = 0 then { t.snap with home := tile } else t.snap, done := 0,
    started := false, srcA := 0, srcB := 0, scales := none, seen := [] }

/-- Whether a tile's engine is available for a task (R221). -/
def engineFree (s : State) (t : Task) (tile_ : Nat) : Bool :=
  let tl := tile s tile_
  !harvested s tile_ && decide (tl.mQueue.length + tl.mArrivals.length < 16)
    && cmdNames tl tl.mQueue (taskCommand t tile_ 0) &&& heldMask tl == 0

/-- The tile a port-0 task would run on (R221). -/
def taskTile (s : State) (k : Nat) (t : Task) : Option Nat :=
  (((clusterTiles k).map (placedTile s)).zipIdx.find? fun e =>
    (t.eng == 15 || t.eng == e.2) && engineFree s t e.1).map (·.1)

/-- The oldest unstarted task of a queue. -/
def queueHead (k : Cluster) (q : Nat) : Option Task := k.waiting.find? (fun t => t.queue == q)

/-- Whether a head may start but for its engine (R220). -/
def headReady (k : Cluster) (t : Task) : Bool :=
  t.deps.all (fun d => !identBusy k d)
    && (!t.barrier || k.running.all (fun x => x.queue != t.queue || decide (t.seq < x.seq)))

/-- Whether a queue's head may start (R220). -/
def queueReady (s : State) (k q : Nat) : Bool :=
  let cl := cluster s k
  match queueHead cl q with
  | none => false
  | some t =>
    headReady cl t && (if t.port = 0 then (taskTile s k t).isSome else decide (cl.shQueue.length < 64))

/-- The queue the stage manager serves next: round-robin from the one after the last (R220). -/
def nextQueue (s : State) (k : Nat) : Option Nat :=
  ((List.range 4).map (fun i => ((cluster s k).lastQueue + 1 + i) % 4)).find? (queueReady s k)

/-- TASK_START (R220, R221). -/
def execTaskStart (k q : Nat) (s : State) : Host.Outcome State Fault Refusal :=
  if nextQueue s k != some q then .next s
  else
    match queueHead (cluster s k) q with
    | none => .next s
    | some t =>
      let (n, s) := freshId s
      let tile_ := if t.port = 0 then (taskTile s k t).getD 0 else 0
      let c := taskCommand t tile_ n
      let move := fun (cl : Cluster) =>
        { cl with waiting := cl.waiting.filter (fun x => x.id != t.id),
                  running := cl.running ++ [{ t with tile := tile_ }], lastQueue := q }
      if t.port = 0 then
        .next (updTile (updCluster s k move) tile_ fun tl =>
          let tl := holdAll tl (cmdNames tl tl.mQueue c) (.task t.id)
          { tl with mArrivals := tl.mArrivals ++ [c] })
      else
        .next (updCluster s k fun cl => { move cl with shArrivals := cl.shArrivals ++ [c] })

end Sys2Proof.Machine
end

