-- ==== Sys2Proof/Machine/Gate.lean ====
section
/-! DEFINITION. The GATE words (R296, R297, R301) and the steps of gates: requests and commits
(R297, R298), replies, acknowledgements and limits, and what comes back (R299, R300). -/

namespace Sys2Proof.Machine

/-! ### Handles (R296, R301) -/

/-- The bit of a right in S W P T. -/
def gateRight (op : Nat) : Nat :=
  if op = 2 then 8 else if op = 3 then 4 else if op = 5 then 2 else if op = 6 then 1 else 0

/-- Whether rights permit an operation: gread needs any right (R295). -/
def rightsPermit (op rights : Nat) : Bool :=
  if op = 4 then rights % 16 != 0 else rights &&& gateRight op != 0

/-- The TVAL of a GATE_FAULT (R301). -/
def gateFaultVal (gate handle reason : Nat) : Word :=
  w64 (gate % 4096 * 65536 + handle % 16 * 256 + reason % 256)

/-- A gate operation on a handle: the checks of R301 that the tile makes, then `go` with the
handle's number and its gate. -/
def onHandle (op : Nat) (ra : BitVec 5) (go : Nat → Handle → State → Ret) (s : State) : Ret :=
  let x := rx s ra
  let h := x.toNat
  if h / 16 != 0 then .trap .illegal x s
  else
    match smFind (me s).handles h with
    | none => .trap .gateFault (gateFaultVal 0 h 1) s
    | some g =>
      if op != 1 && !rightsPermit op g.rights.toNat then
        .trap .gateFault (gateFaultVal g.gate h 2) s
      else go h g s

/-- Whether a command can write global memory (R244). -/
def writesGlobal (c : Command) : Bool :=
  if c.port = 1 then pSpace c.a == 0
  else if c.port = 3 then c.cmd != cmdSwpout
  else if c.port = 0 then
    pSpace (w64 (c.e 1)) == 0 &&
      ((c.cmd == cmdLoad && ptrScaled c.b)
        || (c.cmd == cmdDrain && (ptrScaled c.b || pFmt c.b == 12)))
  else false

/-- Tasks of a cluster that have not completed, each as a command with the number of its issue. -/
def openTasks (k : Cluster) : List Command :=
  (k.waiting ++ k.running.filter (fun t => t.finished.isNone) ++ k.posts.map (·.1)).map
    (fun t => taskCommand t 0 t.id)

/-- Every engine command and task that has not completed, with the number of its issue. -/
def allCommands (s : State) : List Command :=
  ((s.tiles.map (fun e => e.2.mArrivals ++ e.2.mQueue)).flatten
      ++ (s.clusters.map (fun e => e.2.shArrivals ++ e.2.shQueue ++ e.2.shRunning)).flatten
      ++ s.swapArrivals.map (·.2) ++ s.swapQueue.map (·.2)).filter (·.snap.task.isNone)
    ++ (s.clusters.map (fun e => openTasks e.2)).flatten

/-- The numbers of a thread's engine commands and tasks that can write global memory and have not
completed (R244); a command of a thread that has moved names it by its earlier identifier (R330). -/
def openWork (s : State) (i : Tid) : List Nat :=
  ((allCommands s).filter (fun c => (c.snap.tid == i || resolveTid s c.snap.tid == i)
    && writesGlobal c)).map (·.id)

/-- A request sent to a gate's home; the thread waits for its reply (R297). -/
def gateSend (op n : Nat) (limit : Nat) (rd : BitVec 5) (h gate : Nat) (s : State) : Ret :=
  let lim := if limit = 0 then none else some (limit + 1)
  let work := if op = 2 || op = 5 then openWork s s.cur else []
  .sleep (.gate rd.toNat gate (op == 6) 0 lim)
    (send s s.cur (2 ^ 20 + gate)
      (.gateReq gate op n lim rd.toNat h (asidPart (me s).asid) s.cur.tile work))

/-- n of gsig and gwait: x[rb][31:0], or 1 when RB = 0 (R297). -/
def gateCount (s : State) (rb : BitVec 5) : Nat :=
  if rb = 0 then 1 else (rx s rb).toNat % 2 ^ 32

/-- The limit in x[rb][63:32], 0 for none (R297). -/
def gateLimit (s : State) (rb : BitVec 5) : Nat := (rx s rb).toNat / 2 ^ 32

/-- gopen (R297, R301). -/
def execGopen (stl : BitVec 3) (rd ra : BitVec 5) (s : State) : Host.Outcome State Fault Refusal :=
  run stl { xs := [rd, ra] } (fun s =>
    let x := rx s ra
    let n := x.toNat
    if n / 2 ^ 20 != 0 || field n 15 12 != 0 || field n 19 16 = 0 then .trap .illegal x s
    else gateSend 0 (field n 19 16) 0 rd 0 (n % 4096) s) s

/-- gclose (R297). -/
def execGclose (stl : BitVec 3) (ra : BitVec 5) (s : State) : Host.Outcome State Fault Refusal :=
  run stl { xs := [ra] } (onHandle 1 ra fun h _ s =>
    .go (updMe s fun th => { th with handles := smDel th.handles h })) s

/-- gsig (R297). -/
def execGsig (stl : BitVec 3) (rd ra rb : BitVec 5) (s : State) :
    Host.Outcome State Fault Refusal :=
  run stl { xs := [rd, ra, rb] } (fun s =>
    onHandle 2 ra (fun h g s => gateSend 2 (gateCount s rb) 0 rd h g.gate s) s) s

/-- gwait (R297). -/
def execGwait (stl : BitVec 3) (rd ra rb : BitVec 5) (s : State) :
    Host.Outcome State Fault Refusal :=
  run stl { xs := [rd, ra, rb] } (fun s =>
    onHandle 3 ra (fun h g s => gateSend 3 (gateCount s rb) (gateLimit s rb) rd h g.gate s) s) s

/-- gread (R297). -/
def execGread (stl : BitVec 3) (rd ra : BitVec 5) (s : State) : Host.Outcome State Fault Refusal :=
  run stl { xs := [rd, ra] } (onHandle 4 ra fun h g s => gateSend 4 0 0 rd h g.gate s) s

/-- gpost (R297). -/
def execGpost (stl : BitVec 3) (rd ra rb : BitVec 5) (s : State) :
    Host.Outcome State Fault Refusal :=
  run stl { xs := [rd, ra, rb] } (fun s =>
    onHandle 5 ra (fun h g s => gateSend 5 ((rx s rb).toNat % 2 ^ 32) 0 rd h g.gate s) s) s

/-- gtake (R297). -/
def execGtake (stl : BitVec 3) (rd ra rb : BitVec 5) (s : State) :
    Host.Outcome State Fault Refusal :=
  run stl { xs := [rd, ra, rb] } (fun s =>
    onHandle 6 ra (fun h g s => gateSend 6 0 (gateLimit s rb) rd h g.gate s) s) s

/-! ### Requests at the home unit (R297, R298) -/

/-- A request, apart from its packet. -/
structure GReq where
  gate : Nat
  op : Nat
  n : Nat
  rd : Nat
  handle : Nat
  part : Nat
  tid : Tid
  tile : Nat
  work : List Nat
  deriving DecidableEq, Repr

/-- The answer to a request in its packet's place. -/
def gateAnswer (s : State) (id : Nat) (r : GReq) (v status : Nat) (n : Nat) : State :=
  setBody s id (.gateReply r.gate r.rd (w64 v) status 0 (r.op == 6) n)

/-- A wait queued with a fresh token, or refused because 16 wait (R297). -/
def gateQueue (s : State) (id : Nat) (r : GReq) : State :=
  let x := gateSide s r.gate
  if 16 ≤ x.waiters.length then gateAnswer s id r (if r.op = 6 then gtakeVal 3 else 3) 0 0
  else
    let (token, s) := freshId s
    let w : GWaiter := { tid := r.tid, token := token, take := r.op == 6, n := r.n }
    setBody (setGateSide s r.gate { x with waiters := x.waiters ++ [w] }) id
      (.gateReply r.gate r.rd 0 1 token (r.op == 6) 0)

/-- A token of the issuer's entry taken and the commit awaited (R298). -/
def gateAccept (s : State) (id : Nat) (r : GReq) (j : Nat) : State :=
  setBody (takeToken s r.gate j) id (.gateCommit r.gate r.op r.n r.rd r.tile r.work)

/-- gwait at the home unit. -/
def gateWaitReq (s : State) (id : Nat) (r : GReq) : State :=
  let x := gateSide s r.gate
  let c := gateCounter s r.gate
  if r.n = 0 || (x.waiters.all (·.take) && decide (r.n ≤ c)) then
    gateAnswer (putGate64 s r.gate 1 (c - r.n)) id r 0 3 r.n
  else gateQueue s id r

/-- gtake at the home unit. -/
def gateTakeReq (s : State) (id : Nat) (r : GReq) : State :=
  let x := gateSide s r.gate
  if 0 < x.held then
    let h := gateMbhead s r.gate
    let v := gateMail s r.gate h
    let s := putGateMb s r.gate (gateMbcnt s r.gate) ((h + 1) % 8)
    gateAnswer (setGateSide s r.gate { x with held := x.held - 1 }) id r v 3 v
  else gateQueue s id r

/-- A request that the rights allow, served. -/
def gateServe (s : State) (id : Nat) (r : GReq) (j : Nat) : State :=
  let empty := bucketEmpty s r.gate j
  if r.op = 2 then
    if empty then gateAnswer s id r 1 0 0 else gateAccept s id r j
  else if r.op = 3 then gateWaitReq s id r
  else if r.op = 4 then gateAnswer s id r (gateCounter s r.gate) 0 0
  else if r.op = 5 then
    if gateMbcnt s r.gate = 8 then gateAnswer s id r 3 0 0
    else if empty then gateAnswer s id r 1 0 0
    else
      gateAccept (putGateMb s r.gate (gateMbcnt s r.gate + 1) (gateMbhead s r.gate)) id r j
  else gateTakeReq s id r

/-- A request at its home: existence, rights, service (R295, R297, R301). -/
def gateTakeUp (s : State) (id : Nat) (r : GReq) : State :=
  let rights := gateRights s r.gate r.part
  if r.op = 0 then
    if gateV s r.gate && rights &&& r.n == r.n then gateAnswer s id r r.n 2 0
    else gateAnswer s id r (2 ^ 63 + 2) 0 0
  else if !gateV s r.gate then setBody s id (.gateFault r.gate r.handle 4)
  else if !rightsPermit r.op rights then setBody s id (.gateFault r.gate r.handle 3)
  else gateServe s id r ((gateEntry s r.gate r.part).getD 0)

/-- Whether a tile stands still for its whole partition, not for its own move (R324, R331). -/
def partStopped (s : State) (t : Nat) : Bool :=
  (tile s t).stopped && ((tilePart s t).map (fun e => (part s e.1).run == .stopped)).getD true

/-- Whether no earlier request for the gate is waiting at its home (R298); one that a stopped partition's
tile holds has not come there (R324). -/
def gateOldest (s : State) (id gate : Nat) : Bool :=
  match s.net.find? (fun k => match k.body with
      | .gateReq g .. => g == gate && (k.id == id || !partStopped s k.src.tile)
      | _ => false) with
  | some k => k.id == id
  | none => false

/-- GATE_REQUEST (R297, R298). -/
def execGateRequest (id : Nat) (s : State) : Host.Outcome State Fault Refusal :=
  match pktOf s id with
  | some k =>
    match k.body with
    | .gateReq gate op n _ rd handle part tile work =>
      if gateOldest s id gate then
        .next (gateTakeUp s id { gate := gate, op := op, n := n, rd := rd, handle := handle,
                                 part := part, tid := k.src, tile := tile, work := work })
      else .next s
    | _ => .next s
  | none => .next s

/-! ### Commits (R244, R298) -/

/-- Whether the engine work that a commit waits for has completed (R244). -/
def commitReady (s : State) (work : List Nat) : Bool :=
  (allCommands s).all fun c => !work.contains c.id

/-- Units of a tile that lie in a gate's windows. -/
def windowUnits (s : State) (t g : Nat) : List Nat :=
  (unpublished (tile s t)).filter (unitInWindow s g)

/-- GATE_COMMIT (R244, R298): the window units of the issuing tile are published, whatever has become of
the thread, then the gate changes. -/
def execGateCommit (id : Nat) (s : State) : Host.Outcome State Fault Refusal :=
  match pktOf s id with
  | some k =>
    match k.body with
    | .gateCommit g op n rd t work =>
      if commitReady s work then
        let (s, done) := publishKeys s t (windowUnits s t g)
        if done then
          let s := fwdDone s (tileClient t)
          let s := if op = 2 then gateAdd s g n else gatePut s g n
          .next (setBody s id (.gateReply g rd 0 0 0 false 0))
        else .next s
      else .next s
    | _ => .next s
  | none => .next s

/-! ### Replies (R245, R297, R299, R300) -/

/-- The lowest closed handle (R297). -/
def closedHandle (th : Thread) : Option Nat :=
  (List.range 16).find? (fun h => (smFind th.handles h).isNone)

/-- A gopen granted: the handle opened, or none is closed (R297). -/
def gopenLand (s : State) (i : Tid) (rd gate rights : Nat) : State :=
  match closedHandle (thr s i) with
  | none => complete s i (fun th => setX th rd (w64 (2 ^ 63 + 1)))
  | some h =>
    complete (updThr s i fun th =>
      { th with handles := smSet th.handles h ⟨gate, BitVec.ofNat 4 rights⟩ }) i
      (fun th => setX th rd (w64 h))

/-- A success of gwait or gtake: the view's window units drop, then the value is there; a word is
acknowledged (R245, R297). -/
def acquireLand (s : State) (i : Tid) (rd gate : Nat) (v : Word) (take : Bool) : State :=
  let s := dropView s i.tile (unitInWindow s gate)
  let s := if take then send s i (2 ^ 20 + gate) (.gateAck gate) else s
  complete s i (fun th => setX th rd v)

/-- A reply for which no live thread waits (R300). -/
def gateReturn (s : State) (i : Tid) (gate status token : Nat) (take : Bool) (n : Nat) : State :=
  if status = 3 then send s i (2 ^ 20 + gate) (.gateRet gate take n)
  else if status = 1 then send s i (2 ^ 20 + gate) (.gateCancel gate token)
  else s

/-- A gate wait that has been queued under a token. -/
def Wait.queued (token : Nat) : Wait → Wait
  | .gate rd g take _ left => .gate rd g take token left
  | w => w

/-- A reply at its thread. -/
def gateLand (s : State) (i : Tid) (gate : Nat) (v : Word) (status token : Nat) (take : Bool)
    (n : Nat) : State :=
  match (thr s i).wait? with
  | some (.gate rd g _ own _) =>
    if g != gate || (own != 0 && token != 0 && own != token) then
      gateReturn s i gate status token take n
    else if status = 1 then
      withShadow s i fun s j => updThr s j fun th =>
        { th with st := th.st.mapWait (Wait.queued token) }
    else if status = 2 then gopenLand s i rd gate v.toNat
    else if status = 3 then acquireLand s i rd gate v take
    else complete s i (fun th => setX th rd v)
  | _ => gateReturn s i gate status token take n

/-- Whether a reply is the oldest of its gate and thread. -/
def replyOldest (s : State) (id gate : Nat) (i : Tid) : Bool :=
  match s.net.find? (fun k => k.src == i && match k.body with
      | .gateReply g .. => g == gate
      | _ => false) with
  | some k => k.id == id
  | none => false

/-- GATE_REPLY (R297): a reply or a GATE_FAULT reaches its thread. -/
def execGateReply (id : Nat) (s : State) : Host.Outcome State Fault Refusal :=
  match pktOf s id with
  | some k =>
    if departed s k.src then .next s
    else
      match k.body with
      | .gateReply g _ v status token take n =>
        if replyOldest s id g k.src then
          .next (gateLand (dropPkt s id) k.src g v status token take n)
        else .next s
      | .gateFault g h reason =>
        let s := dropPkt s id
        match (thr s k.src).wait? with
        | some (.gate ..) => .next (trapPair s k.src .gateFault (gateFaultVal g h reason))
        | _ => .next s
      | _ => .next s
  | none => .next s

/-- GATE_DELIVERY_ACK (R297): the place of a handed word is free. -/
def execGateDeliveryAck (id : Nat) (s : State) : Host.Outcome State Fault Refusal :=
  match pktOf s id with
  | some ⟨_, _, _, .gateAck g⟩ =>
    .next (putGateMb (dropPkt s id) g (gateMbcnt s g - 1) (gateMbhead s g))
  | _ => .next s

/-- GATE_WAIT_LIMIT (R298): a queued wait whose limit has ended sends its cancel. -/
def execGateWaitLimit (t slot : Nat) (s : State) : Host.Outcome State Fault Refusal :=
  let i : Tid := ⟨t, slot⟩
  match (thr s i).st with
  | .waiting (.gate rd g take token (some 0)) from_ =>
    if token = 0 then .next s
    else
      let s := withShadow s i fun s j => updThr s j fun th =>
        { th with st := .waiting (.gate rd g take token none) from_ }
      .next (send s i (2 ^ 20 + g) (.gateCancel g token))
  | _ => .next s

/-- GATE_CANCEL (R298, R300): a waiter still queued leaves the list; one whose thread waits gets 1,
or gtake's value of it. -/
def execGateCancel (id : Nat) (s : State) : Host.Outcome State Fault Refusal :=
  match pktOf s id with
  | some ⟨_, _, _, .gateCancel g token⟩ =>
    let s := dropPkt s id
    let x := gateSide s g
    match x.waiters.find? (fun w => w.token == token) with
    | none => .next s
    | some w =>
      .next (gateWake (setGateSide s g
        { x with waiters := x.waiters.filter (fun y => y.token != token) }) g w
        (if w.take then gtakeVal 1 else 1) 0 0)
  | _ => .next s

/-- GATE_RETURN (R300): a count or a word that no thread took is back at its gate. -/
def execGateReturn (id : Nat) (s : State) : Host.Outcome State Fault Refusal :=
  match pktOf s id with
  | some ⟨_, _, _, .gateRet g take n⟩ =>
    let s := dropPkt s id
    .next (if take then gateRestore s g n else gateAdd s g n)
  | _ => .next s

end Sys2Proof.Machine
end

