-- ==== Sys2Proof/Machine/Sys.lean ====
section
/-! DEFINITION. trap, tret, break (R310), idle, repart and roset (R270 to R272), and the trap of a
word that is no instruction (R56). -/

namespace Sys2Proof.Machine

/-- trap (R310). -/
def execTrap (stl : BitVec 3) (code : BitVec 9) (s : State) : Host.Outcome State Fault Refusal :=
  run stl {} (fun s => .trap .swtrap (code.setWidth 64) s) s

/-- break (R310). -/
def execBrk (stl : BitVec 3) (s : State) : Host.Outcome State Fault Refusal :=
  run stl {} (fun s => .trap .brk 0 s) s

/-- tret (R310). -/
def execTret (stl : BitVec 3) (s : State) : Host.Outcome State Fault Refusal :=
  run stl {} (fun s =>
    if (me s).inh then .goto (me s).tpc (updMe s tretContext)
    else .trap .illegal (s.ir.setWidth 64) s) s

/-- A word that is no instruction (R56): ILLEGAL, precisely and with no effect. -/
def execIllegalInstruction (w : IWord) (s : State) : Host.Outcome State Fault Refusal :=
  run 0 { ok := false } (fun s => .stay s) { s with ir := w }

/-- idle (R272). -/
def execIdle (stl : BitVec 3) (s : State) : Host.Outcome State Fault Refusal :=
  run stl { priv := 1 } (fun s =>
    if (me s).mailbox.isEmpty then .sleep .idle s else .go s) s

/-! ### repart (R270) -/

/-- Whether a tile is quiescent: every slot free or parked, and no slot kept for a displaced
thread. -/
def quiescent (s : State) (t : Nat) : Bool :=
  decide (t < savedBase) && (tile s t).threads.all (fun e => !e.2.counts) && (reservedSlots s t).isEmpty

/-- A tile in its new mode: every scalar register zero, every slot free. -/
def repartTile (wide : Bool) (tl : Tile) : Tile := { tl with wide := wide, threads := [] }

/-- repart (R270): the target tile answers. -/
def execRepart (stl : BitVec 3) (rd ra : BitVec 5) (s : State) :
    Host.Outcome State Fault Refusal :=
  run stl { priv := 1, xs := [rd, ra] } (fun s =>
    let x := rx s ra
    let n := x.toNat
    if n / 2 ^ 17 != 0 || field n 15 12 != 0 then .trap .illegal x s
    else
      match reachTile s (standing s (me s).home (me s).asid) (n % 4096) with
      | .error c => .trap c x s
      | .ok t =>
        if quiescent s t then answer rd.toNat 0 (updTile s t (repartTile (bitOf n 16)))
        else answer rd.toNat 1 s) s

/-! ### roset (R271) -/

/-- roset (R271): the entry waits for its tile's next rotation boundary. -/
def execRoset (stl : BitVec 3) (ra : BitVec 5) (pos : BitVec 4) (s : State) :
    Host.Outcome State Fault Refusal :=
  run stl { priv := 2, xs := [ra] } (fun s =>
    let x := rx s ra
    let n := x.toNat
    let remote := bitOf n 31
    let t := if remote then field n 41 32 else s.cur.tile
    if n / 2 ^ 42 != 0 || field n 30 5 != 0 || (remote && harvested s t) then .trap .illegal x s
    else
      .sleep .perform (updTile s t fun tl =>
        { tl with rosets := tl.rosets ++ [(pos.toNat, n % 16, bitOf n 4, s.cur)] })) s

/-- A bit of a position set or cleared. -/
def putPos (m : BitVec 16) (p : Nat) (v : Bool) : BitVec 16 :=
  let bit := BitVec.ofNat 16 (2 ^ p)
  if v then m ||| bit else m &&& ~~~bit

/-- One running-order entry applied. -/
def rosetPut (p troupe : Nat) (on : Bool) (tl : Tile) : Tile :=
  { tl with
    runord := w64 (withField tl.runord.toNat (4 * p + 3) (4 * p) troupe),
    rosetOff := putPos tl.rosetOff p (!on) }

/-- A thread whose operation at another place has been performed. -/
def performed (s : State) (i : Tid) : State :=
  if (thr s i).wait? == some .perform then complete s i (fun th => th) else s

/-- ROSET_APPLY (R271): the entries that wait for the boundary, in order. -/
def execRosetApply (t : Nat) (s : State) : Host.Outcome State Fault Refusal :=
  let rs := (tile s t).rosets
  let s := updTile s t fun tl => { tl with rosets := [] }
  .next (rs.foldl (fun s r => performed (updTile s t (rosetPut r.1 r.2.1 r.2.2.1)) r.2.2.2) s)

end Sys2Proof.Machine
end

