-- ==== Sys2Proof/Machine/Sched.lean ====
section
/-! DEFINITION. The prompter and its rotations (R251 to R255), thermal shedding (R273) and the
displacement of threads (R274). -/

namespace Sys2Proof.Machine

/-! ### Issue (R251 to R254) -/

/-- STALL_EXPIRY (R251): an issued thread whose stall count has passed is ready. -/
def execStallExpiry (t slot : Nat) (s : State) : Host.Outcome State Fault Refusal :=
  let i : Tid := ⟨t, slot⟩
  match (thr s i).st with
  | .issued u =>
    if u ≤ s.cycle then .next (updThr s i fun th => { th with st := .ready, readySince := s.cycle })
    else .next s
  | _ => .next s

/-- The position of the present cycle (R252). -/
def position (s : State) : Nat := s.cycle % 16

/-- The effective priority (R254). -/
def effPrio (th : Thread) : Nat := if th.yielded then 0 else min 7 (th.prio + th.boost)

/-- Whether a leader is descheduled for its load-value queue: it is full (R317), or holds a word
whose understudy's copy has still to issue. -/
def lvqHolds (th : Thread) : Bool :=
  decide (lvqSize ≤ th.lvq.length) || th.lvq.any (fun e => match e.out with
    | .slept _ => false
    | _ => true)

/-- The candidates of a tile at the present cycle (R253, R254). -/
def candidates (s : State) (t : Nat) : List (Nat × Thread) :=
  let tl := tile s t
  let p := position s
  if tl.stopped || bitOf (posOff tl) p then []
  else tl.threads.filter (fun e =>
    e.2.st == .ready && !e.2.shadow && decide (e.2.lvq.length < lvqSize)
      && e.2.troupe == field tl.runord.toNat (4 * p + 3) (4 * p))

/-- The candidates that may be picked: no leader whose understudy's copy has still to issue, at whose
cycle nothing else issues (R254). -/
def pickable (s : State) (t : Nat) : List (Nat × Thread) :=
  (candidates s t).filter (fun e => !lvqHolds e.2)

/-- The leader whose understudy issues at the present cycle: one rotation after its own issue
(R254). -/
def shadowDue (s : State) (t : Nat) : Option Nat :=
  ((tile s t).threads.find? (fun e => e.2.leader && (match e.2.lvq with
    | x :: _ => decide (x.due ≤ s.cycle)
    | [] => false))).map (·.1)

/-- Whether a thread is chosen before another of a higher slot (R254). -/
def issuesBefore (a b : Thread) : Bool :=
  decide (effPrio b < effPrio a) || (effPrio a == effPrio b && decide (a.readySince ≤ b.readySince))

/-- The slot that the prompter picks (R254). -/
def prompterPick (s : State) (t : Nat) : Option Nat :=
  ((pickable s t).foldl (fun (best : Option (Nat × Thread)) e =>
    match best with
    | none => some e
    | some b => if issuesBefore b.2 e.2 then some b else some e) none).map (·.1)

/-- The marks that an issue opportunity leaves: the picked thread's age, boost and yield flag clear,
and the other candidates are remembered for ageing (R255). -/
def markIssue (s : State) (t k : Nat) : State :=
  let cs := (candidates s t).map (·.1)
  let mark := fun (j : Nat) (th : Thread) =>
    if j = k then { th with age := 0, boost := 0, yielded := false, candidate := false }
    else if cs.contains j then { th with candidate := true }
    else th
  { updTile s t fun tl => { tl with threads := smMap mark tl.threads } with cur := ⟨t, k⟩ }

/-- The marks of a cycle that an understudy takes: every candidate of it is remembered for ageing
(R254, R255). -/
def markShadow (s : State) (t k : Nat) : State :=
  let cs := (candidates s t).map (·.1)
  let mark := fun (j : Nat) (th : Thread) =>
    if cs.contains j then { th with candidate := true } else th
  { updTile s t fun tl => { tl with threads := smMap mark tl.threads } with cur := ⟨t, k⟩ }

/-- PROMPTER_ISSUE (R254): the thread that issues at this cycle: the leader whose understudy's cycle
it is, or the thread that the prompter picks. -/
def execPrompterIssue (t : Nat) (s : State) : Host.Outcome State Fault Refusal :=
  match shadowDue s t with
  | some k => .next (markShadow s t k)
  | none =>
    match prompterPick s t with
    | none => .next s
    | some k => .next (markIssue s t k)

/-! ### The end of a rotation (R255, R303, R326) -/

/-- Ageing at the end of a rotation (R255). -/
def ageThread (step : Nat) (th : Thread) : Thread :=
  if !th.candidate then th
  else
    let th := { th with candidate := false }
    if step = 0 then th
    else if th.age + 1 < step then { th with age := th.age + 1 }
    else { th with age := 0, boost := if 7 ≤ th.prio + th.boost then th.boost else th.boost + 1 }

/-- The remaining rotations of a timed wait after one more (R326). -/
def Wait.countDown : Wait → Wait
  | .cueTimed c rd left => .cueTimed c rd (left - 1)
  | .recvt rd left => .recvt rd (left - 1)
  | .gate rd g take token (some left) => .gate rd g take token (some (left - 1))
  | w => w

/-- A thread at the end of a rotation of its tile. -/
def rotateThread (now step : Nat) (stopped : Bool) (th : Thread) : Thread :=
  let th := ageThread step th
  match th.st with
  | .trapped (some 0) => { th with st := .ready, readySince := now }
  | .trapped (some (n + 1)) => { th with st := .trapped (some n) }
  | .waiting w from_ => if stopped then th else { th with st := .waiting w.countDown from_ }
  | .migrating (.waiting w from_) =>
    if stopped then th else { th with st := .migrating (.waiting w.countDown from_) }
  | _ => th

/-- ROTATION_END (R255): ageing, handlers entered, and limits counted. -/
def execRotationEnd (t : Nat) (s : State) : Host.Outcome State Fault Refusal :=
  .next (updTile s t fun tl =>
    { tl with
      threads := smMap (fun _ => rotateThread s.cycle tl.ageStep.toNat tl.stopped) tl.threads })

/-! ### Shedding (R273) -/

/-- The shed order of a tile: 16 positions in nibbles. -/
def shedOrder (s : State) (t : Nat) : List Nat :=
  chunks 4 16 (smGet 0xFEDCBA9876543210 s.mgmt.cfg.shed t)

/-- The THERMAL event of a position (R311). -/
def raiseThermal (s : State) (t p : Nat) (restored : Bool) : State :=
  raiseSup s t (field (tile s t).runord.toNat (4 * p + 3) (4 * p)) 0x03
    ((if restored then 2 ^ 20 else 0) + p * 65536 + ltileOf s t % 4096)

/-- The troupe of a position (R252). -/
def posTroupe (tl : Tile) (p : Nat) : Nat := field tl.runord.toNat (4 * p + 3) (4 * p)

/-- A position shed, which its troupe loses (R274). -/
def shedOne (s : State) (t : Nat) : State :=
  match (shedOrder s t).find? (fun p => !bitOf (posOff (tile s t)) p) with
  | none => s
  | some p =>
    raiseThermal (updTile s t fun tl =>
      { tl with shedOff := putPos tl.shedOff p true,
                shedStack := (p, posTroupe tl p) :: tl.shedStack }) t p false

/-- The position shed last restored. -/
def restoreOne (s : State) (t : Nat) : State :=
  match (tile s t).shedStack with
  | [] => s
  | (p, _) :: ps =>
    raiseThermal (updTile s t fun tl =>
      { tl with shedOff := putPos tl.shedOff p false, shedStack := ps }) t p true

/-! ### Displacement (R274) -/

/-- Whether a thread is in a state that can move: ready, or waiting on a cue or a message, with no
stream and no understudy. -/
def movable (th : Thread) : Bool :=
  (match th.st with
    | .ready => true
    | .waiting (.cue _) _ => true
    | .waiting (.cueTimed ..) _ => true
    | .waiting (.recv _) _ => true
    | .waiting (.recvt ..) _ => true
    | .waiting .idle _ => true
    | _ => false)
  && th.streams.isEmpty && !th.leader && !th.shadow

/-- A vector window copied. -/
def copyWindow (s : State) (t base t' base' n : Nat) : State :=
  let src := tile s t
  let regs := (List.range n).filterMap fun k =>
    (smFind src.vfile (base + k)).map (fun v => (base' + k, v))
  let moved := fun (ws : List Nat) => ws.filterMap fun w =>
    if base ≤ w / 64 && decide (w / 64 < base + n) then some (w - 64 * base + 64 * base') else none
  updTile s t' fun tl =>
    let tl := zeroWindow tl base' n
    { tl with vfile := regs.foldl (fun m e => smSet m e.1 e.2) tl.vfile, vMarks := tl.vMarks.join ⟨moved src.vMarks.corr, moved src.vMarks.bad⟩ }

/-- A slot that a moving thread `i` has taken on tile `t`, with a window there (R274). -/
def arrivingSlot (i : Tid) (th : Thread) (j : Tid) (b : Nat) : Thread :=
  { Thread.none with st := .arriving i, vwBase := b, vwSize := th.vwSize, troupe := th.troupe,
                     home := j.tile, homeSlot := j.slot, launch := th.launch }

/-- A thread begins to move to slot `j` of another tile (R274): it is migrating, and its slot and window
there are taken; first the source tile publishes (log 19 [DEDUCED]). Nothing moves when no window is free,
or while a publication waits. -/
def moveStart (s : State) (i j : Tid) : State :=
  match pickBase (windowsOf (tile s j.tile)) (thr s i).vwSize with
  | none => s
  | some b =>
    match publishTile (landAll s i) i.tile with
    | (s, false) => s
    | (s, true) =>
      let s := updThr s i fun th => { th with st := .migrating th.st }
      setThr s j (arrivingSlot i (thr s i) j b)

/-- A moving context reaches slot `j` (R274); one that has ended or trapped meanwhile does not come, and
the slot is free again (log 19 [DESIGN CHOICE]). -/
def moveEnd (s : State) (j : Tid) : State :=
  match (thr s j).st with
  | .arriving i =>
    if (tile s i.tile).stopped then s
    else
      match (thr s i).st with
      | .migrating _ =>
        let th := thr s i
        let b := (thr s j).vwBase
        let s := copyWindow s i.tile th.vwBase j.tile b th.vwSize
        let s := renameTid s (fun k => if k == i then j else k)
        let th := takeUp s.cycle { thr s i with vwBase := b, repBody := none }
        retryTile (setThr (setThr s i Thread.none) j th) i.tile
      | _ => setThr s j Thread.none
  | _ => s

/-- The tiles of a die's ranking table, coolest first (R274, log 20 [DEDUCED]): the physical tiles of the
partition's logical tiles, remaps among them (R331). -/
def ranking (s : State) (p die : Nat) : List Nat :=
  (((List.range (ltileCount s p)).filterMap (ltilePhys s p)).filter (fun t => t / 256 == die)).foldr
    (insertBy (smGet 0 s.mgmt.temps)) []

/-- Whether a tile can host a displaced thread (R259, R274). -/
def canHost (s : State) (th : Thread) (t : Nat) : Bool :=
  let tl := tile s t
  let tr := smGet Troupe.zero tl.troupes th.troupe
  t != th.home && tl.shedOff == 0 && !tl.stopped
    && decide (usedSlots tl th.troupe + 1 ≤ tr.quota) && (freeSlots s t 1).length == 1
    && (pickBase (windowsOf tl) th.vwSize).isSome

/-- The host of a thread (R274). -/
def hostOf (s : State) (t : Nat) (th : Thread) : Option Nat :=
  (tilePart s t).bind fun e => (ranking s e.1 (t / 256)).find? (canHost s th)

/-- Troupes that have lost a position of a tile. -/
def shedTroupes (tl : Tile) : List Nat := tl.shedStack.map (·.2)

/-- The lowest slot whose thread a tile displaces now, hosted threads among them, with its host (R274). -/
def displacePick (s : State) (t : Nat) : Option (Nat × Nat) :=
  let tl := tile s t
  if tl.stopped then none
  else
    tl.threads.findSome? fun e =>
      if e.2.mobile && movable e.2 && (shedTroupes tl).contains e.2.troupe then
        (hostOf s t e.2).map (fun h => (e.1, h))
      else none

/-- DISPLACE_THREAD (R274): one qualifying thread of a tile with a shed position begins to move to its
host. -/
def execDisplaceThread (t : Nat) (s : State) : Host.Outcome State Fault Refusal :=
  match displacePick s t with
  | none => .next s
  | some (k, h) =>
    match freeSlots s h 1 with
    | [n] => .next (moveStart s ⟨t, k⟩ ⟨h, n⟩)
    | _ => .next s

/-- Whether a displaced thread may go home (R274). -/
def goesHome (s : State) (i : Tid) : Bool :=
  let th := thr s i
  th.live && displaced i th && movable th && (tile s th.home).shedOff == 0
    && !(tile s i.tile).stopped && !(tile s th.home).stopped

/-- RETURN_HOME (R274): a displaced thread begins to move to its home slot. -/
def execReturnHome (t slot : Nat) (s : State) : Host.Outcome State Fault Refusal :=
  let i : Tid := ⟨t, slot⟩
  if goesHome s i then
    .next (moveStart s i ⟨(thr s i).home, (thr s i).homeSlot⟩)
  else .next s

end Sys2Proof.Machine
end

