-- ==== Sys2Proof/Machine/Remote.lean ====
section
/-! DEFINITION. The REMOTE words (R344, R345), and the requests and replies they send (R269, R342,
R343, R344). -/

namespace Sys2Proof.Machine

/-! ### The words -/

/-- TYPE of rld. -/
def tyRld : Nat := 0
/-- TYPE of rst. -/
def tyRst : Nat := 1
/-- TYPE of spawnr. -/
def tySpawnr : Nat := 3
/-- TYPE of csigr.rank. -/
def tyCsigr : Nat := 4

/-- Whether a rank word has only bits that a TYPE uses (R344, R345). -/
def rankWordOk (ty : Nat) (w : Nat) : Bool :=
  w / 2 ^ 40 = 0 && (ty == tyCsigr || field w 39 32 = 0) && field w 31 28 = 0
    && (ty == tyCsigr || ty == tySpawnr || field w 27 16 = 0) && field w 15 12 = 0

/-- Where a request acts at its target, for the order of one source's requests (R129, R346). -/
def rTarget (q : RReq) : Nat :=
  if q.kind = tyRld || q.kind = tyRst then pSpace q.addr * 2 ^ 12 + pOff q.addr / 2 ^ 40
  else if q.kind = tyCsigr || q.kind = tySpawnr then
    q.kind * 2 ^ 20 + field q.addr.toNat 27 16 * 256 + field q.addr.toNat 39 32
  else 2 ^ 30

/-- A request sent to a rank, local when the rank is SELF (R344). `tgt` orders the packets of one
thread. -/
def remoteSend (s : State) (e : RankEntry) (tag ty : Nat) (addr : Word) (hdr : List Word)
    (flits : List (BitVec 512)) : State :=
  let th := me s
  let p := asidPart th.asid
  let aspc := th.asid.toNat % 4096
  let q : RReq := { kind := ty, part := e.part, addr := addr, priv := th.priv, aspc := aspc,
                    data := hdr ++ (flits.map flitWords).flatten }
  if e.self then send s s.cur (rTarget q) (.rreq true (myCoord s + 4096 * p) tag q)
  else
    inject s s.cur
      { typ := ty, cls := 0, len := 0, pcls := p, dpart := e.part, dst := e.coord, src := 0,
        rtag := tag, addr := addr, priv := th.priv, aspc := aspc, data := hdr.map (·.toNat) } flits

/-- The rank word of an issue: its entry, or its trap (R345). -/
def rankOf (ty : Nat) (w : Word) (s : State) : Except Cause RankEntry :=
  if !rankWordOk ty w.toNat then .error .illegal
  else
    match rankEntry s (asidPart (me s).asid) (w.toNat % 4096) with
    | none => .error .addr
    | some e => .ok e

/-- A request that waits for its reply. -/
def remoteAsk (ty : Nat) (rd : BitVec 5) (e : RankEntry) (addr ptr : Word)
    (flits : List (BitVec 512)) (s : State) : Ret :=
  let (tag, s) := freshTag s
  let o : Outst := { rtag := tag, id := s.fresh, tid := s.cur, tile := s.cur.tile,
                     sent := s.cycle, fail := 0, kind := ty }
  .sleep (.remote tag rd.toNat ty ptr)
    (remoteSend { s with outst := s.outst ++ [o] } e tag ty addr [] flits)

/-- Posted REMOTE operations of a tile outstanding (R345). -/
def postedRemote (s : State) (t : Nat) : Nat :=
  (s.outst.filter (fun o => o.tile == t && (o.kind == tyRst || o.kind == tyCsigr))).length

/-- A posted request: the thread goes on, unless 64 of its tile are outstanding (R345). -/
def remotePost (ty : Nat) (e : RankEntry) (addr fail data : Word) (s : State) : Ret :=
  if 64 ≤ postedRemote s s.cur.tile then .sleep .retry s
  else
    let (tag, s) := freshTag s
    let o : Outst := { rtag := tag, id := s.fresh, tid := s.cur, tile := s.cur.tile,
                       sent := s.cycle, fail := fail, kind := ty }
    let s := remoteSend { s with outst := s.outst ++ [o] } e tag ty addr [data] []
    .go (updMe s fun th => { th with postedN := th.postedN + 1 })

/-- The pointer of rld and rst (R345). -/
def remotePtr (p : Word) : Option Cause :=
  if pSpace p = 2 then some .addr else if pOff p % 8 != 0 then some .misalign else none

/-- rld (R344, R345). -/
def execRld (stl : BitVec 3) (rd ra rb : BitVec 5) (s : State) :
    Host.Outcome State Fault Refusal :=
  run stl { xs := [rd, ra, rb], res := [(rb, 5)], kind := 0 } (fun s =>
    match rankOf tyRld (rx s ra) s with
    | .error c => .trap c (rx s ra) s
    | .ok e =>
      let p := rx s rb
      match remotePtr p with
      | some c => .trap c p s
      | none => remoteAsk tyRld rd e p p [] s) s

/-- rst (R344, R345). -/
def execRst (stl : BitVec 3) (rd ra rb : BitVec 5) (s : State) :
    Host.Outcome State Fault Refusal :=
  run stl { xs := [rd, ra, rb], res := [(rb, 5)], kind := 0 } (fun s =>
    match rankOf tyRst (rx s ra) s with
    | .error c => .trap c (rx s ra) s
    | .ok e =>
      let p := rx s rb
      match remotePtr p with
      | some c => .trap c p s
      | none => remotePost tyRst e p p (rx s rd) s) s

/-- The 64 bytes at a home scratchpad pointer that ramo and spawnr send (R344, R345), then `go`. -/
def homeBlock (p : Word) (go : Nat → State → Ret) (s : State) : Ret :=
  if pSpace p != 2 || pOff p % 64 != 0 || decide (spadSize < pOff p + 64) then .trap .addr p s
  else
    let (n, bad) := spadRead s (me s).home (pOff p) 64
    if bad then .park 1 (chargeSram s (me s).home 3) else go n s

/-- ramo (R344, R345). -/
def execRamo (stl : BitVec 3) (rd ra rb : BitVec 5) (s : State) :
    Host.Outcome State Fault Refusal :=
  run stl { xs := [rd, ra, rb], res := [(rb, 5)], kind := 0 } (fun s =>
    match rankOf tyRamo (rx s ra) s with
    | .error c => .trap c (rx s ra) s
    | .ok e =>
      let p := rx s rb
      homeBlock p (fun n s =>
        remoteAsk tyRamo rd e (w64 (n / 2 ^ 64)) p [BitVec.ofNat 512 n] s) s) s

/-- spawnr (R344, R345). -/
def execSpawnr (stl : BitVec 3) (rd ra rb : BitVec 5) (s : State) :
    Host.Outcome State Fault Refusal :=
  run stl { xs := [rd, ra, rb], res := [(rb, 5)], kind := 5 } (fun s =>
    match rankOf tySpawnr (rx s ra) s with
    | .error c => .trap c (rx s ra) s
    | .ok e =>
      let p := rx s rb
      homeBlock p (fun n s => remoteAsk tySpawnr rd e (rx s ra) p [BitVec.ofNat 512 n] s) s) s

/-- csigr.rank (R344, R345). -/
def execCsigrRank (stl : BitVec 3) (ra rb : BitVec 5) (s : State) :
    Host.Outcome State Fault Refusal :=
  run stl { xs := [ra, rb] } (fun s =>
    match rankOf tyCsigr (rx s ra) s with
    | .error c => .trap c (rx s ra) s
    | .ok e =>
      let n := if rb = 0 then 1 else (rx s rb).toNat % 2 ^ 32
      remotePost tyCsigr e (rx s ra) (rx s ra) (w64 n) s) s

/-! ### Requests at their target (R343, R344) -/

/-- The failure of a delivery (R342, R343). -/
def lostFailure : Failure := ⟨.pageLost, 8⟩

/-- A request answered: words 3 to 7 of the reply's header and its data flits, or a failure. -/
def respond (s : State) (id : Nat) (loc : Bool) (from_ rtag : Nat) (hdr : List Word)
    (flits : List (BitVec 512)) (fail : Option Failure) : State :=
  let pad := (hdr ++ List.replicate 5 0).take 5
  if loc then setBody s id (.rrep rtag (pad ++ (flits.map flitWords).flatten) fail)
  else
    let data := match fail with
      | some f => [f.cause.code * 256 + f.sub]
      | none => hdr.map (·.toNat)
    inject (dropPkt s id) deadTid
      { typ := if fail.isSome then 8 else 7, cls := 1, len := 0, pcls := from_ / 4096, dpart := 0,
        dst := from_ % 4096, src := 0, rtag := rtag, addr := 0, priv := 0, aspc := 0,
        data := data } flits

/-- How a partition stands towards packets that reach it (R343): `none` holds them. -/
def partTakes (s : State) (p : Nat) : Option Bool :=
  match (part s p).run with
  | .running => some true
  | .stopped => none
  | .idle => some false

/-- What a request does at its target. -/
inductive RAct where
  | ok (s : State) (hdr : List Word)
  | fail (s : State) (f : Failure)
  | wait (s : State)

/-- The access of a request (R337): under (DPART, ASPC) with the header's privilege. -/
def reqAcc (id part aspc priv : Nat) (write : Bool) : Acc :=
  { asid := BitVec.ofNat 16 (part * 4096 + aspc), priv := priv, write := write,
    fetch := false, client := id }

/-- The logical tile that a local request's thread is traced with; one of another package is not
known, a free value (log 4 [DESIGN CHOICE]). -/
def reqSrc (s : State) (loc : Bool) (i : Tid) : Nat × State :=
  if loc then (ltileOf s (thr s i).home, s)
  else let (c, s) := draw s; (c % 4096, s)

/-- An rld at its target. -/
def rldAct (s : State) (id : Nat) (q : RReq) : RAct :=
  match (if pSpace q.addr = 2 then .error .addr
      else resolve s ⟨q.part, none⟩ 1024 none q.addr 8) with
  | .error c => .fail s ⟨c, 0⟩
  | .ok (.glob o) =>
    match gRead s (reqAcc id q.part q.aspc q.priv false) o 8 with
    | .ok s v bad => .ok s [w64 v, if bad then 4 else 0]
    | .fault s sub => .fail s ⟨subCause sub, sub⟩
    | .wait s' => .wait s'
  | .ok (.here _) => .fail s ⟨.addr, 0⟩
  | .ok (.far pl o) =>
    let (v, bad) := placeRead s pl o 8
    .ok (if bad then chargeSram s pl 3 else s) [w64 v, if bad then w64 (placeSource pl) else 0]

/-- An rst at its target. -/
def rstAct (s : State) (id : Nat) (loc : Bool) (i : Tid) (q : RReq) : RAct :=
  let v := (q.data.getD 0 0).toNat
  match (if pSpace q.addr = 2 then .error .addr
      else resolve s ⟨q.part, none⟩ 1024 none q.addr 8) with
  | .error c => .fail s ⟨c, 0⟩
  | .ok (.glob o) =>
    match gWrite s (reqAcc id q.part q.aspc q.priv true) o 8 v (fullMask 8) with
    | .ok s _ _ => .ok s []
    | .fault s sub => .fail s ⟨subCause sub, sub⟩
    | .wait s' => .wait s'
  | .ok (.here _) => .fail s ⟨.addr, 0⟩
  | .ok (.far pl o) =>
    let (src, s) := reqSrc s loc i
    .ok (placeWrite s pl o 8 v 0 src) []

/-- A csigr.rank at its target. -/
def csigrAct (s : State) (q : RReq) : RAct :=
  match ltilePhys s q.part (field q.addr.toNat 27 16) with
  | none => .fail s ⟨.addr, 0⟩
  | some t =>
    .ok (cueSignal s (.tile t (field q.addr.toNat 39 32)) ((q.data.getD 0 0).toNat % 2 ^ 32)) []

/-- Whether two requests of one source take effect in issue order: they act at one place, or a spawn
meets a signal of its tile (R129, R346). -/
def rOrdered (q q' : RReq) : Bool :=
  let unit := fun (r : RReq) => r.kind == tySpawnr || r.kind == tyCsigr
  rTarget q == rTarget q' || (unit q && unit q' && (q.kind == tySpawnr || q'.kind == tySpawnr)
    && field q.addr.toNat 27 16 == field q'.addr.toNat 27 16)

/-- Whether a request is the oldest of its source among those it is ordered with (R129, R346). -/
def reqOldest (s : State) (k : Pkt) : Bool :=
  match k.body with
  | .rreq loc from_ _ q =>
    let same := fun (x : Pkt) => match x.body with
      | .rreq loc' from' _ q' =>
        loc' == loc && from' == from_ && (!loc || x.src == k.src) && rOrdered q' q
          && q'.part == q.part
      | _ => false
    (s.net.find? same).map (·.id) == some k.id
  | _ => false

/-- The end of a request's action. -/
def reqEnd (s : State) (id : Nat) (loc : Bool) (from_ rtag : Nat) : RAct → State
  | .ok s hdr => respond (fwdDone s id) id loc from_ rtag hdr [] none
  | .fail s f => respond (fwdDone s id) id loc from_ rtag [] [] (some f)
  | .wait s' => keepRequests s s'

/-- REMOTE_REQUEST (R343, R344): an rld, rst or csigr.rank acts at its target; a request of any TYPE
for a partition that is idle or absent fails. -/
def execRemoteRequest (id : Nat) (s : State) : Host.Outcome State Fault Refusal :=
  match pktOf s id with
  | some k =>
    match k.body with
    | .rreq loc from_ rtag q =>
      if !reqOldest s k then .next s
      else
        match partTakes s q.part with
        | none => .next s
        | some false => .next (respond s id loc from_ rtag [] [] (some lostFailure))
        | some true =>
          if q.kind = tyRld then .next (reqEnd s id loc from_ rtag (rldAct s id q))
          else if q.kind = tyRst then .next (reqEnd s id loc from_ rtag (rstAct s id loc k.src q))
          else if q.kind = tyCsigr then .next (reqEnd s id loc from_ rtag (csigrAct s q))
          else .next s
    | _ => .next s
  | none => .next s

/-! ### Remote spawns (R237, R269) -/

/-- The launch of one level that a thread forms by itself, with tile domain and tile scope (R237). -/
def ownLaunch (s : State) (part aspace : Nat) (j : Tid) : State :=
  let (n, s) := freshId s
  let l : Launch := { id := n, part := part, aspace := aspace, mscopes := [0], src := .other,
                      cpl := 0, threads := [j], released := true, reserve := [] }
  updThr { s with launches := s.launches ++ [l] } j fun th => { th with launch := n, units := [0] }

/-- The status of a spawn request and what it leaves (R269). -/
def spawnrJudge (s : State) (part lt : Nat) (desc : Nat) : Nat × State :=
  match ltilePhys s part lt with
  | none => (3, s)
  | some t =>
    match parseDesc desc with
    | none => (2, s)
    | some d =>
      if d.priv != 0 || !(smGet Troupe.zero (tile s t).troupes d.troupe).radm then (2, s)
      else
        let n : NewThread := { d := d, x4 := d.arg, regs := [], launch := 0, units := [0],
                               asid := BitVec.ofNat 16 (part * 4096 + d.aspace), placed := false }
        match createThread s t true n with
        | none => (1, s)
        | some (j, s) =>
          let s := ownLaunch (startFence s j) part d.aspace j
          let th := thr s j
          (0, if th.leader then
                updThr s ⟨j.tile, th.partner⟩ fun u => { u with launch := th.launch, units := [0] }
              else s)

/-- SPAWNR_ADMISSION (R269): the target tile judges the oldest request it has received. -/
def execSpawnrAdmission (id : Nat) (s : State) : Host.Outcome State Fault Refusal :=
  match pktOf s id with
  | some k =>
    match k.body with
    | .rreq loc from_ rtag q =>
      if q.kind = tySpawnr && reqOldest s k && partTakes s q.part == some true then
        let desc := packChunks 64 ((q.data.drop (q.data.length - 8)).map (·.toNat))
        let (st, s) := spawnrJudge s q.part (field q.addr.toNat 27 16) desc
        .next (respond s id loc from_ rtag [w64 st] [] none)
      else .next s
    | _ => .next s
  | none => .next s

/-! ### Replies (R342, R344, R345) -/

/-- The end of an outstanding request. -/
def outstDone (s : State) (rtag : Nat) : State :=
  { s with outst := s.outst.filter (fun o => o.rtag != rtag) }

/-- A posted request acknowledged, or failed (R243, R345). -/
def postedEnd (s : State) (o : Outst) (fail : Bool) : State :=
  let s := updThr s o.tid fun th =>
    { th with postedN := th.postedN - 1,
              failN := noteFail th.failN o.id (if fail then some o.fail else none) }
  fenceWake (retryTile s o.tile) o.tid

/-- The reply of a thread's own request (R344, R345): what it writes and where it traps. -/
def awaitEnd (s : State) (o : Outst) (data : List Word) (fail : Option Failure) : State :=
  let i := o.tid
  match (thr s i).wait? with
  | some (.remote tag rd ty ptr) =>
    if tag != o.rtag then s
    else if ty = tySpawnr then
      complete s i (fun th => setX th rd (if fail.isSome then 4 else data.getD 0 0))
    else
      match fail with
      | some f => failThread s i f ptr
      | none =>
        if ty = tyRamo then
          let words := data.drop 5
          let home := (thr s i).home
          let s := placeWrite s home (pOff ptr) 64 (packChunks 64 (words.map (·.toNat))) 0
            (ltileOf s home)
          complete s i (fun th => setX th rd (words.getD 0 0))
        else if data.getD 1 0 != 0 then parkThread s i (data.getD 1 0).toNat
        else complete s i (fun th => setX th rd (data.getD 0 0))
  | _ => s

/-- The answer of a forwarded access in a reply's data words: 32 bytes, an old value, or an op
packet's eight words, with 2^256 added for a poisoned value (log 13 [DESIGN CHOICE]). -/
def fwdAnswer (op : FwdOp) (data : List Word) : Nat :=
  match op with
  | .op _ => packChunks 64 ((data.drop 5).map (·.toNat))
  | _ => packChunks 64 ((data.take 4).map (·.toNat)) + (if data.getD 4 0 != 0 then 2 ^ 256 else 0)

/-- A forwarded access answered (R94). -/
def fwdLand (s : State) (rtag : Nat) (data : List Word) : State :=
  { s with fwds := s.fwds.map fun q =>
      if q.rtag = rtag then { q with answer := some (.value (fwdAnswer q.op data)) } else q }

/-- A forwarded access that its owner refuses: the accessor meets the owner's own cause and sub-cause
(R94, R344). -/
def fwdRefuse (s : State) (rtag : Nat) (f : Failure) : State :=
  { s with fwds := s.fwds.map fun q =>
      if q.rtag = rtag then { q with answer := some (.refused f) } else q }

/-- REMOTE_REPLY (R94, R344): a reply reaches its request. A forwarded access or pull that the owner or
a link has failed goes on to R97; one that the owner refuses has the owner's cause, and leaves the leaf
as it is. -/
def execRemoteReply (id : Nat) (s : State) : Host.Outcome State Fault Refusal :=
  match pktOf s id with
  | some k =>
    match k.body with
    | .rrep rtag data fail =>
      match s.outst.find? (fun o => o.rtag == rtag) with
      | none => .next (dropPkt s id)
      | some o =>
        if departed s o.tid then .next s
        else if (o.kind = 5 || o.kind = 6) && fail == some lostFailure then
          .next (setBody s id (.fwdFail rtag))
        else
          let s := outstDone (dropPkt s id) rtag
          if o.kind = 5 then
            .next (match fail with
              | some f => fwdRefuse s rtag f
              | none => fwdLand s rtag data)
          else if o.kind = 6 then
            .next (if fail.isSome then pullFail s o.fail.toNat swFault
              else pullLand s o.fail.toNat (packChunks 64 ((data.drop 5).map (·.toNat)))
                (data.getD 0 0).toNat)
          else if o.kind = tyRst || o.kind = tyCsigr then .next (postedEnd s o fail.isSome)
          else .next (awaitEnd s o data fail)
    | _ => .next s
  | none => .next s

/-- The cycles of TMO (R342). -/
def tmo : Nat := 1048576

/-- REQUEST_TIMEOUT (R342): a request with no reply within TMO counts as failed. -/
def execRequestTimeout (id : Nat) (s : State) : Host.Outcome State Fault Refusal :=
  match s.outst.find? (fun o => o.id == id) with
  | none => .next s
  | some o =>
    if s.cycle < o.sent + tmo then .next s
    else if o.kind = 5 || o.kind = 6 then
      let again := fun (x : Outst) => if x.rtag = o.rtag then { x with sent := s.cycle } else x
      .next (send { s with outst := s.outst.map again } deadTid 0 (.fwdFail o.rtag))
    else
      let s := outstDone s o.rtag
      let o := { o with tid := resolveTid s o.tid }
      if o.kind = tyRst || o.kind = tyCsigr then .next (postedEnd s o true)
      else .next (awaitEnd s o [] (some lostFailure))

end Sys2Proof.Machine
end

