-- ==== Sys2Proof/Machine/OpPackets.lean ====
section
/-! DEFINITION. Op packets at the memory-side units (R74 to R77). -/

namespace Sys2Proof.Machine

/-! ### Accesses of a memory-side unit -/

/-- A read of a memory-side unit: the slice's own copy of the sector goes back first (R74). -/
def unitRead (s : State) (a : Acc) (off n : Nat) : GRes :=
  if (readsHad s a off n).isSome then lineRead s a off n
  else if s.heldPages.contains (pageKey a.asid off) then .wait s
  else
    match translate s a off with
    | (s, .error sub) => .fault s sub
    | (s, .ok t) =>
      if isRemote t then lineRead s a off n
      else if sectorHeld s a.client a.asid off then .wait s
      else
        let s := expelSector s a.asid off
        let pa := leafPa t.pte.toNat t.big off
        let ((v, code), s) := sectorFetch s (some (asidPart a.asid)) (pteGran t.pte.toNat) (pa / 65536)
          (pa % 65536 / 32)
        .ok s (getBytes v (pa % 32) n) (2 ≤ code)

/-- A write of a memory-side unit: it waits for bytes that another op packet holds (R77). -/
def unitWrite (s : State) (a : Acc) (off n v : Nat) : GRes :=
  let a := { a with write := true }
  let parts := writeParts off n v (fullMask n)
  if (writesHad s a off parts).length = parts.length then lineWrite s a off n v (fullMask n)
  else if s.heldPages.contains (pageKey a.asid off) then .wait s
  else
    match translate s a off with
    | (s, .error sub) => .fault s sub
    | (s, .ok t) =>
      if isRemote t then lineWrite s a off n v (fullMask n)
      else
        let pa := leafPa t.pte.toNat t.big off
        if opHeld s a.client pa n then .wait s
        else
        let s := expelSector (setDirty s t) a.asid off
        .ok (gateTouched s (bytesStore s (some (asidPart a.asid)) (pteGran t.pte.toNat) pa n v) pa) 0
          false

/-! ### The packet (R75) and its reply (R76) -/

/-- The words of an op packet. -/
structure OpPkt where
  w : List Nat
  deriving DecidableEq, Repr

/-- Word i. -/
def OpPkt.word (p : OpPkt) (i : Nat) : Nat := p.w.getD i 0
/-- OP. -/
def OpPkt.op (p : OpPkt) : Nat := p.word 0 % 256
/-- Bytes of a single-word operation. -/
def OpPkt.size (p : OpPkt) : Nat := if bitOf (p.word 0) 8 then 8 else 4
/-- NOFF in bytes. -/
def OpPkt.noff (p : OpPkt) : Nat := 8 * field (p.word 0) 23 16
/-- KOFF in bytes. -/
def OpPkt.koff (p : OpPkt) : Nat := 8 * field (p.word 0) 31 24
/-- HOPS. -/
def OpPkt.hops (p : OpPkt) : Nat := if field (p.word 0) 15 12 = 0 then 16 else field (p.word 0) 15 12
/-- The offset of ADDR. -/
def OpPkt.off (p : OpPkt) : Nat := p.word 1 % 2 ^ 52

/-- Whether a packet is ILLEGAL (R75): reserved OP or bits, amofadd.bf on 64 bits. An ADDR whose SPACE
is not 0b00 is ILLEGAL too: R75 asks for SPACE 0b00 and names no outcome for another (log 38
[DESIGN CHOICE]). -/
def OpPkt.illegal (p : OpPkt) : Bool :=
  p.word 0 / 2 ^ 32 != 0 || field (p.word 0) 11 9 != 0 || pSpace (w64 (p.word 1)) != 0
    || !(decide (p.op ≤ 0x0E) || (decide (0x10 ≤ p.op) && decide (p.op ≤ 0x14)))
    || (p.op == 0x0B && p.size == 8)

/-- Whether an op packet is a write (R86): every one but CHASE, amold too. -/
def OpPkt.writes (p : OpPkt) : Bool := p.op != 0x14

/-- The alignment of ADDR (R77). -/
def OpPkt.align (p : OpPkt) : Nat := if p.op ≤ 0x0E then p.size else if p.op = 0x14 then 8 else 16

/-- The reply's eight words (R76). -/
def opReply (status hops mask : Nat) (vals : List Nat) : List Word :=
  w64 (mask * 65536 + hops % 256 * 256 + status) :: ((vals ++ List.replicate 7 0).take 7).map w64

/-- FAIL. -/
def opFail : Nat := 1
/-- EMPTY. -/
def opEmpty : Nat := 2
/-- END. -/
def opEnd : Nat := 3
/-- LIMIT. -/
def opLimit : Nat := 4
/-- FAULT. -/
def opFault : Nat := 5
/-- ALIGN. -/
def opAlign : Nat := 6
/-- ILLEGAL. -/
def opIllegal : Nat := 7
/-- POISON. -/
def opPoison : Nat := 8

/-- What an op packet comes to: a reply, or a wait for the owner of a remote page. -/
inductive OpRes where
  | done (s : State) (reply : List Word)
  | wait (s : State)

/-- A node access's outcome: FAULT with the virtual address, POISON, or `go` (R76). -/
def onNode (off : Nat) (r : GRes) (go : State → Nat → OpRes) : OpRes :=
  match r with
  | .wait s => .wait s
  | .fault s _ => .done s (opReply opFault 0 0 [off])
  | .ok s v bad => if bad then .done s (opReply opPoison 0 0 []) else go s v

/-- The address of a node's field, or FAULT or ALIGN (R77). Bits [63:52] of a node word are not part of
a SPACE 0b00 offset: the model drops them, and the spec does not say whether they are checked (log 38
[DESIGN CHOICE]). -/
def nodeField (s : State) (node k : Nat) (go : Nat → OpRes) : OpRes :=
  let off := node % 2 ^ 52 + k
  if node % 8 != 0 then .done s (opReply opAlign 0 0 [])
  else if 2 ^ 52 < off + 8 then .done s (opReply opFault 0 0 [off])
  else go off

/-! ### The operations (R77) -/

/-- A single-word operation. A mismatch of amocas is FAIL (R76). Reply word 1 holds the old value of a
32-bit operation zero-extended, which the spec leaves open (log 38 [DESIGN CHOICE]). -/
def opSingle (s : State) (a : Acc) (p : OpPkt) : OpRes :=
  onNode p.off (unitRead s a p.off p.size) fun s old =>
    let cas := p.op == 0x09
    match amoNew p.op p.size old (if cas then p.word 3 else p.word 2) (p.word 2) with
    | none => .done s (opReply (if cas then opFail else 0) 0 0 [old])
    | some v =>
      onNode p.off (unitWrite s a p.off p.size v) fun s _ => .done s (opReply 0 0 0 [old])

/-- The mask of `n`-bit words that differ. -/
def diffMask (n : Nat) (a b : Nat) : Nat :=
  packChunks 1 (List.zipWith (fun x y => if x = y then 0 else 1) (chunks n (128 / n) a)
    (chunks n (128 / n) b))

/-- CAS2 and CAS4. Of opa:opb and opc:opd the first-named word is the low doubleword, which lies at ADDR;
the spec does not define the colon (log 38 [DESIGN CHOICE]). -/
def opCas (n : Nat) (s : State) (a : Acc) (p : OpPkt) : OpRes :=
  onNode p.off (unitRead s a p.off 16) fun s old =>
    let m := diffMask n old (p.word 2 + 2 ^ 64 * p.word 3)
    let vals := [old % 2 ^ 64, old / 2 ^ 64]
    if m != 0 then .done s (opReply opFail 0 m vals)
    else
      onNode p.off (unitWrite s a p.off 16 (p.word 4 + 2 ^ 64 * p.word 5)) fun s _ =>
        .done s (opReply 0 0 0 vals)

/-- LENQ. -/
def opLenq (s : State) (a : Acc) (p : OpPkt) : OpRes :=
  let node := p.word 2
  onNode p.off (unitRead s a p.off 16) fun s q =>
    let tail := q / 2 ^ 64
    if tail % 8 != 0 then .done s (opReply opAlign 0 0 [])
    else
      nodeField s node p.noff fun f => onNode f (unitWrite s a f 8 0) fun s _ =>
        let last := fun (s : State) (head : Nat) =>
          onNode p.off (unitWrite s a p.off 16 (head + 2 ^ 64 * node)) fun s _ =>
            .done s (opReply 0 0 0 [])
        if tail = 0 then last s node
        else
          nodeField s tail p.noff fun f => onNode f (unitWrite s a f 8 node) fun s _ =>
            last s (q % 2 ^ 64)

/-- LDEQ. -/
def opLdeq (s : State) (a : Acc) (p : OpPkt) : OpRes :=
  onNode p.off (unitRead s a p.off 16) fun s q =>
    let head := q % 2 ^ 64
    if head = 0 then .done s (opReply opEmpty 0 0 [])
    else
      nodeField s head p.noff fun f => onNode f (unitRead s a f 8) fun s next =>
        let tail := if next = 0 then 0 else q / 2 ^ 64
        onNode p.off (unitWrite s a p.off 16 (next + 2 ^ 64 * tail)) fun s _ =>
          .done s (opReply 0 0 0 [head])

/-- A step of CHASE: the node, the hops taken, whether the key has been read. -/
structure Chase where
  node : Nat
  hop : Nat
  onKey : Bool
  deriving DecidableEq, Repr

/-- One word of CHASE read: a reply, or where the chase stands then. The hops taken are the next pointers
read, the last one of END and LIMIT among them, and a match takes none; the spec says only "the hops taken"
(log 38 [DESIGN CHOICE]). -/
def chaseStep (s : State) (a : Acc) (p : OpPkt) (c : Chase) : OpRes × Option (State × Chase) :=
  let stop := fun (r : OpRes) => (r, none)
  let k := if c.onKey then p.koff else p.noff
  let off := c.node % 2 ^ 52 + k
  if c.node % 8 != 0 then stop (.done s (opReply opAlign c.hop 0 []))
  else if 2 ^ 52 < off + 8 then stop (.done s (opReply opFault c.hop 0 [off]))
  else
    match unitRead s a off 8 with
    | .wait s => stop (.wait s)
    | .fault s _ => stop (.done s (opReply opFault c.hop 0 [off]))
    | .ok s v bad =>
      if bad then stop (.done s (opReply opPoison c.hop 0 []))
      else if c.onKey then
        if v = p.word 2 then stop (.done s (opReply 0 c.hop 0 [c.node]))
        else (.wait s, some (s, { c with onKey := false }))
      else if v = 0 then stop (.done s (opReply opEnd (c.hop + 1) 0 []))
      else if p.hops ≤ c.hop + 1 then stop (.done s (opReply opLimit (c.hop + 1) 0 [v]))
      else (.wait s, some (s, { node := v, hop := c.hop + 1, onKey := true }))

/-- A whole chase, word by word. -/
def chaseAll (a : Acc) (p : OpPkt) : Nat → State → Chase → OpRes
  | 0, s, _ => .wait s
  | n + 1, s, c =>
    match chaseStep s a p c with
    | (_, some (s, c)) => chaseAll a p n s c
    | (r, none) => r

/-- An op packet executed whole. -/
def opRun (s : State) (a : Acc) (p : OpPkt) : OpRes :=
  if p.op ≤ 0x0E then opSingle s a p
  else if p.op = 0x10 then opCas 64 s a p
  else if p.op = 0x11 then opCas 32 s a p
  else if p.op = 0x12 then opLenq s a p
  else if p.op = 0x13 then opLdeq s a p
  else chaseAll a p 32 s { node := p.word 1, hop := 0, onKey := true }

/-! ### Packets at their unit -/

/-- The words of the op packet that a request carries. -/
def reqOp (q : RReq) : OpPkt := ⟨(q.data.take 8).map (·.toNat)⟩

/-- Where the chase of a request stands: at ADDR first, the whole word 1 of its packet (R77: node := addr). -/
def reqChase (q : RReq) : Chase :=
  match q.data.drop 8 with
  | [node, hop, k] => ⟨node.toNat, hop.toNat, k == 0⟩
  | _ => ⟨(reqOp q).word 1, 0, true⟩

/-- A request with a chase's progress. -/
def putChase (q : RReq) (c : Chase) : RReq :=
  { q with data := q.data.take 8 ++ [w64 c.node, w64 c.hop, if c.onKey then 0 else 1] }

/-- A request marked as begun. -/
def begun (q : RReq) : RReq := { q with data := q.data.take 8 ++ [0] }

/-- What comes before an op packet's own work: ILLEGAL, a failed translation of ADDR, a page of
another rank, ALIGN (R75, R76, R94, R344); or the work. -/
def opStart (s : State) (id : Nat) (loc : Bool) (from_ rtag : Nat) (q : RReq)
    (go : State → Acc → OpPkt → State) : State :=
  let p := reqOp q
  let a := reqAcc id q.part q.aspc q.priv p.writes
  let reply := fun (s : State) (ws : List Word) =>
    respond (fwdDone s id) id loc from_ rtag [] [wordsFlit ws] none
  let refuse := fun (s : State) (f : Failure) => respond (fwdDone s id) id loc from_ rtag [] [] (some f)
  if p.illegal then reply s (opReply opIllegal 0 0 [])
  else
    match fwdHad s a (p.off / 32) (.op (p.w.map w64)) with
    | some (.value v) => reply s ((chunks 64 8 v).map w64)
    | some (.refused f) => refuse s f
    | some .lost => refuse s lostFailure
    | none =>
      if s.heldPages.contains (pageKey a.asid p.off) then s
      else
        match translate s a p.off with
        | (s, .error sub) => respond s id loc from_ rtag [] [] (some ⟨subCause sub, sub⟩)
        | (s, .ok t) =>
          if isRemote t then
            let s' := fwdAsk s a (pteOwner t.pte.toNat) (p.off / 32) (.op (p.w.map w64))
            if s'.fresh = s.fresh then s else countAccess s' t
          else if p.off % p.align != 0 then reply s (opReply opAlign 0 0 [])
          else if unitBusy s id (pteGran t.pte.toNat) (leafPa t.pte.toNat t.big p.off) then s
          else go s a p

/-- An op packet executed at its unit; one that must wait for another rank holds its 16 bytes. -/
def opAct (id : Nat) (loc : Bool) (from_ rtag : Nat) (q : RReq)
    (f : State → Acc → OpPkt → OpRes) (s : State) (a : Acc) (p : OpPkt) : State :=
  match f s a p with
  | .done s ws => respond (fwdDone s id) id loc from_ rtag [] [wordsFlit ws] none
  | .wait s' => setBody (keepRequests s s') id (.rreq loc from_ rtag (begun q))

/-- The op packet of a number, if its OP is one that `want` names and its turn has come; `f` runs
it. -/
def onOp (id : Nat) (want : Nat → Bool) (s : State)
    (f : Bool → Nat → Nat → RReq → State → Acc → OpPkt → State) : State :=
  match pktOf s id with
  | some k =>
    match k.body with
    | .rreq loc from_ rtag q =>
      if q.kind = tyRamo && reqOldest s k && partTakes s q.part == some true
          && want (reqOp q).op then
        opStart s id loc from_ rtag q (f loc from_ rtag q)
      else s
    | _ => s
  | none => s

/-- OP_AMO (R77), and every packet whose OP is reserved (R75). -/
def execOpAmo (id : Nat) (s : State) : Host.Outcome State Fault Refusal :=
  .next (onOp id (fun o => !(decide (0x10 ≤ o) && decide (o ≤ 0x14))) s
    fun loc from_ rtag q => opAct id loc from_ rtag q opSingle)

/-- OP_CAS2 (R77). -/
def execOpCas2 (id : Nat) (s : State) : Host.Outcome State Fault Refusal :=
  .next (onOp id (· == 0x10) s fun loc from_ rtag q => opAct id loc from_ rtag q (opCas 64))

/-- OP_CAS4 (R77). -/
def execOpCas4 (id : Nat) (s : State) : Host.Outcome State Fault Refusal :=
  .next (onOp id (· == 0x11) s fun loc from_ rtag q => opAct id loc from_ rtag q (opCas 32))

/-- OP_LENQ (R77). -/
def execOpLenq (id : Nat) (s : State) : Host.Outcome State Fault Refusal :=
  .next (onOp id (· == 0x12) s fun loc from_ rtag q => opAct id loc from_ rtag q opLenq)

/-- OP_LDEQ (R77). -/
def execOpLdeq (id : Nat) (s : State) : Host.Outcome State Fault Refusal :=
  .next (onOp id (· == 0x13) s fun loc from_ rtag q => opAct id loc from_ rtag q opLdeq)

/-- OP_CHASE (R77): the next word of the chase; it is atomic per word read. -/
def execOpChase (id : Nat) (s : State) : Host.Outcome State Fault Refusal :=
  .next (onOp id (· == 0x14) s fun loc from_ rtag q s a p =>
    match chaseStep s a p (reqChase q) with
    | (_, some (s, c)) => setBody (fwdDone s id) id (.rreq loc from_ rtag (putChase q c))
    | (.done s ws, none) => respond (fwdDone s id) id loc from_ rtag [] [wordsFlit ws] none
    | (.wait s', none) => keepRequests s s')

end Sys2Proof.Machine
end

