-- ==== Sys2Proof/Machine/PageFwd.lean ====
section
/-! DEFINITION. Accesses to the pages of other ranks: at their owner (R94, R79), and when the owner
or a link has failed (R97). -/

namespace Sys2Proof.Machine

/-! ### At the owner (R94) -/

/-- What a forwarded access comes to. -/
inductive FAct where
  | ok (s : State) (hdr : List Word) (flits : List (BitVec 512))
  | fail (s : State) (f : Failure)
  | wait (s : State)

/-- A number as four words, and a poison mark. -/
def wordsPoison (v : Nat) (bad : Bool) : List Word :=
  (chunks 64 4 v).map w64 ++ [if bad then 1 else 0]

/-- A slice's answer as a forwarded access takes it. -/
def ofSlice : GRes → FAct
  | .ok s v bad => .ok s (wordsPoison v bad) []
  | .fault s sub => .fail s ⟨subCause sub, sub⟩
  | .wait s => .wait s

/-- The masked bytes of 32 written at a slice. -/
def fwdWrite (s : State) (a : Acc) (off : Nat) (data : BitVec 256) (mask : BitVec 32) : FAct :=
  ofSlice (gWrite s { a with write := true } off 32 data.toNat mask.toNat)

/-- A forwarded atomic at its memory-side unit. -/
def fwdAmo (s : State) (a : Acc) (off o size : Nat) (b c : Word) : FAct :=
  if (placeOf s a.asid off).any (fun q => unitBusy s a.client q.1 q.2) then .wait s
  else
  match unitRead s { a with write := o != 0x0E } off size with
  | .wait s => .wait s
  | .fault s sub => .fail s ⟨subCause sub, sub⟩
  | .ok s old bad =>
    if bad then .ok s (wordsPoison old true) []
    else
      match amoNew o size old b.toNat c.toNat with
      | none => .ok s (wordsPoison old false) []
      | some v =>
        match unitWrite s a off size v with
        | .wait s => .wait s
        | .fault s sub => .fail s ⟨subCause sub, sub⟩
        | .ok s _ _ => .ok s (wordsPoison old false) []

/-- A forwarded op packet at its memory-side unit. -/
def fwdOpPkt (s : State) (a : Acc) (ws : List Word) : FAct :=
  let p : OpPkt := ⟨ws.map (·.toNat)⟩
  if p.off % p.align != 0 then .ok s [] [wordsFlit (opReply opAlign 0 0 [])]
  else
    match translate s { a with write := p.writes } p.off with
    | (s, .error sub) => .fail s ⟨subCause sub, sub⟩
    | (s, .ok t) =>
      if !isRemote t && unitBusy s a.client (pteGran t.pte.toNat) (leafPa t.pte.toNat t.big p.off) then
        .wait s
      else
      match opRun s { a with write := p.writes } p with
      | .done s r => .ok s [] [wordsFlit r]
      | .wait s => .wait s

/-- A forwarded access acts at its owner. -/
def fwdAct (s : State) (a : Acc) (off : Nat) : FwdOp → FAct
  | .read => ofSlice (gRead s a off 32)
  | .write d m => fwdWrite s a off d m
  | .amo o size b c at_ => fwdAmo s a (off + at_) o size b c
  | .op ws => fwdOpPkt s a ws

/-- The sectors of a pull read one after the other: value and poison bits. -/
def pullRead (s : State) (a : Acc) : Nat → Nat → GRes × Nat
  | 0, _ => (.ok s 0 false, 0)
  | n + 1, off =>
    match gRead s a off 32 with
    | .ok s v bad =>
      match pullRead s a n (off + 32) with
      | (.ok s w b, m) => (.ok s (v + w * 2 ^ 256) (bad || b), (if bad then 1 else 0) + 2 * m)
      | r => r
    | r => (r, 0)

/-- A pull's 512 bytes at their owner (R79). -/
def pullAct (s : State) (a : Acc) (off : Nat) : FAct :=
  match pullRead s a 16 off with
  | (.ok s v _, m) => .ok s [w64 m] ((chunks 512 8 v).map (BitVec.ofNat 512))
  | (.fault s sub, _) => .fail s ⟨subCause sub, sub⟩
  | (.wait s, _) => .wait s

/-- The end of a forwarded access's action. -/
def fwdEnd (s : State) (id : Nat) (loc : Bool) (from_ rtag : Nat) : FAct → State
  | .ok s hdr flits => respond (fwdDone s id) id loc from_ rtag hdr flits none
  | .fail s f => respond (fwdDone s id) id loc from_ rtag [] [] (some f)
  | .wait s' => keepRequests s s'

/-- Whether a forwarded access is the oldest of its source to its 32 bytes. -/
def fwdOldest (s : State) (id from_ off : Nat) : Bool :=
  match s.net.find? (fun k => match k.body with
      | .fwdHere _ _ o _ _ _ f _ => o == off && f == from_
      | _ => false) with
  | some k => k.id == id
  | none => false

/-- FORWARDED_PAGE_ACCESS (R79, R94, R343): an access or a pull of another rank acts at the owner of
the page. -/
def execForwardedPageAccess (id : Nat) (s : State) : Host.Outcome State Fault Refusal :=
  match pktOf s id with
  | some k =>
    match k.body with
    | .fwdHere loc op off p aspc priv from_ rtag =>
      if !fwdOldest s id from_ off then .next s
      else
        match partTakes s p with
        | none => .next s
        | some false => .next (respond s id loc from_ rtag [] [] (some lostFailure))
        | some true =>
          .next (fwdEnd s id loc from_ rtag (fwdAct s (reqAcc id p aspc priv false) off op))
    | .pullHere loc off p aspc priv from_ rtag =>
      match partTakes s p with
      | none => .next s
      | some false => .next (respond s id loc from_ rtag [] [] (some lostFailure))
      | some true =>
        .next (fwdEnd s id loc from_ rtag (pullAct s (reqAcc id p aspc priv false) off))
    | _ => .next s
  | none => .next s

/-! ### Failures (R97) -/

/-- The leaf of a remote page marked lost, if it still is remote. -/
def loseRemote (s : State) (asid : BitVec 16) (off : Nat) : State :=
  match walk s asid off with
  | .leaf e at_ _ =>
    if pteState e = 1 then markLost s asid (off / 65536) at_ else s
  | .bad _ => s

/-- REMOTE_PAGE_FAIL (R97): a forwarded access or a pull whose owner, or a link on the way, has
failed. -/
def execRemotePageFail (id : Nat) (s : State) : Host.Outcome State Fault Refusal :=
  match pktOf s id with
  | some k =>
    match k.body with
    | .fwdFail rtag =>
      let s := dropPkt s id
      match s.outst.find? (fun o => o.rtag == rtag) with
      | none => .next s
      | some o =>
        let s := outstDone s rtag
        if o.kind = 6 then .next (pullFail s o.fail.toNat swLost)
        else
          match s.fwds.find? (fun q => q.rtag == rtag) with
          | none => .next s
          | some q =>
            let s := { s with fwds := s.fwds.map fun x =>
              if x.rtag = rtag then { x with answer := some .lost } else x }
            .next (loseRemote s q.asid (q.unit * 32))
    | _ => .next s
  | none => .next s

end Sys2Proof.Machine
end

