-- ==== Sys2Proof/Machine/Launch.lean ====
section
/-! DEFINITION. Launches (R281 to R293): wake writes, refill ticks and the dispatcher, the call
sheets, playbills and their placement, release and end. -/

namespace Sys2Proof.Machine

/-! ### Function records (R281) -/

/-- A doubleword of a function's record. -/
def fn64 (s : State) (f i : Nat) : Nat := table64 s (fnOff f + 8 * i)

/-- A doubleword of a function's record written. -/
def putFn64 (s : State) (f i v : Nat) : State := putTable64 s (fnOff f + 8 * i) v

/-- V. -/
def fnValid (s : State) (f : Nat) : Bool := bitOf (fn64 s f 0) 63
/-- PART. -/
def fnPart (s : State) (f : Nat) : Nat := field (fn64 s f 0) 51 48
/-- MAXPRIV. -/
def fnMaxPriv (s : State) (f : Nat) : Nat := field (fn64 s f 0) 45 44
/-- WTOKENS. -/
def fnTokens (s : State) (f : Nat) : Nat := field (fn64 s f 0) 23 16
/-- WRATE. -/
def fnRate (s : State) (f : Nat) : Nat := field (fn64 s f 0) 15 8
/-- WBURST. -/
def fnBurst (s : State) (f : Nat) : Nat := field (fn64 s f 0) 7 0
/-- The ASID under which a function's queues and playbills are read. -/
def fnAsid (s : State) (f : Nat) : BitVec 16 :=
  BitVec.ofNat 16 (fnPart s f * 4096 + fn64 s f 2 % 4096)
/-- QERR of a queue. -/
def fnQerr (s : State) (f q : Nat) : Bool := bitOf (fn64 s f 3) (4 + q)
/-- WAGAIN of a queue. -/
def fnWagain (s : State) (f q : Nat) : Bool := bitOf (fn64 s f 3) q

/-- WTOKENS written. -/
def putTokensFn (s : State) (f v : Nat) : State := putFn64 s f 0 (withField (fn64 s f 0) 23 16 v)

/-- A bit of dword 3 written. -/
def putFnBit (s : State) (f b : Nat) (v : Bool) : State :=
  putFn64 s f 3 (withField (fn64 s f 3) b b (if v then 1 else 0))

/-- Whether a partition runs. -/
def partRuns (s : State) (p : Nat) : Bool := (part s p).run == .running

/-- A queue stopped on a fault: QERR and its event (R285, R311). -/
def queueErr (s : State) (f q : Nat) : State :=
  raiseHyp (putFnBit s f (4 + q) true) 0x12 (f % 128 * 256 + q)

/-! ### Wakes (R282, R283) -/

/-- Queue q of a function waits to be processed. -/
def wakeQueue (s : State) (f q : Nat) : State := { s with wakeQ := s.wakeQ ++ [(4 * f + q, 0)] }

/-- WAKE_WRITE (R283, R320, R350): a function's write to its doorbell. -/
def execWakeWrite (f : Nat) (data : BitVec 64) (s : State) : Host.Outcome State Fault Refusal :=
  let q := data.toNat % 4
  if s.mgmt.state != 2 || !fnValid s f || fnQerr s f q then .next s
  else if partRuns s (fnPart s f) && (fnBurst s f == 0 || fnTokens s f != 0) then
    let s := if fnBurst s f = 0 then s else putTokensFn s f (fnTokens s f - 1)
    .next (wakeQueue s f q)
  else .next (putFnBit s f q true)

/-- The WAGAIN flags of a function handled at a refill tick (R282). -/
def tickQueue (f : Nat) (s : State) (q : Nat) : State :=
  if !fnWagain s f q then s
  else if fnBurst s f = 0 then wakeQueue (putFnBit s f q false) f q
  else if fnTokens s f = 0 then s
  else wakeQueue (putFnBit (putTokensFn s f (fnTokens s f - 1)) f q false) f q

/-- A function at a refill tick (R282). -/
def tickFn (s : State) (f : Nat) : State :=
  if !fnValid s f then s
  else
    let s := putTokensFn s f (min (fnBurst s f) (fnTokens s f + fnRate s f))
    if partRuns s (fnPart s f) then (List.range 4).foldl (tickQueue f) s else s

/-- REFILL_TICK (R282). -/
def execRefillTick (s : State) : Host.Outcome State Fault Refusal :=
  let s := { s with ticks := s.timeNs / 65536 }
  let s := (List.range 128).foldl tickFn s
  .next ((List.range 4096).foldl gateRefill s)

/-! ### Playbills (R288, R289) -/

/-- A level of a playbill. -/
structure Level where
  extent : Nat
  domain : Nat
  mscope : Nat
  tpt : Nat
  wide : Bool
  vwsz : Nat
  slots : Nat
  spad : Nat
  zeroed : Bool
  deriving DecidableEq, Repr

/-- A level in 16 bytes read as a number. -/
def parseLevel (n : Nat) : Level :=
  let a := n % 2 ^ 64
  let b := n / 2 ^ 64
  { extent := field a 63 48, domain := field a 47 45, mscope := field a 44 42,
    tpt := field a 41 32, wide := bitOf a 31, vwsz := field a 30 26, slots := field a 25 21,
    spad := b % 2 ^ 20, zeroed := a % 2 ^ 21 = 0 && b / 2 ^ 20 = 0 }

/-- The scope code of a domain (R16, R289). -/
def domScope (d : Nat) : Nat := if d ≤ 2 then 0 else d - 2

/-- Whether a level's resource fields are all zero. -/
def Level.bare (l : Level) : Bool :=
  l.tpt = 0 && !l.wide && l.vwsz = 0 && l.slots = 0 && l.spad = 0

/-- A playbill. -/
structure Playbill where
  d : Desc
  spstride : Int
  nlev : Nat
  levels : List Level
  deriving DecidableEq, Repr

/-- The index of the placement level (R289). -/
def placementLevel (ls : List Level) : Option Nat :=
  ((List.range ls.length).filter (fun i =>
    (ls[i]?.map (fun l => decide (1 ≤ l.domain))).getD false)).getLast?

/-- Whether the levels are well-formed (R289). -/
def levelsOk (ls : List Level) : Bool :=
  match placementLevel ls with
  | none => false
  | some pl =>
    let own := fun (l : Level) =>
      l.extent != 0 && decide (l.domain ≤ 5) && l.zeroed && decide (domScope l.domain ≤ l.mscope)
        && decide (l.mscope ≤ 5) && (l.domain != 5 || l.extent == 1)
    let ordered := (List.zipWith (fun a b : Level => decide (b.domain ≤ a.domain)) ls (ls.drop 1)).all id
    let bare := (ls.zipIdx.filter (fun e => e.2 != pl)).all (fun e => e.1.bare)
    let inner := ls.drop (pl + 1)
    match ls[pl]? with
    | none => false
    | some p =>
      ls.all own && ordered && bare && decide (1 ≤ p.tpt) && decide (p.tpt ≤ 512)
        && decide (p.vwsz ≤ 24) && decide (p.slots ≤ 16) && p.spad % 64 == 0
        && decide (p.spad ≤ spadSize)
        && (inner.isEmpty || inner.foldl (fun n l => n * l.extent) 1 == p.tpt)

/-- A playbill's header in 64 bytes read as a number; the flag says that it is well-formed (R288,
R289). -/
def parseHeader (n : Nat) : Playbill × Bool :=
  let d := fun i => n / 2 ^ (64 * i) % 2 ^ 64
  let a := d 4
  let nlev := field a 35 32
  let ok := d 3 % 2 ^ 32 = 0 && a / 2 ^ 51 = 0 && field a 39 36 = 0 && d 5 / 4096 = 0 && d 6 = 0
    && d 7 = 0 && field a 43 42 != 3 && d 0 / 2 ^ 52 = 0 && d 0 % 4 = 0 && decide (1 ≤ nlev)
    && decide (nlev ≤ 8)
  ({ d := { pc := w64 (d 0), arg := 0, sp := w64 (d 1), tp := w64 (d 2), prio := field a 50 48,
            troupe := field a 47 44, priv := field a 43 42, und := bitOf a 41,
            mobile := bitOf a 40, det := true, vwsz := 0, seed := a % 2 ^ 32,
            aspace := d 5 % 4096 },
     spstride := sgn 32 (d 3 / 2 ^ 32), nlev := nlev, levels := [] }, ok)

/-! ### Placement (R291) -/

/-- What a tile gives a launch: its scratchpad offset and its slots. -/
structure Fit where
  off : Nat
  mask : Nat
  deriving DecidableEq, Repr

/-- Whether `n` more windows of `sz` registers fit. -/
def windowsFit (sz : Nat) : Nat → List (Nat × Nat) → Bool
  | 0, _ => true
  | n + 1, used =>
    if sz = 0 then true
    else
      match pickBase used sz with
      | none => false
      | some b => windowsFit sz n ((b, sz) :: used)

/-- The lowest 64-B-aligned offset at which `n` bytes are free of reservations. -/
def pickSpad (used : List (Nat × Nat)) (n : Nat) : Option Nat :=
  if n = 0 then some 0
  else
    let cands := (0 :: used.map (fun r => (r.1 + r.2 + 63) / 64 * 64)).foldr (insertBy id) []
    cands.find? (fun o => decide (o + n ≤ spadSize)
      && used.all (fun r => decide (o + n ≤ r.1) || decide (r.1 + r.2 ≤ o)))

/-- The reservations of live launches on a tile. -/
def reservations (s : State) (t : Nat) : List (Nat × Nat × Nat) :=
  (s.launches.map (fun l =>
    (l.reserve.filter (fun r => r.1 == t)).map (·.2))).flatten

/-- Whether a tile is eligible for the placement level, and what it gives (R291). -/
def fitTile (s : State) (l : Level) (und : Bool) (t : Nat) : Option Fit :=
  let tl := tile s t
  let n := if und then 2 * l.tpt else l.tpt
  let rs := reservations s t
  let used := rs.foldl (fun m r => m ||| r.2.2) 0
  let free := (List.range 16).filter (fun k => !bitOf used k)
  if harvested s t || tl.wide != l.wide || (freeSlots s t n).length != n
      || !windowsFit l.vwsz n (windowsOf tl) || free.length < l.slots then none
  else
    (pickSpad (rs.map (fun r => (r.1, r.2.1))) l.spad).map fun o =>
      ⟨o, (free.take l.slots).foldl (fun m k => m + 2 ^ k) 0⟩

/-- A unit of a domain as the logical tiles it holds. -/
abbrev LUnit := List Nat

/-- The logical tiles of a partition with their logical cluster and their place in the map. -/
def ltiles (s : State) (p : Nat) : List (Nat × Nat × Nat) :=
  (logicalTiles s p).zipIdx.map (fun e => (e.2, e.1.1, e.1.2))

/-- The units of a domain in logical order (R291). -/
def lunits (s : State) (p dom : Nat) : List LUnit :=
  let ts := ltiles s p
  let whole := fun (c : Nat) (ps : List Nat) =>
    (clusterTiles c).all (fun t => !ps.contains (tilePos t) || !harvested s t)
  if dom = 1 then ts.map (fun e => [e.1])
  else if dom = 2 then
    (((part s p).cmap.zipIdx).map fun c => (List.range 2).filterMap fun row =>
      if whole c.1 (List.range' (4 * row) 4) then
        some ((ts.filter (fun e => e.2.1 == c.2 && tilePos e.2.2 / 4 == row)).map (·.1))
      else none).flatten
  else if dom = 3 then
    ((part s p).cmap.zipIdx).filterMap fun c =>
      if whole c.1 (List.range 8) then some ((ts.filter (fun e => e.2.1 == c.2)).map (·.1)) else none
  else if dom = 4 then
    let dies := ((part s p).cmap.map (· / 32)).eraseDups
    dies.map (fun d => (ts.filter (fun e => e.2.2 / 256 == d)).map (·.1))
  else [ts.map (·.1)]

/-- The digits of an index over extents, outermost first. -/
def digits : List Nat → Nat → List Nat
  | [], _ => []
  | _ :: es, n =>
    let w := es.foldl (· * ·) 1
    n / w :: digits es (n % w)

/-- A placed unit: the indices of the levels, and its tiles with what each gives. -/
abbrev Placed := List Nat × List (Nat × Fit)

/-- The first `n` of a list that `f` places, each with its index. -/
def takePlaced (f : LUnit → Option (List Placed)) (exts : List Nat) (n : Nat) :
    Nat → List LUnit → Option (List Placed)
  | k, [] => if k = n then some [] else none
  | k, u :: us =>
    if k = n then some []
    else
      match f u with
      | none => takePlaced f exts n k us
      | some ps =>
        (takePlaced f exts n (k + 1) us).map fun rest =>
          ps.map (fun p => (digits exts k ++ p.1, p.2)) ++ rest

/-- The levels placed inside a unit (R291): runs of consecutive levels of one domain. -/
def placeRuns (s : State) (p : Nat) (fit : Nat → Option Fit) :
    List (Nat × List Nat) → LUnit → Option (List Placed)
  | [], u =>
    if u.isEmpty || u.any (fun lt => (fit lt).isNone) then none
    else some [([], u.filterMap (fun lt => (fit lt).map (fun f => (lt, f))))]
  | (dom, exts) :: rest, u =>
    takePlaced (placeRuns s p fit rest) exts (exts.foldl (· * ·) 1) 0
      ((lunits s p dom).filter (fun v => v.all u.contains))

/-- Consecutive levels of one domain joined. -/
def levelRuns : List Level → List (Nat × List Nat)
  | [] => []
  | l :: ls =>
    match levelRuns ls with
    | (d, es) :: rest =>
      if d = l.domain then (d, l.extent :: es) :: rest else (l.domain, [l.extent]) :: (d, es) :: rest
    | [] => [(l.domain, [l.extent])]

/-- The numbers of a thread's units, level by level: each counts the indices down to its level. -/
def unitNumbers : Nat → List (Nat × Nat) → List Nat
  | _, [] => []
  | u, (e, d) :: rest => (u * e + d) :: unitNumbers (u * e + d) rest

/-! ### Creation of a launch (R292) -/

/-- One thread of a launch. -/
structure LThread where
  lt : Nat
  fit : Fit
  k : Nat
  w : Nat
  units : List Nat
  deriving DecidableEq, Repr

/-- The threads of a placement, in flat order. -/
def launchThreads (pb : Playbill) (pl : Nat) (p : Level) (ps : List Placed) : List LThread :=
  let outer := (pb.levels.take (pl + 1)).map (·.extent)
  let inner := (pb.levels.drop (pl + 1)).map (·.extent)
  let one := fun (u : Placed) (t : (Nat × Fit) × Nat) (w : Nat) =>
    let top := unitNumbers 0 (outer.zip u.1)
    let base := (top.getLast?.getD 0) * 1024 + t.2
    ({ lt := t.1.1, fit := t.1.2, k := 0, w := w,
       units := top ++ unitNumbers base (inner.zip (digits inner w)) } : LThread)
  let all := (ps.map fun u => (u.2.zipIdx.map fun t =>
    (List.range p.tpt).map (one u t)).flatten).flatten
  all.zipIdx.map (fun e => { e.1 with k := e.2 })

/-- The values of a thread of a launch (R292). -/
def launchValues (pb : Playbill) (p : Level) (l : Launch) (arg : Word) (t : LThread) : NewThread :=
  { d := { pb.d with
            sp := BitVec.ofInt 64 ((pb.d.sp.toNat : Int) + pb.spstride * t.k), vwsz := p.vwsz,
            seed := (pb.d.seed + t.k) % 2 ^ 32 },
    x4 := arg,
    regs := [(5, ⟨w64 t.k, 0⟩), (6, ⟨w64 t.w, 0⟩),
             (7, ⟨if p.spad = 0 then 0 else w64 (2 * 2 ^ 52 + t.fit.off), 0⟩),
             (8, ⟨w64 t.fit.mask, 0⟩)],
    asid := BitVec.ofNat 16 (l.part * 4096 + pb.d.aspace), launch := l.id, units := t.units,
    placed := true }

/-- The threads of a launch created one after the other; none when one cannot be. -/
def createAll (pb : Playbill) (p : Level) (l : Launch) (arg : Word) :
    List LThread → State → Option (List Tid × State)
  | [], s => some ([], s)
  | t :: ts, s =>
    match createThread s ((ltilePhys s l.part t.lt).getD 1024) false
        (launchValues pb p l arg t) with
    | none => none
    | some (j, s) => (createAll pb p l arg ts s).map (fun r => (j :: r.1, r.2))

/-- A launch made by a request: its number, or none when it cannot be placed (R291, R292). -/
def makeLaunch (s : State) (q : LaunchReq) (pb : Playbill) : Option (Nat × State) :=
  (placementLevel pb.levels).bind fun pl =>
    (pb.levels[pl]?).bind fun p =>
      let fit := fun lt => (ltilePhys s q.part lt).bind (fitTile s p pb.d.und)
      let all := (ltiles s q.part).map (·.1)
      (placeRuns s q.part fit (levelRuns (pb.levels.take (pl + 1))) all).bind fun ps =>
        let ts := launchThreads pb pl p ps
        let (n, s) := freshId s
        let tiles := ((ps.map (·.2)).flatten)
        let l : Launch :=
          { id := n, part := q.part, aspace := pb.d.aspace, mscopes := pb.levels.map (·.mscope),
            src := q.src, cpl := q.cpl, threads := [], released := false,
            reserve := tiles.filterMap fun e =>
              (ltilePhys s q.part e.1).map (fun t => (t, e.2.off, p.spad, e.2.mask)) }
        (createAll pb p l q.arg ts s).map fun r =>
          (n, { r.2 with launches := r.2.launches ++ [{ l with threads := r.1 }] })

/-! ### The launch unit (R290) -/

/-- STARTED. -/
def lsStarted : Nat := 1
/-- DONE. -/
def lsDone : Nat := 2
/-- NOSPACE. -/
def lsNoSpace : Nat := 0x10
/-- MALFORMED. -/
def lsMalformed : Nat := 0x11
/-- FAULT. -/
def lsFault : Nat := 0x12
/-- PRIV. -/
def lsPriv : Nat := 0x13

/-- The client number of the launch unit. -/
def launchClient : Nat := 2 ^ 68

/-- The client number of a launch's end. -/
def endClient (l : Launch) : Nat := launchClient + 1 + l.id

/-- The launch unit's accesses: no user check (R86). -/
def luAcc (asid : BitVec 16) (client : Nat) : Acc :=
  { asid := asid, priv := 3, write := false, fetch := false, client := client }

/-- Bytes read by the launch unit: none when they cannot be read, or a wait. -/
inductive LRead where
  | ok (s : State) (v : Nat)
  | bad (s : State)
  | wait (s : State)

/-- A read by the launch unit or the dispatcher at a fat pointer's offset. -/
def luRead (s : State) (asid : BitVec 16) (off n : Nat) : LRead :=
  if 2 ^ 52 < off + n then .bad s
  else
    match gRead s (luAcc asid launchClient) off n with
    | .ok s v poison => if poison then .bad s else .ok s v
    | .fault s _ => .bad s
    | .wait s => .wait s

/-- The outcome of a launch: its status, and its number when it started. -/
inductive LRes where
  | done (s : State) (st : Nat) (id : Nat)
  | wait (s : State)

/-- A playbill that has been read, judged and placed. -/
def launchJudge (s : State) (q : LaunchReq) (pb : Playbill) : LRes :=
  if !levelsOk pb.levels then .done s lsMalformed 0
  else if q.maxPriv < pb.d.priv then .done s lsPriv 0
  else
    match makeLaunch s q pb with
    | none => .done s lsNoSpace 0
    | some (n, s) => .done s lsStarted n

/-- A launch by the checks of R290 in order. -/
def launchTry (s : State) (q : LaunchReq) : LRes :=
  let asid := BitVec.ofNat 16 (q.part * 4096 + q.aspace)
  if pSpace q.playbill != 0 || pOff q.playbill % 64 != 0 then .done s lsMalformed 0
  else
    match luRead s asid (pOff q.playbill) 64 with
    | .wait s => .wait s
    | .bad s => .done s lsFault 0
    | .ok s n =>
      let (pb, ok) := parseHeader n
      match (if pb.nlev = 0 then .ok s 0
          else luRead s asid (pOff q.playbill + 64) (16 * pb.nlev) : LRead) with
      | .wait s => .wait s
      | .bad s => .done s lsFault 0
      | .ok s m =>
        if !ok then .done s lsMalformed 0
        else launchJudge s q { pb with levels := (chunks 128 pb.nlev m).map parseLevel }

/-! ### Call sheets (R286, R287) -/

/-- A doubleword of a call-sheet entry. -/
def sheet64 (s : State) (p e i : Nat) : Nat := table64 s (sheetOff p e + 8 * i)

/-- MISSED one higher (R287). -/
def sheetMissed (s : State) (p e : Nat) : State :=
  let d := sheet64 s p e 3
  putTable64 s (sheetOff p e + 24) (withField d 47 32 (min 65535 (field d 47 32 + 1)))

/-- PEND written. -/
def sheetPend (s : State) (p e : Nat) (v : Bool) : State :=
  putTable64 s (sheetOff p e + 24) (withField (sheet64 s p e 3) 60 60 (if v then 1 else 0))

/-- An entry's launch handed to the launch unit. -/
def sheetSubmit (s : State) (p e : Nat) : State :=
  let d := sheet64 s p e 3
  let q : LaunchReq :=
    { part := p, aspace := field d 59 48, playbill := w64 (sheet64 s p e 2), arg := w64 (d % 2 ^ 32),
      cpl := 0, maxPriv := (part s p).maxPriv, src := .sheet p e, back := (0, 0, 0) }
  { s with launchQ := s.launchQ ++ [q] }

/-- The previous launch of an entry, while it has a live thread. -/
def sheetLive (s : State) (p e : Nat) : Option Launch :=
  (smFind s.sheetLaunch (64 * p + e)).bind fun n =>
    s.launches.find? (fun l => l.id == n && !l.threads.isEmpty)

/-- The first start of an entry at or after time `t` (R287). -/
def nextStart (start period t : Nat) : Option Nat :=
  if t ≤ start then some start
  else if period = 0 then none
  else some (start + (t - start + period - 1) / period * period)

/-- The time from which an entry's starts have not been handled (R287): the present one, or what follows
its last start. -/
def sheetFrom (s : State) (p e : Nat) : Nat :=
  max s.sheetTime (((smFind s.sheetNext (64 * p + e)).map (· + 1)).getD 0)

/-- The next start of an armed entry that has not been handled, once its time has come (R286, R287). -/
def sheetDue (s : State) (p e : Nat) : Option Nat :=
  let d := sheet64 s p e 3
  if !bitOf d 63 || field d 62 61 = 3 then none
  else
    (nextStart (sheet64 s p e 0) (sheet64 s p e 1) (sheetFrom s p e)).filter
      (fun t => decide (t ≤ s.timeNs))

/-- CALL_SHEET_START (R287, R320): an entry's start. -/
def execCallSheetStart (p e : Nat) (s : State) : Host.Outcome State Fault Refusal :=
  match sheetDue s p e with
  | none => .next s
  | some t =>
    let s := { s with sheetNext := smSet s.sheetNext (64 * p + e) t }
    let rule := field (sheet64 s p e 3) 62 61
    if !partRuns s p then .next (sheetMissed s p e)
    else
      match sheetLive s p e with
      | none => .next (sheetSubmit s p e)
      | some l =>
        if rule = 0 then .next (sheetMissed s p e)
        else if rule = 1 then
          if bitOf (sheet64 s p e 3) 60 then .next (sheetMissed s p e)
          else .next (sheetPend s p e true)
        else
          .next (sheetSubmit (l.threads.foldl (fun s i => endThread s i killedValue) s) p e)

/-! ### The dispatcher (R284, R285) -/

/-- Whether a function's memory writes have all been published (R347). -/
def vfQuiet (s : State) (f : Nat) : Bool :=
  s.net.all (fun k => match k.body with
    | .vf g _ write _ _ _ => g != f || !write
    | _ => true)

/-- Whether an entry of a function's queue is with the launch unit (R285, R290). -/
def fnLaunching (s : State) (f : Nat) : Bool :=
  s.launchQ.any (fun q => match q.src with
    | .queue g _ _ _ => g == f
    | _ => false)

/-- The next wake that can be processed: the oldest of its function, whose partition runs, whose
writes have been published, and no entry of which is with the launch unit. -/
def wakeReady (s : State) : Option (Nat × Nat) :=
  s.wakeQ.find? (fun w => partRuns s (fnPart s (w.1 / 4)) && vfQuiet s (w.1 / 4)
    && !fnLaunching s (w.1 / 4)
    && (s.wakeQ.find? (fun x => x.1 / 4 == w.1 / 4)) == some w)

/-- A wake done with. -/
def wakeDone (s : State) (w : Nat × Nat) : State :=
  fwdDone { s with wakeQ := s.wakeQ.erase w } launchClient

/-- A write by the launch unit: whether it was made, or a wait. -/
def luWrite (s : State) (asid : BitVec 16) (client off n v : Nat) : LRead :=
  if 2 ^ 52 < off + n then .bad s
  else
    match gWrite s (luAcc asid client) off n v (fullMask n) with
    | .ok s _ _ => .ok s 0
    | .fault s _ => .bad s
    | .wait s => .wait s

/-- A queue stopped while a wake is processed. -/
def wakeStop (s : State) (w : Nat × Nat) : State := queueErr (wakeDone s w) (w.1 / 4) (w.1 % 4)

/-- A launch request with what has become of it. -/
def setEnded (s : State) (q : LaunchReq) (x : Nat × Option Bool) : LaunchReq × State :=
  let q' := { q with ended := some x }
  (q', { s with launchQ := s.launchQ.map (fun r => if r == q then q' else r) })

/-- HEAD advanced past an entry whose STATUS write has been made, or has failed and stops the queue
(R285). -/
def entryHead (s : State) (q : LaunchReq) (w : Nat × Nat) (asid : BitVec 16) (stop : Bool) : State :=
  let (hdr, head, _) := q.back
  match luWrite s asid launchClient (hdr + 16) 8 (head + 1) with
  | .wait s' => keepRequests s s'
  | .bad s => wakeStop { s with launchQ := s.launchQ.erase q } w
  | .ok s _ =>
    let s := { s with launchQ := s.launchQ.erase q }
    if stop then wakeStop s w else fwdDone s launchClient

/-- STATUS of an entry whose launch has been made or refused, then HEAD; a write that must wait leaves
what has been done standing (R285). -/
def entryStatus (s : State) (q : LaunchReq) (w : Nat × Nat) (asid : BitVec 16) (entry st : Nat) :
    State :=
  let next := fun (s : State) (stop : Bool) =>
    let (q, s) := setEnded s q (st, some stop)
    entryHead s q w asid stop
  match luWrite s asid launchClient (entry + 16) 8 st with
  | .wait s' => keepRequests s s'
  | .bad s => next s true
  | .ok s _ => next s false

/-- The dispatcher's next entry of a queue submitted to the launch unit, or the end of the queue
(R285). -/
def dispatchStep (s : State) (w : Nat × Nat) : State :=
  let f := w.1 / 4
  let q := w.1 % 4
  let asid := fnAsid s f
  let base := w64 (fn64 s f 1)
  let hdr := pOff base + 64 * q
  if fnQerr s f q then wakeDone s w
  else if pSpace base != 0 then wakeStop s w
  else
    match luRead s asid hdr 64 with
    | .wait s' => keepRequests s s'
    | .bad s' => wakeStop s' w
    | .ok s' n =>
      let d := fun i => n / 2 ^ (64 * i) % 2 ^ 64
      let tail := if w.2 = 0 then d 3 else w.2 - 1
      let head := d 2
      if tail ≤ head then wakeDone s' w
      else
        let entry := pOff (w64 (d 0)) + 32 * (head % 2 ^ (d 1 % 32))
        if pSpace (w64 (d 0)) != 0 then wakeStop s' w
        else
          match luRead s' asid entry 32 with
          | .wait s' => keepRequests s s'
          | .bad s' => wakeStop s' w
          | .ok s' m =>
            let e := fun i => m / 2 ^ (64 * i) % 2 ^ 64
            let r : LaunchReq :=
              { part := fnPart s f, aspace := asid.toNat % 4096, playbill := w64 (e 0),
                arg := w64 (e 1), cpl := w64 (e 3), maxPriv := fnMaxPriv s f,
                src := .queue f q (w64 entry) asid, back := (hdr, head, tail) }
            fwdDone { s' with
              launchQ := s'.launchQ ++ [r],
              wakeQ := s'.wakeQ.map (fun x => if x == w then (w.1, tail + 1) else x) } launchClient

/-! ### The events -/

/-- The oldest launch that has arrived at the launch unit and whose partition runs (R290). -/
def launchReady (s : State) : Option LaunchReq := s.launchQ.find? (fun q => partRuns s q.part)

/-- A call-sheet launch handled (R287, R290). -/
def sheetLaunch (s : State) (q : LaunchReq) : State :=
  match launchTry s q with
  | .wait s' => keepRequests s s'
  | .done s st n =>
    let s := fwdDone { s with launchQ := s.launchQ.erase q } launchClient
    match q.src with
    | .sheet p e =>
      if st = lsStarted then { s with sheetLaunch := smSet s.sheetLaunch (64 * p + e) n }
      else sheetMissed s p e
    | _ => s

/-- A launch of a queue entry handled: what it leaves in the entry and the queue header (R285, R290). -/
def queueLaunch (s : State) (q : LaunchReq) (f k : Nat) (entry : Word) (asid : BitVec 16) : State :=
  let w := (4 * f + k, q.back.2.2 + 1)
  match q.ended with
  | some (_, some stop) => entryHead s q w asid stop
  | some (st, none) => entryStatus s q w asid entry.toNat st
  | none =>
    match launchTry s q with
    | .wait s' => keepRequests s s'
    | .done s st _ =>
      let (q, s) := setEnded s q (st, none)
      entryStatus s q w asid entry.toNat st

/-- The launch unit handles a launch (R290). -/
def unitLaunch (s : State) (q : LaunchReq) : State :=
  match q.src with
  | .queue f k entry asid => queueLaunch s q f k entry asid
  | _ => sheetLaunch s q

/-- LAUNCH (R285, R290): the launch unit handles the oldest launch, or the dispatcher submits the next
entry of a queue to it. -/
def execLaunch (s : State) : Host.Outcome State Fault Refusal :=
  match launchReady s, wakeReady s with
  | none, none => .next s
  | some q, none => .next (unitLaunch s q)
  | none, some w => .next (dispatchStep s w)
  | some q, some w =>
    let (c, s) := draw s
    .next (if c % 2 = 0 then unitLaunch s q else dispatchStep s w)

/-- A placed thread released. -/
def releaseThread (s : State) (i : Tid) : State :=
  withShadow s i fun s j => updThr s j fun th =>
    if th.wait? == some .placed then wake s.cycle th else th

/-- LAUNCH_RELEASE (R293): every thread of a launch enters ready. -/
def execLaunchRelease (id : Nat) (s : State) : Host.Outcome State Fault Refusal :=
  match s.launches.find? (fun l => l.id == id) with
  | none => .next s
  | some l =>
    if l.released then .next s
    else
      let s := l.threads.foldl releaseThread s
      .next { s with launches := s.launches.map (fun x =>
        if x.id = id then { x with released := true } else x) }

/-- Tiles whose publication at a launch's end has had to wait, published (R240). -/
def flushTiles (s : State) : List Nat → State
  | [] => s
  | t :: ts =>
    let (s, done) := publishTile s t
    let s := if done then clearView (updTile s t fun tl => { tl with flushDue := false }) t else s
    flushTiles s ts

/-- The tiles whose publication is due. -/
def dueTiles (s : State) : List Nat := (s.tiles.filter (fun e => e.2.flushDue)).map (·.1)

/-- 1 added to the word at CPL with one global AMOADD, forwarded whole to a remote page (R94, R293). -/
def cplAdd (s : State) (asid : BitVec 16) (client : Nat) (p : Word) : LRead :=
  if p = 0 then .ok s 0
  else if pSpace p != 0 || pOff p % 8 != 0 then .bad s
  else
    let off := pOff p
    let a := { luAcc asid client with write := true }
    let op := FwdOp.amo 0 8 1 0 (off % 32)
    match fwdHad s a (off / 32) op with
    | some (.value v) => if 2 ^ 256 ≤ v then .bad s else .ok s 0
    | some _ => .bad s
    | none =>
      if s.heldPages.contains (pageKey asid off) then .wait s
      else
        match translate s a off with
        | (s, .error _) => .bad s
        | (s, .ok t) =>
          let pa := leafPa t.pte.toNat t.big off
          if isRemote t then .wait (fwdAsk s a (pteOwner t.pte.toNat) (off / 32) op)
          else if unitBusy s client (pteGran t.pte.toNat) pa then .wait s
          else
            match memAmo (expelSector (setDirty s t) asid off) asid (pteGran t.pte.toNat) pa 0 8 1 0 with
            | (_, true, s) => .bad s
            | (_, false, s) => .ok s 0

/-- STATUS DONE of a queue's launch whose CPL has been counted, or has failed (R293). -/
def endStatus (s : State) (l : Launch) (f q : Nat) (entry : Word) (asid : BitVec 16) (bad : Bool) :
    State :=
  let fin := fun (s : State) (bad : Bool) =>
    let s := fwdDone { s with launches := s.launches.filter (fun x => x.id != l.id) } (endClient l)
    if bad then queueErr s f q else s
  match luWrite s asid (endClient l) (entry.toNat + 16) 8 lsDone with
  | .wait s' => keepRequests s s'
  | .bad s => fin s true
  | .ok s _ => fin s bad

/-- The end of a queue's launch, once the STATUS of its start has been written: CPL, then STATUS DONE
(R293). -/
def queueLaunchEnd (s : State) (l : Launch) (f q : Nat) (entry : Word) (asid : BitVec 16) : State :=
  let next := fun (s : State) (bad : Bool) =>
    endStatus { s with launches := s.launches.map fun x =>
      if x.id = l.id then { x with counted := some bad } else x } l f q entry asid bad
  if s.launchQ.any (fun r => r.src == l.src && r.ended.isSome) then s
  else
    match l.counted with
    | some bad => endStatus s l f q entry asid bad
    | none =>
      match cplAdd s asid (endClient l) l.cpl with
      | .wait s' => keepRequests s s'
      | .bad s => next s true
      | .ok s _ => next s false

/-- LAUNCH_END (R240, R287, R293): a launch without a live thread, after its last tile has
published. -/
def execLaunchEnd (id : Nat) (s : State) : Host.Outcome State Fault Refusal :=
  match s.launches.find? (fun l => l.id == id) with
  | none => .next s
  | some l =>
    if !l.threads.isEmpty then .next s
    else
      let s := flushTiles s (dueTiles s)
      if !(dueTiles s).isEmpty then .next s
      else
        let gone := { s with launches := s.launches.filter (fun x => x.id != id) }
        match l.src with
        | .queue f q entry asid => .next (queueLaunchEnd s l f q entry asid)
        | .sheet p e =>
          .next (if bitOf (sheet64 s p e 3) 60 then sheetSubmit (sheetPend gone p e false) p e
            else gone)
        | .other => .next gone

end Sys2Proof.Machine
end

