-- ==== Sys2Proof/Machine/Renum.lean ====
section
/-! DEFINITION. A context that changes its tile (R299, R330 to R332): every number of a tile, of a
cluster's shared memory and every thread identifier that stands in the state replaced. -/

namespace Sys2Proof.Machine

/-- How places are renumbered: tiles, and the places of R128 (a tile, or 1,024 + cluster). -/
structure Renum where
  tile : Nat → Nat
  place : Nat → Nat

/-- A thread's identifier. -/
def Renum.tid (r : Renum) (i : Tid) : Tid := ⟨r.tile i.tile, i.slot⟩

/-- The renumbering that moves one tile. -/
def Renum.move (src dst : Nat) : Renum :=
  ⟨fun t => if t = src then dst else t, fun t => if t = src then dst else t⟩

/-- A cue reference renumbered. -/
def CueRef.renum (r : Renum) : CueRef → CueRef
  | .priv t n => .priv (r.tid t) n
  | .tile t n => .tile (r.tile t) n
  | .none => .none

/-- A snapshot renumbered. -/
def Snap.renum (r : Renum) (p : Snap) : Snap :=
  { p with tid := r.tid p.tid, home := r.tile p.home, cue := p.cue.renum r }

/-- A snapshot renumbered but for its thread, which a forwarding entry reaches (R330). -/
def Snap.renumHome (r : Renum) (p : Snap) : Snap :=
  { p with home := r.tile p.home, cue := p.cue.renum r }

/-- The units that a command has read, by the places' new numbers; global units keep theirs. -/
def renumSeen (r : Renum) (m : SMap (BitVec 512)) : SMap (BitVec 512) :=
  m.foldl (fun l e =>
    smSet l (if e.1 < globKey 0 then seenKey (r.place (e.1 / 65536)) (e.1 % 65536) else e.1) e.2) []

/-- A command renumbered. -/
def Command.renum (r : Renum) (c : Command) : Command :=
  { c with snap := c.snap.renum r, seen := renumSeen r c.seen }

/-- A task renumbered. -/
def Task.renum (r : Renum) (k : Task) : Task :=
  { k with snap := k.snap.renum r, tile := r.tile k.tile }

/-- A cue renumbered. -/
def Cue.renum (r : Renum) (c : Cue) : Cue := c.rename r.tid

/-- A wait renumbered. -/
def Wait.renum (r : Renum) : Wait → Wait
  | .cue c => .cue (c.renum r)
  | .cueTimed c rd l => .cueTimed (c.renum r) rd l
  | .join rd t => .join rd (r.tid t)
  | w => w

/-- A slot's state renumbered. -/
def Slot.renum (r : Renum) : Slot → Slot
  | .waiting w n => .waiting (w.renum r) n
  | .migrating b => .migrating (b.renum r)
  | .arriving i => .arriving (r.tid i)
  | x => x

/-- A thread renumbered. -/
def Thread.renum (r : Renum) (th : Thread) : Thread :=
  { th with
    st := th.st.renum r,
    cues := smMap (fun _ c => c.renum r) th.cues,
    home := r.tile th.home }

/-- A claim renumbered. -/
def Claim.renum (r : Renum) (c : Claim) : Claim := { c with tid := r.tid c.tid }

/-- A tile's contents renumbered. -/
def Tile.renum (r : Renum) (tl : Tile) : Tile :=
  { tl with
    threads := smMap (fun _ th => th.renum r) tl.threads,
    cues := smMap (fun _ c => c.renum r) tl.cues,
    rosets := tl.rosets.map (fun x => (x.1, x.2.1, x.2.2.1, r.tid x.2.2.2)),
    holders := smMap (fun _ h => h.rename r.tid) tl.holders,
    claims := tl.claims.map (·.renum r),
    releases := tl.releases.map (·.renum r),
    mArrivals := tl.mArrivals.map (·.renum r),
    mQueue := tl.mQueue.map (·.renum r),
    pipes := tl.pipes.map (fun p =>
      { p with writer := p.writer.map r.tid, reader := p.reader.map r.tid }),
    heldEvents := tl.heldEvents.map (fun e => (r.tid e.1, e.2)) }

/-- A cluster's contents renumbered. -/
def Cluster.renum (r : Renum) (k : Cluster) : Cluster :=
  { k with
    shArrivals := k.shArrivals.map (·.renum r),
    shQueue := k.shQueue.map (·.renum r),
    shRunning := k.shRunning.map (·.renum r),
    waiting := k.waiting.map (·.renum r),
    running := k.running.map (·.renum r),
    flushes := k.flushes.map (fun e => (e.1, r.tid e.2.1, e.2.2.1.renum r, e.2.2.2)),
    posts := k.posts.map (fun e => (e.1.renum r, e.2.renum r)) }

/-- A packet's body renumbered. -/
def Body.renum (r : Renum) : Body → Body
  | .port p off acc src posted => .port (r.place p) off acc src (posted.map (fun x => (r.tile x.1, x.2)))
  | .ack sig posted fail => .ack sig (posted.map r.tile) fail
  | .cueSig t cue n w => .cueSig (r.tile t) cue n w
  | .msg i v => .msg (r.tid i) v
  | .pmx t key base n idx dbl fin v b => .pmx (r.tile t) key base n idx dbl fin v b
  | .pmsend t src key v => .pmsend (r.tile t) src key v
  | .gateReq g op n l rd h p t w => .gateReq g op n l rd h p (r.tile t) w
  | .gateCommit g op n rd t w => .gateCommit g op n rd (r.tile t) w
  | b => b

/-- A packet renumbered; order targets below 2,048 are places (R129). -/
def Pkt.renum (r : Renum) (k : Pkt) : Pkt :=
  { k with src := r.tid k.src, tgt := if k.tgt < 2048 then r.place k.tgt else k.tgt,
           body := k.body.renum r }

/-- A launch renumbered. -/
def Launch.renum (r : Renum) (l : Launch) : Launch :=
  { l with threads := l.threads.map r.tid,
           reserve := l.reserve.map (fun x => (r.tile x.1, x.2)) }

/-- A waiter at a gate renumbered. -/
def GateSide.renum (r : Renum) (g : GateSide) : GateSide :=
  { g with waiters := g.waiters.map (fun w => { w with tid := r.tid w.tid }) }

/-- Everything outside the tiles and clusters themselves renumbered, but for what names a thread by
the identifier it had when it asked: gate waiters, swap commands and outstanding requests (R299,
R330, R333). -/
def renumRest (r : Renum) (s : State) : State :=
  { s with
    cur := r.tid s.cur,
    swapArrivals := s.swapArrivals.map (fun e => (e.1, { e.2 with snap := e.2.snap.renumHome r })),
    swapQueue := s.swapQueue.map (fun e => (e.1, { e.2 with snap := e.2.snap.renumHome r })),
    swapEntries := s.swapEntries.map (fun e => { e with snap := e.snap.renumHome r }),
    xl := s.xl.map (fun x => { x with tid := r.tid x.tid, tile := r.tile x.tile }),
    net := s.net.map (·.renum r),
    parts := smMap (fun _ p => { p with op := p.op.map (fun o =>
      { o with tid := r.tid o.tid, tile := r.tile o.tile }) }) s.parts,
    launches := s.launches.map (·.renum r),
    hypEvents := s.hypEvents.map (fun e => (r.tid e.1, e.2)),
    hypLoss := s.hypLoss.map r.tid,
    outst := s.outst.map (fun o => { o with tile := r.tile o.tile }) }

/-- The gate waiters and outstanding requests renumbered too (log 21 [DESIGN CHOICE]). -/
def renumAsked (r : Renum) (s : State) : State :=
  { s with
    gates := smMap (fun _ g => g.renum r) s.gates,
    outst := s.outst.map (fun o => { o with tid := r.tid o.tid }) }

/-- Every tile and cluster of the state renumbered in its contents. -/
def renumPlaces (r : Renum) (s : State) : State :=
  { s with
    tiles := smMap (fun _ t => t.renum r) s.tiles,
    clusters := smMap (fun _ k => k.renum r) s.clusters }

end Sys2Proof.Machine
end

