-- ==== Sys2Proof/Machine/Streams.lean ====
section
/-! DEFINITION. The stream instructions (R114 to R121) and the stream unit's own steps (R115). -/

namespace Sys2Proof.Machine

/-! ### Binding -/

/-- A stream descriptor's fields (R114). -/
def parseStream (d : Nat) : Stream :=
  let w := fun i => d / 2 ^ (64 * i) % 2 ^ 64
  { kind := w 3 % 16, base := w64 (w 0), stride := sgn 32 (w 1 / 2 ^ 32), count := w 1 % 2 ^ 32,
    aux := w64 (w 2), key := field (w 3) 15 8, dir := field (w 3) 7 7, skipN := field (w 3) 6 4,
    fifo := [], seen := [], marked := false, next := 0, pos := 0, st := 1, err := 0, asid := 0, priv := 0 }

/-- Reserved KIND or N, or a nonzero must-be-zero field (R114, R121). -/
def streamReserved (b : Stream) (d : Nat) : Bool :=
  let w3 := d / 2 ^ 192 % 2 ^ 64
  4 < b.kind || w3 / 2 ^ 16 != 0 || (b.kind != 3 && b.dir != 0)
    || (if b.kind = 4 then !(b.skipN == 3 || b.skipN == 4 || b.skipN == 6) else b.skipN != 0)

/-- A space or alignment that sbind refuses (R121). STRIDE, which the table of R114 does not name among the
fields that PIPE ignores, is not looked at there: a pipe has no distance (log 16 [DEDUCED]). -/
def streamMisplaced (b : Stream) : Bool :=
  (b.kind != 3 && (pSpace b.base == 0 || pOff b.base % 64 != 0 || b.stride % 64 != 0))
    || ((b.kind == 2 || b.kind == 4) && pSpace b.aux == 0)

/-- sbind (R119, R121): the descriptor is read once, and a thread that finds no free FIFO waits with what
it has read (R114). Where conditions of both ERR values hold, the pointer's space and alignment (0x04) come
first, then the reserved fields (0x01), then the descriptor's spaces and alignment (0x04), an order that the
spec does not give (log 16 [DESIGN CHOICE]). -/
def execSbind (stl : BitVec 3) (rd ra : BitVec 5) (s : State) :
    Host.Outcome State Fault Refusal :=
  run stl { ok := streamOk rd, xs := [ra] } (fun s =>
    let p := rx s ra
    let o := pOff p
    if pSpace p != 2 || o % 32 != 0 || spadSize < o + 32 then .trap .stream (bindWord 0 0x04) s
    else
      let (d, bad) := spadRead s (me s).home o 32
      if bad then .park 1 (chargeSram s (me s).home 3)
      else
        let b := { parseStream d with asid := (me s).asid, priv := (me s).priv }
        if (smFind (me s).streams rd.toNat).isSome || streamReserved b d then
          .trap .stream (bindWord b.kind 0x01) s
        else if streamMisplaced b then .trap .stream (bindWord b.kind 0x04) s
        else
          match bindTry s s.cur rd.toNat b with
          | .taken => .trap .stream (bindWord b.kind 0x01) s
          | .full => .sleep (.bind rd.toNat b) s
          | .bound s => homeDone s) s

/-- sunbind (R119): of an unbound stream it does nothing (log 16 [DEDUCED]). -/
def execSunbind (stl : BitVec 3) (rd : BitVec 5) (s : State) : Host.Outcome State Fault Refusal :=
  run stl { ok := streamOk rd } (fun s =>
    match smFind (me s).streams rd.toNat with
    | none => .go s
    | some b =>
      if streamDrained s s.cur b then .go (streamFree s s.cur rd.toNat b) else .sleep .retry s) s

/-- sstat (R119, R120). -/
def execSstat (stl : BitVec 3) (rd ra : BitVec 5) (s : State) :
    Host.Outcome State Fault Refusal :=
  run stl { ok := streamOk ra, xs := [rd], pair := .takes (some rd.toNat) } (fun s =>
    .go (putX stl 1 rd (sstatWord s s.cur ra.toNat) s)) s

/-- sdrain (R119): a pipe's read end keeps its entries (log 16 [DEDUCED]). -/
def execSdrain (stl : BitVec 3) (rd : BitVec 5) (s : State) : Host.Outcome State Fault Refusal :=
  run stl { ok := streamOk rd } (fun s =>
    let n := rd.toNat
    let fail := .trap .stream (sstatWord s s.cur n) s
    match smFind (me s).streams n with
    | none => fail
    | some b =>
      if b.kind = 3 && b.dir = 0 then .go s
      else if b.isInput then
        .go (setStream s s.cur n { b with
          fifo := [], seen := [], next := b.pos, err := if b.marked then 0 else b.err, marked := false })
      else if b.st = 3 then fail
      else if streamDrained s s.cur b then .go s
      else .sleep .retry s) s

/-- An input stream that skips `c` entries: the fetched ones first, the marked one among them
(R119). -/
def skipInput (b : Stream) (c : Nat) : Stream :=
  if c ≤ b.fifo.length then { b with fifo := b.fifo.drop c, pos := b.pos + c }
  else { b with fifo := [], seen := [], marked := false, pos := b.pos + c, next := b.pos + c }

/-- A pipe's read end skips what the pipe holds of the entries that remain; `next` of its binding
counts those already skipped (R119). Where the pipe ends before all have come, sskip completes with those
that came and traps nothing, since R121 names no failure for it (log 16 [DEDUCED]). -/
def skipPipe (n c : Nat) (b : Stream) (s : State) : Ret :=
  let i := s.cur
  match pipeOf s i b with
  | none => .go s
  | some p =>
    let k := min (c - b.next) p.fifo.length
    let left := c - b.next - k
    let done := left = 0 || p.ended
    let s := setPipeFifo s i b (p.fifo.drop k)
    let s := setStream s i n { b with pos := b.pos + k, next := if done then 0 else b.next + k }
    let s := if k = 0 then s else retryTile s i.tile
    if done then .go s else .sleep .retry s

/-- sskip (R119, R121). -/
def execSskip (stl : BitVec 3) (rd ra : BitVec 5) (s : State) :
    Host.Outcome State Fault Refusal :=
  run stl { ok := streamOk rd, xs := [ra] } (fun s =>
    let n := rd.toNat
    let c := (rx s ra).toNat
    match smFind (me s).streams n with
    | none => .trap .stream (sstatWord s s.cur n) s
    | some b =>
      if b.kind = 3 then
        if b.dir = 1 then .trap .stream (sstatWord s s.cur n) s else skipPipe n c b s
      else if b.isInput then .go (setStream s s.cur n (skipInput b c))
      else .go (setStream s s.cur n { b with pos := b.pos + c })) s

/-! ### The stream unit (R115, R116, R118) -/

/-- Where `n` bytes at a pointer plus an exact distance lie for a stream: the place and the offset. Those
of a saved context meet ADDR (log 21 [DESIGN CHOICE]). -/
def streamAt (s : State) (i : Tid) (b : Stream) (p : Word) (d : Int) (n : Nat) :
    Except Cause (Nat × Nat) :=
  let th := thr s i
  let o := (pOff p : Int) + d
  if o < 0 || o ≥ 2 ^ 52 then .error .addr
  else
    match resolve s (standing s th.home b.asid) th.home (some i.tile) (pWith p o.toNat) n with
    | .error c => .error c
    | .ok (.glob _) => .error .addr
    | .ok (.here a) => .ok (i.tile, a)
    | .ok (.far pl a) => if savedBase ≤ pl then .error .addr else .ok (pl, a)

/-- Units read ahead are kept for each of the four entries a FIFO can hold (R112, R122). -/
def seenEntry (k : Nat) : Nat := k % 4 * 2 ^ 40

/-- The units that a stream has read of entry `k`. -/
def Stream.seenOf (b : Stream) (k : Nat) : SMap (BitVec 512) :=
  b.seen.filterMap fun e =>
    if e.1 / 2 ^ 40 == k % 4 then some (e.1 % 2 ^ 40, e.2) else none

/-- A stream without the units read of entry `k`. -/
def Stream.unsee (b : Stream) (k : Nat) : Stream :=
  { b with seen := b.seen.filter (fun e => e.1 / 2 ^ 40 != k % 4) }

/-- `n` bytes of entry `k` at a pointer plus an exact distance, as a stream reads them on path C (R122):
at a multiple of `al`. -/
def streamGet (s : State) (i : Tid) (b : Stream) (k al : Nat) (p : Word) (d : Int) (n : Nat) :
    Except Cause Nat :=
  match streamAt s i b p d n with
  | .error c => .error c
  | .ok (pl, a) =>
    if a % al != 0 then .error .misalign
    else
      let (v, bad) := pathRead s 2 (b.seenOf k) pl a n
      if bad then .error .uncorr else .ok v

/-- The index form of a mask word with `n` kept positions (R116); none for an invalid word. -/
def skipForm (n w : Nat) : Option Nat :=
  let kept := (List.range 12).filter (fun b => bitOf w b)
  if w / 2 ^ 12 != 0 || kept.length != n then none
  else
    let len := if n = 6 then 8 else 4
    some (packChunks 4 (kept ++ List.replicate (len - n) 15))

/-- Rows of a GATHER entry: eight of 64 B. -/
def gatherRows (s : State) (i : Tid) (b : Stream) (k : Nat) : Nat → Except Cause (List Nat)
  | 0 => .ok []
  | n + 1 =>
    let j := 8 * k + (7 - n)
    match streamGet s i b k 4 b.aux (4 * j : Nat) 4 with
    | .error c => .error c
    | .ok idx =>
      match streamGet s i b k 64 b.base (b.stride * idx) 64 with
      | .error c => .error c
      | .ok v => (gatherRows s i b k n).map (v :: ·)

/-- Mask words of a SKIPLIST entry (R115). -/
def Stream.skipGroups (b : Stream) : Nat := if b.skipN = 6 then 128 else 256

/-- Entry `k` of an input stream (R115). -/
def streamEntry (s : State) (i : Tid) (b : Stream) (k : Nat) : Except Cause VWord :=
  if b.kind = 0 then
    (streamGet s i b k 64 b.base (b.stride * k) 512).map (BitVec.ofNat 4096 ·)
  else if b.kind = 2 then
    (gatherRows s i b k 8).map (fun rows => BitVec.ofNat 4096 (packChunks 512 rows))
  else
    let g := b.skipGroups
    match streamGet s i b k 2 b.aux (2 * g * k : Nat) (2 * g) with
    | .error c => .error c
    | .ok v =>
      let forms := (chunks 16 g v).map (skipForm b.skipN)
      if forms.any Option.isNone then .error .format
      else .ok (BitVec.ofNat 4096 (packChunks (4096 / g) (forms.map (·.getD 0))))

/-- Whether an input stream may fetch (R115, R118). -/
def streamFetches (b : Stream) : Bool :=
  b.isInput && b.kind != 3 && !b.marked && decide (b.fifo.length < 4)
    && (b.count == 0 || decide (b.next < b.count))

/-- The bytes of entry `k` that a stream may read ahead, by a draw: pointer, distance, and length. -/
def aheadSpan (s : State) (i : Tid) (b : Stream) (k d : Nat) : Word × Int × Nat :=
  if b.kind = 0 then (b.base, b.stride * k, 512)
  else if b.kind = 2 then
    let j := 8 * k + d / 2 % 8
    match streamGet s i b k 4 b.aux (4 * j : Nat) 4 with
    | .ok idx => if d % 2 = 0 then (b.aux, (4 * j : Nat), 4) else (b.base, b.stride * idx, 64)
    | .error _ => (b.aux, (4 * j : Nat), 4)
  else (b.aux, (2 * b.skipGroups * k : Nat), 2 * b.skipGroups)

/-- A stream reads one 64-B unit of an entry that has a place in its FIFO: which entry and which unit is
free (R122, log 16 [DEDUCED]). -/
def streamAhead (t slot n : Nat) (s : State) : State :=
  let i : Tid := ⟨t, slot⟩
  match smFind (thr s i).streams n with
  | none => s
  | some b =>
    if streamFetches b then
      let (d, s) := draw s
      let k := b.next + d % (4 - b.fifo.length)
      if b.count != 0 && decide (b.count ≤ k) then s
      else
        let (p, dist, len) := aheadSpan s i b k (d / 4)
        match streamAt s i b p dist len with
        | .error _ => s
        | .ok (pl, a) =>
          let us := spanUnitsAt a len
          let seen := readAhead s 2 pl (us.getD (d / 64 % us.length) 0) (b.seenOf k)
          let b' := b.unsee k
          setStream s i n { b' with
            seen := seen.foldl (fun m e => smSet m (seenEntry k + e.1) e.2) b'.seen }
    else s

/-- STREAM_FETCH (R115): the next entry enters the FIFO, or marks it. -/
def execStreamFetch (t slot n : Nat) (s : State) : Host.Outcome State Fault Refusal :=
  let i : Tid := ⟨t, slot⟩
  match smFind (thr s i).streams n with
  | none => .next s
  | some b =>
    if streamFetches b then
      match streamEntry s i b b.next with
      | .ok v =>
        let b' := { b.unsee b.next with
          fifo := b.fifo ++ [{ n := b.next, v := v, bad := false }], next := b.next + 1 }
        .next (retryTile (setStream s i n b') t)
      | .error c =>
        let b' :=
          { b with marked := true, seen := [], next := b.next + 1, err := if b.err = 0 then c.code else b.err }
        let s := if c = .uncorr then chargeSram s t 3 else s
        .next (retryTile (setStream s i n b') t)
    else .next s

/-- Whether an output stream has an entry to write. -/
def streamWrites (b : Stream) : Bool := b.kind == 1 && b.st != 3 && !b.fifo.isEmpty

/-- STREAM_WRITE (R115, R118): the oldest pushed entry is written, or the stream enters the error
state. -/
def execStreamWrite (t slot n : Nat) (s : State) : Host.Outcome State Fault Refusal :=
  let i : Tid := ⟨t, slot⟩
  match smFind (thr s i).streams n with
  | none => .next s
  | some b =>
    if b.kind != 1 || b.st = 3 then .next s
    else
      match b.fifo with
      | [] => .next s
      | e :: q =>
        let s := match streamPut s i b e.n e.v with
          | .ok s => setStream s i n { b with fifo := q }
          | .error c => setStream s i n { b with st := 3, err := if b.err = 0 then c.code else b.err }
        .next (fenceWake (retryTile s t) i)

end Sys2Proof.Machine
end

