-- ==== Sys2Proof/Machine/Vnet.lean ====
section
/-! DEFINITION. Pair merging (R188 to R191) and the events that carry it. -/

namespace Sys2Proof.Machine

/-! ### The merge of R188 -/

/-- The format of a pair register: ET 100 F64, 101 F32. -/
def pairFmt (dbl : Bool) : FFmt := if dbl then fp64 else fp32

/-- The factor of one side: 1 where its maximum is the maximum, else 2^(its maximum - m). -/
def mergeFactor (f : FFmt) (mode : RMode) (mx m : FVal) (u : BitVec 32) : FRes :=
  if eqVal mx m then ⟨((f.encode ⟨⟨.rne, 0⟩, false, false⟩ (.fin false 1 0 false)).1), 0, false⟩
  else roundTo f mode u (exp2Val (addVal .rne mx m.negate).1)

/-- The exact sum sa fa + sb fb with its flags; 0 times infinity is invalid beside a quiet NaN too
(R166). -/
def mergeSum (mode : RMode) (sa fa sb fb : FVal) : FVal × FlagSet :=
  let (pa, f1) := mulVal sa fa
  let (pb, f2) := mulVal sb fb
  if f1 ||| f2 != 0 || pa.isNan || pb.isNan then (.nan false, f1 ||| f2) else addVal mode pa pb

/-- Two pairs merged (R188): maximum, sum, flags, and the generator after its draws in the order
of the two factors and the sum (log 12 [DEDUCED]). -/
def mergePair (f : FFmt) (mode : RMode) (ma sa mb sb : Nat) (u : BitVec 32) :
    Nat × Nat × FlagSet × BitVec 32 :=
  let va := f.decode ma
  let vb := f.decode mb
  let (m, fl) := minmaxVal true va vb
  if va.isNan || vb.isNan then
    (f.nanBits, f.nanBits, fl ||| (nanOf (f.decode sa) (f.decode sb)).2, u)
  else
    let step := fun (r : FRes) (u : BitVec 32) => if r.drew then lfsrNext u else u
    let a := mergeFactor f mode va m u
    let u := step a u
    let b := mergeFactor f mode vb m u
    let u := step b u
    let r := roundTo f mode u
      (mergeSum mode (f.decode sa) (f.decode a.bits) (f.decode sb) (f.decode b.bits))
    ((f.encode ⟨⟨.rne, 0⟩, false, false⟩ m).1, r.bits, fl ||| a.fl ||| b.fl ||| r.fl, step r u)

/-- The pairs of two registers merged in ascending order. -/
def mergeLanes (f : FFmt) (mode : RMode) :
    List Nat → List Nat → BitVec 32 → List Nat × FlagSet × BitVec 32
  | ma :: sa :: as, mb :: sb :: bs, u =>
    let (m, r, fl, u) := mergePair f mode ma sa mb sb u
    let (l, fl', u) := mergeLanes f mode as bs u
    (m :: r :: l, fl ||| fl', u)
  | _, _, u => ([], 0, u)

/-- Two pair registers merged. -/
def mergeVec (dbl : Bool) (mode : RMode) (a b : VWord) (u : BitVec 32) :
    VWord × FlagSet × BitVec 32 :=
  let f := pairFmt dbl
  let (l, fl, u) := mergeLanes f mode (lanes f.width a) (lanes f.width b) u
  (ofLanes f.width l, fl, u)

/-- vmerge (R188). -/
def execVmerge (stl : BitVec 3) (rd ra rb : BitVec 5) (et : BitVec 1) (s : State) :
    Host.Outcome State Fault Refusal :=
  let dbl := et == 0
  run stl { ok := (frmMode (me s)).isSome, vs := [rd, ra, rb], form := some true }
    (withVecs [ra, rb] (some rd) fun vs s =>
      let (v, fl, u) := mergeVec dbl ((frmMode (me s)).getD .rne) (vs.getD 0 0) (vs.getD 1 0)
        (me s).lfsr
      vecDone stl (if dbl then 72 else 40) rd v fl u s) s

/-! ### pmx (R189) -/

/-- The waits of pmx on a tile: the thread with its wait. -/
def pmxWaits (s : State) (t : Nat) : List (Tid × Wait) :=
  (tile s t).threads.filterMap fun e =>
    match e.2.wait? with
    | some (.pmx key base n idx vd dbl own) =>
      if e.2.shadow then none else some (⟨t, e.1⟩, .pmx key base n idx vd dbl own)
    | _ => none

/-- The key of a pmx wait. -/
def pmxKey : Wait → Option Nat
  | .pmx key .. => some key
  | _ => none

/-- Every named tile reached, or the failing check (R191). -/
def reachAll (s : State) (st : Standing) : List Nat → Option Cause
  | [] => none
  | l :: ls =>
    match reachTile s st l with
    | .error c => some c
    | .ok _ => reachAll s st ls

/-- The standing of the issuing thread. -/
def myStanding (s : State) : Standing := standing s (me s).home (me s).asid

/-- pmx (R189). -/
def execPmx (stl : BitVec 3) (rd ra rb : BitVec 5) (et : BitVec 1) (s : State) :
    Host.Outcome State Fault Refusal :=
  run stl { ok := (frmMode (me s)).isSome, xs := [rb], vs := [rd, ra], form := some true }
    (withVecs [ra] (some rd) fun vs s =>
      let g := (rx s rb).toNat
      let key := field g 31 24
      let n := field g 23 18
      let idx := field g 17 12
      let base := field g 11 0
      let t := s.cur.tile
      if g / 2 ^ 32 != 0 || n < 2 || 32 < n || n ≤ idx || base + idx != ltileOf s t then
        .trap .illegal (w64 g) s
      else
        match reachAll s (myStanding s) (List.range' base n) with
        | some c => .trap c (w64 g) s
        | none =>
          let ws := pmxWaits s t
          if 4 ≤ ws.length || ws.any (fun w => pmxKey w.2 == some key) then .sleep .retry s
          else
            let p := vs.getD 0 0
            let w : Wait := .pmx key base n idx rd.toNat (et == 0) (if idx = 0 then none else some p)
            if idx = 0 then
              match reachTile s (myStanding s) (base + 1) with
              | .ok t1 => .sleep w (send s s.cur t1 (.pmx t1 key base n 1 (et == 0) false p false))
              | .error c => .trap c (w64 g) s
            else .sleep w s) s

/-- A pmx of a thread completed with the final value (R189). -/
def pmxDone (s : State) (i : Tid) (vd : Nat) (v : VWord) : State :=
  retryTile (complete (vecLand s i vd v) i (fun th => th)) i.tile

/-- Packets with the final value to the other participants. -/
def pmxFinals (s : State) (i : Tid) (st : Standing) (key base n : Nat) (dbl : Bool) (v : VWord) :
    State :=
  (List.range (n - 1)).foldl (fun s j =>
    match reachTile s st (base + j) with
    | .ok t => send s i t (.pmx t key base n j dbl true v false)
    | .error _ => s) s

/-- A pmx wait whose contribution has been merged. -/
def Wait.merged : Wait → Wait
  | .pmx key base n idx vd dbl _ => .pmx key base n idx vd dbl none
  | w => w

/-- A partial result merged by participant `idx`, which does so once, and passed on (R189). -/
def pmxMerge (s : State) (i : Tid) (key base n idx vd : Nat) (dbl : Bool) (own part : VWord) :
    State :=
  let th := thr s i
  let (v, fl, u) := mergeVec dbl ((frmMode th).getD .rne) part own th.lfsr
  let s := withShadow s i fun s j => updThr s j fun th =>
    accrue fl { th with lfsr := u, st := th.st.mapWait Wait.merged }
  let st := standing s th.home th.asid
  if idx + 1 = n then pmxDone (pmxFinals s i st key base n dbl v) i vd v
  else
    match reachTile s st (base + idx + 1) with
    | .ok t => send s i t (.pmx t key base n (idx + 1) dbl false v false)
    | .error _ => s

/-- Whether the sender of a contribution is still in its pmx. -/
def pmxSends (s : State) (i : Tid) (key : Nat) : Bool := ((thr s i).wait?.bind pmxKey) == some key

/-- Whether a thread that has not issued a contribution's pmx yet may still do so: it runs, and does not
itself wait for a contribution under another word. -/
def Thread.mayJoin (th : Thread) : Bool :=
  th.live && !th.ended && !th.shadow && (match th.wait? with
    | some (.pmx _ _ _ _ _ _ (some _)) => false
    | _ => true)

/-- Whether some thread of a sender's launch that runs on tile `t`, or has its home there, may still issue
the pmx of a contribution (log 30 [DEDUCED]). -/
def pmxAwaited (s : State) (i : Tid) (t : Nat) : Bool :=
  (allThreads s).any fun e =>
    (e.1.tile == t || e.2.home == t) && e.2.launch == (thr s i).launch && e.2.mayJoin

/-- A contribution that reaches the participant which has issued its word (R189): a partial value is merged
once, and one of the word's next round waits; the final value completes the participant; uncorrectable data
park it (R313). -/
def pmxTake (s : State) (id : Nat) (i : Tid) (t key base n idx vd : Nat) (dbl final bad : Bool)
    (own : Option VWord) (v : VWord) : State :=
  let s0 := dropPkt s id
  if final != own.isNone then (if final then s0 else s)
  else if bad then retryTile (parkThread (chargeSram s0 t 3) i 6) t
  else
    match own with
    | none => pmxDone s0 i vd v
    | some p => pmxMerge s0 i key base n idx vd dbl p v

/-- PMX_CONTRIBUTION (R189): a partial or final value reaches a participant's tile. One that differs from
what was issued there in BASE, N or place is discarded; a partial value whose KEY no thread there has issued
waits while one of its launch may still do so, and goes with its sender's pmx (log 30 [DEDUCED]). -/
def execPmxContribution (id : Nat) (s : State) : Host.Outcome State Fault Refusal :=
  match pktOf s id with
  | some ⟨_, from_, _, .pmx t key base n idx dbl final v bad⟩ =>
    if savedBase ≤ t then .next s
    else if !final && !pmxSends s from_ key then .next (dropPkt s id)
    else match (pmxWaits s t).find? (fun w => pmxKey w.2 == some key) with
    | some (i, .pmx _ base' n' idx' vd dbl' own) =>
      if base = base' && n = n' && idx = idx' && dbl = dbl' then
        .next (pmxTake s id i t key base n idx vd dbl final bad own v)
      else .next (dropPkt s id)
    | _ => if final || !pmxAwaited s from_ t then .next (dropPkt s id) else .next s
  | _ => .next s

/-! ### pmsend and pmrecv (R190) -/

/-- The target word of pmsend and pmrecv: KEY and tile, or a malformed word (R190). -/
def pmWord (g : Nat) : Option (Nat × Nat) :=
  if g / 2 ^ 32 != 0 || field g 23 12 != 0 then none else some (field g 31 24, field g 11 0)

/-- pmsend (R190). -/
def execPmsend (stl : BitVec 3) (ra rb : BitVec 5) (s : State) :
    Host.Outcome State Fault Refusal :=
  run stl { xs := [rb], vs := [ra] }
    (withVecs [ra] none fun vs s =>
      match pmWord (rx s rb).toNat with
      | none => .trap .illegal (rx s rb) s
      | some (key, l) =>
        match reachTile s (myStanding s) l with
        | .error c => .trap c (rx s rb) s
        | .ok t =>
          .sleep .pmsend (send s s.cur t (.pmsend t (ltileOf s s.cur.tile) key (vs.getD 0 0)))) s

/-- The oldest pair-merge entry of a source and key (R190). -/
def pmFind (tl : Tile) (src key : Nat) : Option PmEntry :=
  tl.pmEntries.find? (fun e => e.src == src && e.key == key)

/-- The entries without the oldest of a source and key. -/
def pmRemove (src key : Nat) : List PmEntry → List PmEntry
  | [] => []
  | e :: es => if e.src = src && e.key = key then es else e :: pmRemove src key es

/-- pmrecv (R190). -/
def execPmrecv (stl : BitVec 3) (rd rb : BitVec 5) (s : State) :
    Host.Outcome State Fault Refusal :=
  run stl { xs := [rb], vs := [rd], pair := takesVec rd }
    (withVecs [] (some rd) fun _ s =>
      match pmWord (rx s rb).toNat with
      | none => .trap .illegal (rx s rb) s
      | some (key, l) =>
        match reachTile s (myStanding s) l with
        | .error c => .trap c (rx s rb) s
        | .ok _ =>
          match pmFind (tile s s.cur.tile) l key with
          | some e =>
            let s := updTile s s.cur.tile fun tl =>
              { tl with pmEntries := pmRemove l key tl.pmEntries }
            if e.bad then .park 6 (chargeSram s s.cur.tile 3)
            else .sleep (.vector rd.toNat) (send s s.cur 0 (.reply e.vec.toNat none none))
          | none => .sleep (.pmrecv l key rd.toNat) s) s

/-- The threads of a tile that wait for an entry of this source and key. -/
def pmWaiters (s : State) (t src key : Nat) : List (Tid × Nat) :=
  (tile s t).threads.filterMap fun e =>
    match e.2.wait? with
    | some (.pmrecv src' key' vd) =>
      if src' = src && key' = key && !e.2.shadow then some (⟨t, e.1⟩, vd) else none
    | _ => none

/-- The waiting thread that takes an entry: any of them (R190). -/
def pmWaiter (s : State) (t src key : Nat) : Option (Tid × Nat) × State :=
  match pmWaiters s t src key with
  | [] => (none, s)
  | w :: ws =>
    let (n, s) := draw s
    ((w :: ws)[n % (ws.length + 1)]?, s)

/-- Whether an earlier packet of the same source and key waits for the same tile. -/
def pmEarlier (s : State) (id t src key : Nat) : Bool :=
  s.net.any fun k => match k.body with
    | .pmsend t' src' key' _ => t' == t && src' == src && key' == key && decide (k.id < id)
    | _ => false

/-- PMSEND_ARRIVAL (R190): the target accepts a vector into a free entry, from which a waiting pmrecv
takes it at once. -/
def execPmsendArrival (id : Nat) (s : State) : Host.Outcome State Fault Refusal :=
  match pktOf s id with
  | some ⟨_, i, _, .pmsend t src key v⟩ =>
    if savedBase ≤ t || pmEarlier s id t src key then .next s
    else
      let sent := fun s => if (thr s i).wait? == some .pmsend then complete s i (fun th => th) else s
      if 8 ≤ (tile s t).pmEntries.length then .next s
      else
        match pmWaiter s t src key with
        | (some (j, vd), s) => .next (sent (complete (vecLand (dropPkt s id) j vd v) j (fun th => th)))
        | (none, s) =>
          .next (sent (updTile (dropPkt s id) t fun tl =>
            { tl with pmEntries := tl.pmEntries ++ [⟨src, key, v, false⟩] }))
  | _ => .next s

end Sys2Proof.Machine
end

