-- ==== Sys2Proof/Machine/Curtain.lean ====
section
/-! DEFINITION. The curtain (R320 to R328): commands and their refusals, the stop sequence, save areas,
resumption, restore and start. -/

namespace Sys2Proof.Machine

/-- The state of an outcome, or `s` when there is none. -/
def nextOf (s : State) : Host.Outcome State Fault Refusal → State
  | .next s' => s'
  | _ => s

/-! ### Commands (R321, R322, R329) -/

/-- STOP. -/
def cuStop : Nat := 0
/-- SAVE. -/
def cuSave : Nat := 1
/-- RESUME. -/
def cuResume : Nat := 2
/-- RESTORE. -/
def cuRestore : Nat := 3
/-- START. -/
def cuStart : Nat := 4

/-- Whether a curtain record is BADCMD (R322, R325). -/
def curtainBad (d : Nat → Nat) : Bool :=
  let op := d 0 % 16
  field (d 0) 63 56 != 0 || field (d 0) 39 36 != 0 || field (d 0) 31 4 != 0 || d 3 / 2 ^ 32 != 0
    || decide (cuStart < op)
    || ((op == cuSave || op == cuRestore)
      && (pSpace (w64 (d 2)) != 0 || pOff (w64 (d 2)) % 4096 != 0 || d 3 % 4096 != 0))

/-- Whether a migration record is BADCMD by its bits (R329). -/
def migrBad (d : Nat → Nat) : Bool :=
  field (d 0) 63 56 != 0 || field (d 0) 39 36 != 0 || field (d 0) 31 4 != 0
    || field (d 1) 63 42 != 0 || field (d 1) 31 12 != 0 || d 2 / 2 ^ 32 != 0 || d 3 != 0
    || decide (1 < d 0 % 16)

/-- A record in 32 bytes read as a number, of the thread that issues. -/
def parseCurtain (s : State) (migr : Bool) (rec_ n : Nat) : CurtainOp :=
  let d := fun i => n / 2 ^ (64 * i) % 2 ^ 64
  { since := s.cycle, migr := migr, op := d 0 % 16, t := d 1, area := w64 (d 2),
    asize := d 3 % 2 ^ 32, phys := field (d 1) 41 32, ltile := field (d 1) 11 0, tid := s.cur,
    tile := (me s).home, rec_ := rec_, cue := field (d 0) 47 40,
    bad := if migr then migrBad d else curtainBad d, asid := (me s).asid, priv := (me s).priv,
    dword0 := w64 (d 0), moving := 0 }

/-- The issue of curtain and migr (R321). -/
def curtainIssue (migr : Bool) (stl : BitVec 3) (rd ra : BitVec 5) (s : State) :
    Host.Outcome State Fault Refusal :=
  run stl { priv := 2, xs := [rd, ra] } (fun s =>
    let p := rx s ra
    if pSpace p != 2 || pOff p % 32 != 0 || decide (spadSize < pOff p + 32) then .trap .addr p s
    else
      let (n, bad) := spadRead s (me s).home (pOff p) 32
      if bad then .park 1 (chargeSram s (me s).home 3)
      else
        let k := field n 35 32
        if (part s k).op.isSome then answer rd.toNat 1 s
        else
          answer rd.toNat 0
            (updPart s k fun x => { x with op := some (parseCurtain s migr (pOff p) n) })) s

/-- curtain (R321). -/
def execCurtain (stl : BitVec 3) (rd ra : BitVec 5) (s : State) :
    Host.Outcome State Fault Refusal :=
  curtainIssue false stl rd ra s

/-- migr (R321). -/
def execMigr (stl : BitVec 3) (rd ra : BitVec 5) (s : State) :
    Host.Outcome State Fault Refusal :=
  curtainIssue true stl rd ra s

/-- A command completes: STATUS, then its cue (R321). -/
def curtainEnd (s : State) (p : Nat) (o : CurtainOp) (st : Nat) : State :=
  let s := placeWrite (updPart s p fun x => { x with op := none }) o.tile (o.rec_ + 6) 1 st 0
    (ltileOf s o.tile)
  cueComplete s (.tile o.tile o.cue) (if st = 0 then none else some (withStatus o.dword0 st))

/-- The command in progress of a partition: of the curtain with one of these OPs; one that is BADCMD
for its OP counts as a STOP here. -/
def curtainOp (s : State) (p : Nat) (ops : List Nat) : Option CurtainOp :=
  (part s p).op.filter (fun o => !o.migr && ops.contains (if cuStart < o.op then cuStop else o.op))

/-- Whether the time of a command has come: a rotation boundary after its acceptance at or after T
(R323). -/
def atBoundary (s : State) (o : CurtainOp) : Bool :=
  s.cycle % 16 == 0 && decide (o.since < s.cycle) && (o.migr || decide (o.t ≤ s.timeNs))

/-! ### The partition table (R276, R277, R328) -/

/-- A doubleword of a partition-table entry. -/
def entry64 (s : State) (p i : Nat) : Nat := table64 s (partOff p + 8 * i)

/-- CMAP[L]: [7] valid, [6:0] cluster. -/
def entryCmap (s : State) (p l : Nat) : Nat :=
  let d := entry64 s p (16 + l / 8)
  field d (8 * (l % 8) + 7) (8 * (l % 8))

/-- NCL. -/
def entryNcl (s : State) (p : Nat) : Nat := field (entry64 s p 0) 47 40

/-- The clusters that an entry names, in logical order. -/
def entryClusters (s : State) (p : Nat) : List Nat :=
  (List.range (entryNcl s p)).map (fun l => entryCmap s p l % 128)

/-- Whether a partition that runs or is stopped holds a cluster. -/
def clusterTaken (s : State) (p c : Nat) : Bool :=
  s.parts.any (fun e => e.1 != p && e.2.run != .idle && e.2.cmap.contains c)

/-- Whether an entry is MALFORMED (R328). -/
def entryMalformed (s : State) (p : Nat) : Bool :=
  let d := entry64 s p
  let ncl := entryNcl s p
  let cs := entryClusters s p
  !bitOf (d 0) 63 || field (d 0) 62 48 != 0 || field (d 0) 39 34 != 0 || field (d 0) 31 0 != 0
    || field (d 1) 63 40 != 0 || field (d 1) 15 6 != 0
    || (List.range' 5 11).any (fun i => d i != 0)
    || ncl = 0 || decide (128 < ncl)
    || (List.range ncl).any (fun l => !bitOf (entryCmap s p l) 7) || cs.eraseDups != cs
    || cs.any (clusterTaken s p) || decide (1 < field (d 0) 33 32)
    || decide (field (d 1) 5 0 < 16) || decide (30 < field (d 1) 5 0)

/-- A cluster's permission mask (R278). -/
def permMask (s : State) (c : Nat) : Nat :=
  table64 s (0x11000 + 16 * c) + table64 s (0x11008 + 16 * c) * 2 ^ 64

/-- The entry and the masks read at a resumption (R277). -/
def readEntry (s : State) (p : Nat) (x : Part) : Part :=
  let cs := entryClusters s p
  { x with valid := true, cmap := cs, perms := cs.foldl (fun m c => smSet m c (permMask s c)) [],
           maxPriv := field (entry64 s p 0) 33 32, plbase := field (entry64 s p 1) 39 16,
           plsh := field (entry64 s p 1) 5 0 }

/-- Whether a cluster belongs to a partition whose entry has V = 1 (R331, R356, R389). -/
def clusterOwned (s : State) (c : Nat) : Bool :=
  (List.range 16).any fun p =>
    bitOf (entry64 s p 0) 63 &&
      (List.range (min 128 (entryNcl s p))).any (fun l => entryCmap s p l == 128 + c)

/-! ### Refusals (R325) -/

/-- The physical tiles of a partition, in logical order. -/
def partTiles (s : State) (p : Nat) : List Nat :=
  (List.range (ltileCount s p)).filterMap (ltilePhys s p)

/-- Whether a command's issuer runs on a tile of the partition (R325): where no partition holds the
tile, by the entry that RESTORE and START name. -/
def curtainSelf (s : State) (p : Nat) (o : CurtainOp) : Bool :=
  match tilePart s o.tid.tile with
  | some (q, _) => q == p
  | none =>
    (o.op == cuRestore || o.op == cuStart) && bitOf (entry64 s p 0) 63
      && (entryClusters s p).contains (tileCluster o.tid.tile)

/-- Whether the partition's state allows an OP (R323). -/
def stateAllows (r : RunState) (op : Nat) : Bool :=
  if op = cuStop then r == .running
  else if op = cuSave then r == .running || r == .stopped
  else if op = cuResume then r == .stopped
  else r == .idle

/-- SIZE of an area. -/
def areaSize : Nat := 0x1241000

/-- The status that refuses a command, in the order of R325, as far as the tables and the record
decide it; 0 for none. -/
def curtainRefusal (s : State) (p : Nat) (o : CurtainOp) : Nat :=
  if o.bad then 5
  else if curtainSelf s p o then 6
  else if !stateAllows (part s p).run o.op then 1
  else if (o.op == cuRestore || o.op == cuStart) && entryMalformed s p then 2
  else if decide (o.asize < areaSize)
      && (o.op == cuRestore || (o.op == cuSave && (part s p).run == .stopped)) then 3
  else 0

/-! ### The stop sequence (R324) -/

/-- A started command of a matrix engine stops at its boundary (R217): the loads that an mgemm has begun and
not completed are made whole again (R387). -/
def stopCommand (t : Nat) (s : State) (id : Nat) : State :=
  match matrixCmd s t id with
  | none => s
  | some c =>
    if !c.started then s
    else if c.cmd = cmdGemm then putMatrixCmd s t { c with seen := [] }
    else if cmdUnits c = 2 then nextOf s (execMatrixComplete t id s)
    else
      let (n, s) := draw s
      match matrixRows t (n % (rowCount c - c.done + 1)) c s with
      | .done c' s' => putMatrixCmd s' t (holdRest s' t c')
      | .stop c' s' st => matrixFinish s' t c' (some (st, c'.done))
      | .wait s' => keepRequests s s'

/-- A tile issues no more (R324). -/
def haltTile (s : State) (t : Nat) : State := updTile s t fun tl => { tl with stopped := true }

/-- The fetches that a stream has begun complete, up to `fuel` entries (R122, R324). -/
def stopFetch (t slot n : Nat) : Nat → State → State
  | 0, s => s
  | fuel + 1, s =>
    match smFind (thr s ⟨t, slot⟩).streams n with
    | none => s
    | some b =>
      if b.seen = [] then s else stopFetch t slot n fuel (nextOf s (execStreamFetch t slot n s))

/-- The fetches that a tile's streams have begun complete; a FIFO holds four entries (R112). -/
def stopStreams (s : State) (t : Nat) : State :=
  (tile s t).threads.foldl (fun s e =>
    e.2.streams.foldl (fun s b => stopFetch t e.1 b.1 4 s) s) s

/-- A tile stops: issued instructions and fetches begun complete, its engine reaches its boundary (R217,
R324). -/
def stopTile (s : State) (t : Nat) : State :=
  let s := (tile s t).threads.foldl (fun s e => landAll s ⟨t, e.1⟩) s
  let s := stopStreams (haltTile s t) t
  ((tile s t).mQueue.map (·.id)).foldl (stopCommand t) s

/-- The largest boundary of a copy up to `n` elements, from what it has done on: a running copy stands at a
boundary or at its start (R110). -/
def copyStopAt (s : State) (c : Command) : Nat → Nat
  | 0 => c.done
  | n + 1 =>
    if n + 1 ≤ c.done then c.done
    else if copyBoundary s c (n + 1) then n + 1 else copyStopAt s c n

/-- A running copy of cluster `k` stops at a 64-B destination boundary (R324). -/
def stopCopy (k : Nat) (s : State) (c : Command) : State :=
  let (n, s) := draw s
  let left := copyTotal c - c.done
  let m := copyStopAt s c (c.done + (if left = 0 then 0 else n % left))
  match copyRun (m - c.done) c s with
  | .done c' s' => putCopy s' k (holdCut s' c')
  | .stop c' s' st => copyLeave s' k c' (some (st, c'.done))
  | .wait s' => keepRequests s s'

/-- The running copies of tiles stopped. -/
def stopCopies (s : State) (ts : List Nat) : State :=
  s.clusters.foldl (fun s e =>
    (e.2.shRunning.filter (fun c => ts.contains c.snap.home)).foldl (stopCopy e.1) s) s

/-- Everything written to a tile's scratchpad has reached its bank and every path (R324). -/
def settleTile (s : State) (t : Nat) : State :=
  updTile (landLate s t (fun _ => true)) t fun tl => { tl with lag := [] }

/-- Tiles stopped, with their copies. -/
def stopTiles (s : State) (ts : List Nat) : State :=
  ts.foldl settleTile (stopCopies (ts.foldl stopTile s) ts)

/-- The command in progress of a partition with its progress set. -/
def setMoving (s : State) (p n : Nat) : State :=
  updPart s p fun x => { x with op := x.op.map (fun o => { o with moving := n, since := s.cycle }) }

/-- Whether every understudy of a tile has issued what its leader has (R316, R324). -/
def pairsLevel (tl : Tile) : Bool := tl.threads.all (fun e => e.2.lvq.isEmpty)

/-- The rest of a stop, once the understudies of its tiles, which issue one rotation after their leaders,
have completed what these have issued (R324). -/
def stopEnd (s : State) (p : Nat) (o : CurtainOp) : State :=
  if (partTiles s p).all (fun t => pairsLevel (tile s t)) then
    let s := stopTiles s (partTiles s p)
    let s := updPart s p fun x => { x with run := .stopped, tstop := o.t }
    if o.op = cuStop then curtainEnd s p o 0 else setMoving s p 0
  else s

/-- CURTAIN_STOP (R323, R324): STOP, and the stop of a running partition by SAVE: at T its tiles issue no
more. -/
def execCurtainStop (p : Nat) (s : State) : Host.Outcome State Fault Refusal :=
  match curtainOp s p [cuStop, cuSave] with
  | none => .next s
  | some o =>
    if o.moving = 1 then .next (stopEnd s p o)
    else
      let st := curtainRefusal s p o
      if st != 0 then .next (curtainEnd s p o st)
      else if (part s p).run != .running || !atBoundary s o then .next s
      else .next (stopEnd (setMoving ((partTiles s p).foldl haltTile s) p 1) p o)

/-! ### Packets of a stopped partition (R324, R326) -/

/-- Whether a place is a stopped tile's or a stopped partition's cluster's. -/
def placeStopped (s : State) (p : Nat) : Bool :=
  if p < 1024 then (tile s p).stopped
  else s.parts.any (fun e => e.2.run == .stopped && e.2.cmap.contains (p - 1024))

/-- The place that a packet goes to, when it is not its thread. -/
def Body.goal : Body → Option Nat
  | .port p .. => some p
  | .cueSig t .. => some t
  | .msg i _ => if i.tile < 1024 then some i.tile else none
  | .pmx t .. => some t
  | .pmsend t .. => some t
  | _ => none

/-- Whether a packet is on its way back to its thread. -/
def Body.homeward : Body → Bool
  | .gload _ _ _ _ [] _ _ _ _ => true
  | .reply .. => true
  | .ack .. => true
  | .gateReply .. => true
  | .gateFault .. => true
  | _ => false

/-- Whether a packet is a request that its target has not accepted (R324): an op packet under way has
begun (R77). -/
def Body.asks : Body → Bool
  | .gload _ _ _ _ (_ :: _) fill _ _ _ => !fill
  | .probe .. => true
  | .gamo _ _ _ _ _ _ _ pa _ => pa.isNone
  | .port .. => true
  | .cueSig .. => true
  | .msg .. => true
  | .pmx .. => true
  | .pmsend .. => true
  | .gateReq .. => true
  | .rreq loc _ _ q => loc && decide (q.data.length ≤ 8)
  | _ => false

/-- The thread whose request a reply answers. -/
def Body.asker (s : State) : Body → Option Tid
  | .rrep tag _ _ => (s.outst.find? (fun o => o.rtag == tag)).map (·.tid)
  | _ => none

/-- Whether a packet is held because of a stop: it goes to a stopped place (R324, R331), or it is an
unaccepted request from a stopped partition (R324). -/
def pktHeld (s : State) (k : Pkt) : Bool :=
  (k.body.goal.map (placeStopped s)).getD false
    || (k.body.homeward && (tile s k.src.tile).stopped)
    || (k.body.asks && partStopped s k.src.tile)
    || ((k.body.asker s).map (fun i => (tile s i.tile).stopped)).getD false

/-- A request for units of global memory delivered at their slices, `n` units at most. -/
def deliverUnits (id : Nat) : Nat → State → State
  | 0, s => s
  | n + 1, s => deliverUnits id n (nextOf s (execSliceAccess id s))

/-- A request of another rank's kind delivered at its target. -/
def deliverAsk (s : State) (id : Nat) : State :=
  [execRemoteRequest, execSpawnrAdmission, execOpAmo, execOpCas2, execOpCas4, execOpLenq, execOpLdeq,
    execOpChase].foldl (fun s f => nextOf s (f id s)) s

/-- A held packet delivered. -/
def deliverHeld (s : State) (id : Nat) : State :=
  match pktOf s id with
  | none => s
  | some k =>
    let s := if k.body.homeward then passVia s id else s
    nextOf s (match k.body with
      | .reply .. =>
        match (thr s k.src).wait? with
        | some (.probe ..) => execStoreProbeReply id s
        | _ => execAccessReply id s
      | .gload _ _ _ _ [] _ _ _ _ => execAccessReply id s
      | .gload _ _ _ _ todo _ _ _ _ => .next (deliverUnits id todo.length s)
      | .probe .. => execSliceAccess id s
      | .gamo .. => execSliceAccess id s
      | .port .. => execRemotePortAccess id s
      | .ack .. => execPostedAck id s
      | .cueSig .. => execCueSignalArrival id s
      | .msg .. => execMessageDelivery id s
      | .pmx .. => execPmxContribution id s
      | .pmsend .. => execPmsendArrival id s
      | .gateReq .. => execGateRequest id s
      | .gateReply .. => execGateReply id s
      | .gateFault .. => execGateReply id s
      | .rrep .. => execRemoteReply id s
      | .rreq .. => .next (deliverAsk s id)
      | _ => .next s)

/-- Packets delivered in order (R326). -/
def deliverAll (s : State) (ids : List Nat) : State := ids.foldl deliverHeld s

/-- A tile issues again. -/
def startTile (s : State) (t : Nat) : State := updTile s t fun tl => { tl with stopped := false }

/-- Packets that a stop has held delivered in their order, where they are not held any more once these
tiles have started; then the tiles start (R326). -/
def releaseHeld (s : State) (held : List Pkt) (ts : List Nat) : State :=
  let after := ts.foldl startTile s
  ts.foldl startTile (deliverAll s ((held.filter (fun k => !pktHeld after k)).map (·.id)))

/-- A stopped partition resumes (R277, R326): its entry is read, what was held for it alone is delivered,
its tiles issue. -/
def resumePart (s : State) (p : Nat) : State :=
  let held := s.net.filter (pktHeld s)
  let old := partTiles s p
  let s := updPart s p fun x =>
    { (if entryMalformed s p then x else readEntry s p x) with run := .running }
  releaseHeld s held (old ++ partTiles s p)

/-- CURTAIN_RESUME (R323, R326). -/
def execCurtainResume (p : Nat) (s : State) : Host.Outcome State Fault Refusal :=
  match curtainOp s p [cuResume] with
  | none => .next s
  | some o =>
    let st := curtainRefusal s p o
    if st != 0 then .next (curtainEnd s p o st)
    else if atBoundary s o then .next (curtainEnd (resumePart s p) p o 0)
    else .next s

/-! ### Start (R323, R328) -/

/-- A tile scrubbed to zero: the running order and TQUOTA stay, and what belongs to the physical
tile (R323, R332). -/
def scrubTile (tl : Tile) : Tile :=
  { Tile.zero with
    runord := tl.runord, rosetOff := tl.rosetOff, shedOff := tl.shedOff, shedStack := tl.shedStack,
    troupes := smMap (fun _ t => { t with tvec := 0 }) tl.troupes, tqSel := tl.tqSel,
    rosets := tl.rosets, fwd := tl.fwd }

/-- A tile whose threads are gone and which is scrubbed. -/
def vacateTile (s : State) (t : Nat) : State :=
  updTile ((tile s t).threads.foldl (fun s e => forget s ⟨t, e.1⟩) s) t scrubTile

/-- CURTAIN_START (R323). -/
def execCurtainStart (p : Nat) (s : State) : Host.Outcome State Fault Refusal :=
  match curtainOp s p [cuStart] with
  | none => .next s
  | some o =>
    let st := curtainRefusal s p o
    if st != 0 then .next (curtainEnd s p o st)
    else
      let s := updPart s p fun x => { readEntry s p x with run := .running, remaps := [] }
      let cs := (part s p).cmap
      let s := ((cs.map clusterTiles).flatten).foldl vacateTile s
      let s := cs.foldl (fun s c => setCluster s c Cluster.zero) s
      .next (curtainEnd s p o 0)

end Sys2Proof.Machine
end

