-- ==== Sys2Proof/Machine/EngineReg.lean ====
section
/-! DEFINITION. The engine registers (R101 to R103) and the status words of the ports. -/

namespace Sys2Proof.Machine

/-- An engine register of the issuing thread written. -/
def putE (n : Nat) (v : Word) (s : State) : State :=
  updMe s fun th => { th with e := smSet th.e n v }

/-- ewr (R102). -/
def execEwr (stl : BitVec 3) (ra rb : BitVec 5) (n : BitVec 3) (s : State) :
    Host.Outcome State Fault Refusal :=
  run stl { ok := ewrOk n rb, xs := [ra, rb] } (fun s =>
    let v := rx s ra
    let w := rx s rb
    let s := putE n.toNat v s
    .go (if rb = 0 then s else putE (n.toNat + 1) w s)) s

/-- erd (R103). -/
def execErd (stl : BitVec 3) (rd : BitVec 5) (n : BitVec 3) (s : State) :
    Host.Outcome State Fault Refusal :=
  run stl { xs := [rd], pair := .takes (some rd.toNat) } (fun s => .go (putX stl 1 rd (smGet 0 (me s).e n.toNat) s)) s

/-- erdst (R103). -/
def execErdst (stl : BitVec 3) (rd : BitVec 5) (port : BitVec 2) (s : State) :
    Host.Outcome State Fault Refusal :=
  run stl { xs := [rd], pair := .takes (some rd.toNat) } (fun s =>
    .go (putX stl 1 rd (portWord port.toNat (portStat s s.cur port.toNat)) s)) s

end Sys2Proof.Machine
end

