-- ==== Sys2Proof/Machine/Sha.lean ====
section
/-! DEFINITION. SHA-256 over bytes (R352, R357 to R359), as FIPS 180-4 defines it, and RSASSA-PKCS1-v1_5
with it (R358, R359), as RFC 8017 defines it (log 22 [PRESUMED]). -/

namespace Sys2Proof.Machine

/-- A word of the hash. -/
abbrev HWord := BitVec 32

/-! ### Constants: fractions of roots of primes -/

/-- The primes below `n`. -/
def primesBelow (n : Nat) : List Nat :=
  (List.range n).filter fun p => decide (2 ≤ p) && (List.range' 2 (p - 2)).all (fun d => p % d != 0)

/-- The largest number with `r` in its upper bits and `b` lower ones whose `k`-th power is at most
`n`. -/
def rootBelow (k n : Nat) : Nat → Nat → Nat
  | 0, r => r
  | b + 1, r => rootBelow k n b (if (r + 2 ^ b) ^ k ≤ n then r + 2 ^ b else r)

/-- The first 32 bits of the fraction of the `k`-th root of `p`. -/
def rootFraction (k p : Nat) : HWord := BitVec.ofNat 32 (rootBelow k (p * 2 ^ (32 * k)) 37 0)

/-- The round constants: of the cube roots of the first 64 primes. -/
def shaK : List HWord := (primesBelow 312).map (rootFraction 3)

/-- The initial hash value: of the square roots of the first 8 primes. -/
def shaInit : List HWord := (primesBelow 20).map (rootFraction 2)

/-! ### Blocks -/

/-- A number as `n` bytes, the highest first. -/
def bytesBE (n v : Nat) : List Byte := (natBytes n v).reverse

/-- Bytes as a number, the highest first. -/
def natBE (bs : List Byte) : Nat := bytesNat bs.reverse

/-- What follows a message of `n` bytes in its last blocks: a one, zeros, and its length in bits. -/
def shaTail (n : Nat) : List Byte :=
  0x80 :: (List.replicate ((119 - n % 64) % 64) 0 ++ bytesBE 8 (8 * n))

/-- A message cut into groups of `k` bytes. -/
def groups (k : Nat) : Nat → List Byte → List (List Byte)
  | 0, _ => []
  | n + 1, m => m.take k :: groups k n (m.drop k)

/-- A word turned right by each of some amounts, and these combined. -/
def turned (x : HWord) (rs : List Nat) : HWord :=
  rs.foldl (fun v r => v ^^^ x.rotateRight r) 0

/-- Word `t` of the schedule from the sixteen before it, the nearest first. -/
def shaNext (w : List HWord) : HWord :=
  let at_ := fun back => w.getD (back - 1) 0
  let mixed := fun x rs sh => turned x rs ^^^ x >>> sh
  mixed (at_ 2) [17, 19] 10 + at_ 7 + mixed (at_ 15) [7, 18] 3 + at_ 16

/-- The schedule grown by `n` words, the last word first. -/
def shaGrow : Nat → List HWord → List HWord
  | 0, w => w
  | n + 1, w => shaGrow n (shaNext w :: w)

/-- The working variables as two histories of four, the latest value first: `up` of a, `low` of e. -/
structure ShaVars where
  up : List HWord
  low : List HWord
  deriving DecidableEq, Repr

/-- One round with the sum of its constant and its schedule word: both histories take a new value. -/
def shaStep (v : ShaVars) (kw : HWord) : ShaVars :=
  let a := fun n => v.up.getD n 0
  let e := fun n => v.low.getD n 0
  let choice := e 2 ^^^ (e 0 &&& (e 1 ^^^ e 2))
  let most := (a 0 &&& (a 1 ||| a 2)) ||| (a 1 &&& a 2)
  let sum := e 3 + turned (e 0) [6, 11, 25] + choice + kw
  { up := (sum + turned (a 0) [2, 13, 22] + most) :: v.up.take 3,
    low := (a 3 + sum) :: v.low.take 3 }

/-- The hash value after one more block of 64 bytes. -/
def shaBlock (h : List HWord) (m : List Byte) : List HWord :=
  let start := (groups 4 16 m).map (fun b => BitVec.ofNat 32 (natBE b))
  let w := (shaGrow 48 start.reverse).reverse
  let v := (List.zipWith (· + ·) shaK w).foldl shaStep ⟨h.take 4, h.drop 4⟩
  List.zipWith (· + ·) h (v.up ++ v.low)

/-- SHA-256 of bytes: 32 bytes. -/
def sha256 (m : List Byte) : List Byte :=
  let p := m ++ shaTail m.length
  ((groups 64 (p.length / 64) p).foldl shaBlock shaInit).flatMap (fun w => bytesBE 4 w.toNat)

/-- SHA-256 of bytes as a number, byte 0 lowest. -/
def sha256Nat (m : List Byte) : Nat := bytesNat (sha256 m)

/-! ### RSASSA-PKCS1-v1_5 with SHA-256 and keys of 3,072 bits -/

/-- A power modulo `n`, by `k` bits of the exponent. -/
def powMod (n b : Nat) : Nat → Nat → Nat
  | 0, _ => 1 % n
  | k + 1, e =>
    let h := powMod n b k (e / 2)
    h * h % n * (if e % 2 = 1 then b else 1) % n

/-- The identifier of SHA-256 that stands before a hash in an encoded message. -/
def hashInfo : List Byte := bytesBE 19 0x3031300D060960864801650304020105000420

/-- The encoded message of 384 bytes whose power is a signature of `m`. -/
def encodedMessage (m : List Byte) : List Byte :=
  [0x00, 0x01] ++ List.replicate 330 0xFF ++ [0x00] ++ hashInfo ++ sha256 m

/-- The signature of `m` by a key of modulus `n` and private exponent `d`. -/
def rsaSign (n d : Nat) (m : List Byte) : List Byte :=
  bytesBE 384 (powMod n (natBE (encodedMessage m)) 3072 d)

/-- Whether `sig` is a signature of `m` by the key of modulus `n` and public exponent `e`. -/
def rsaVerify (n e : Nat) (m sig : List Byte) : Bool :=
  decide (natBE sig < n) && powMod n (natBE sig) 3072 e == natBE (encodedMessage m)

end Sys2Proof.Machine
end

