-- ==== Sys2Proof/Machine/Save.lean ====
section
/-! DEFINITION. SAVE and RESTORE (R327, R328): the areas of logical clusters, what they hold, and the
contexts behind the bytes that only the device reads (log 21 [DESIGN CHOICE]). -/

namespace Sys2Proof.Machine

/-! ### The area of a logical cluster -/

/-- The accesses of a context-save engine: under the issuer's ASID (R322). -/
def saveAgent (s : State) (o : CurtainOp) (client : Nat) : Agent :=
  { acc := { asid := o.asid, priv := 3, write := false, fetch := false, client := client },
    st := standing s o.tile o.asid, home := o.tile, src := 0, kindHome := none, kindFar := 0 }

/-- The client number of a partition's area accesses. -/
def saveClient (p : Nat) : Nat := 2 ^ 69 + p

/-- The area of logical cluster L (R322): its offset. -/
def areaOff (o : CurtainOp) (l : Nat) : Nat := pOff o.area + l * o.asize

/-- `n` bytes of an area read. -/
def areaRead (s : State) (g : Agent) (off n : Nat) : MRes :=
  if 2 ^ 52 < off + n then .fail s .addr 0 else agentRead s g (w64 off) n

/-- `n` bytes of an area written. -/
def areaWrite (s : State) (g : Agent) (off n v : Nat) : MRes :=
  if 2 ^ 52 < off + n then .fail s .addr 0 else agentWrite s g (w64 off) n v

/-- A part of an area: offset, bytes, value. -/
structure Piece where
  off : Nat
  len : Nat
  v : Nat
  deriving DecidableEq, Repr

/-- Pieces written one after the other. -/
def writeAll (g : Agent) : List Piece → State → MRes
  | [], s => .ok s 0 false
  | x :: xs, s =>
    match areaWrite s g x.off x.len x.v with
    | .ok s _ _ => writeAll g xs s
    | r => r

/-- Parts of an area read one after the other. -/
inductive Reads where
  | ok (s : State) (vs : List Nat)
  | fail (s : State)
  | wait (s : State)

/-- Parts (offset and bytes) read. -/
def readAll (g : Agent) : List (Nat × Nat) → State → Reads
  | [], s => .ok s []
  | (o, n) :: xs, s =>
    match areaRead s g o n with
    | .ok s v _ =>
      match readAll g xs s with
      | .ok s vs => .ok s (v :: vs)
      | r => r
    | .fail s _ _ => .fail s
    | .wait s => .wait s

/-! ### Sections of a tile -/

/-- Scalar entries per thread in a tile's register mode (R250). -/
def regsPer (tl : Tile) : Nat := if tl.wide then 32 else 16

/-- The stored entry of a tile's scalar register file at an index. -/
def regAt (tl : Tile) (k : Nat) : XReg :=
  getXR (smGet Thread.none tl.threads (k / regsPer tl)) (k % regsPer tl)

/-- The values of the 8,192 scalar entries. -/
def regValues (tl : Tile) : Nat := packChunks 64 ((List.range 8192).map (fun k => (regAt tl k).v.toNat))

/-- The residues of the 8,192 scalar entries. -/
def regResidues (tl : Tile) : Nat := packChunks 4 ((List.range 8192).map (fun k => (regAt tl k).r.toNat))

/-- A tile with its live threads' scalar registers from values and residues. -/
def putRegs (tl : Tile) (vs rs : Nat) : Tile :=
  let n := regsPer tl
  let one := fun (k : Nat) (th : Thread) =>
    { th with x := (List.range n).foldl (fun m r =>
        let e := k * n + r
        let x : XReg := ⟨w64 (vs / 2 ^ (64 * e) % 2 ^ 64), BitVec.ofNat 4 (rs / 2 ^ (4 * e) % 16)⟩
        if r = 0 || x = XReg.zero then m else smSet m r x) [] }
  { tl with threads := smMap one tl.threads }

/-- The vector register file as one number. -/
def vfileValue (tl : Tile) : Nat :=
  packChunks 4096 ((List.range 256).map (fun k => (smGet 0 tl.vfile k).toNat))

/-- A vector register file from a number. -/
def vfileOf (v : Nat) : SMap VWord :=
  ((chunks 4096 256 v).zipIdx.filter (fun e => e.1 != 0)).map (fun e => (e.2, BitVec.ofNat 4096 e.1))

/-- The offset of tile section `i` (R327). -/
def sectionOff (i : Nat) : Nat := 0x1000 + i * 0x200000

/-- Offset within a tile section, and bytes, of each part that has a layout (R327). -/
def tileParts : List (Nat × Nat) :=
  [(0, 0xC0000), (0xC0000, 0x40000), (0x100000, 0x4000), (0x104000, 0x40000), (0x144000, 0x20000),
   (0x164000, 0x10000), (0x174000, 0x1000)]

/-- Offset within a tile section, and bytes, of each part that only the device reads (R327). -/
def deviceParts : List (Nat × Nat) :=
  [(0x175000, 0x10000), (0x185000, 0x10000), (0x195000, 0x20000), (0x1B5000, 0x4B000)]

/-- The values of a tile's parts. -/
def tileValues (tl : Tile) : List Nat :=
  [readLE tl.spad 0 0xC0000, readLE tl.opmem 0 0x40000, readLE tl.side 0 0x4000,
   readLE tl.acc 0 0x40000, vfileValue tl, regValues tl, regResidues tl]

/-- A tile with its parts from values. -/
def putParts (tl : Tile) (vs : List Nat) : Tile :=
  let g := fun i => vs.getD i 0
  putRegs { tl with
    spad := writeLE [] 0 0xC0000 (g 0), opmem := writeLE [] 0 0x40000 (g 1),
    side := writeLE [] 0 0x4000 (g 2), acc := writeLE [] 0 0x40000 (g 3), vfile := vfileOf (g 4) }
    (g 5) (g 6)

/-- Pieces of free bytes, drawn one after the other. -/
def freePieces (base : Nat) : List (Nat × Nat) → Nat → List Piece
  | [], _ => []
  | (o, n) :: xs, d => ⟨base + o, n, freeBytes d n⟩ :: freePieces base xs (d + n)

/-- Bytes of a list of parts. -/
def partsLen (l : List (Nat × Nat)) : Nat := l.foldl (fun n x => n + x.2) 0

/-! ### SAVE (R327) -/

/-- The contexts of a logical cluster: position, and the tile that holds it. -/
def clusterContexts (s : State) (c : Nat) : List (Nat × Nat) :=
  ((clusterTiles c).zipIdx.filter (fun e => !harvested s e.1)).map (fun e => (e.2, placedTile s e.1))

/-- HMASK of a cluster (R327). -/
def hmask (s : State) (c : Nat) : Nat :=
  (clusterTiles c).zipIdx.foldl (fun m e => if harvested s e.1 then m + 2 ^ e.2 else m) 0

/-- Whether a stagehand command moves with a tile's threads: not a task, which its stage manager
runs (R331). -/
def movesWith (t : Nat) (c : Command) : Bool := c.snap.home == t && c.snap.task.isNone

/-- The port-1 commands of a tile's threads moved from its own cluster's stagehand to that of cluster `b`
(R331, R332). -/
def copiesTo (s : State) (t b : Nat) : State :=
  let a := tileCluster t
  if a = b then s
  else
    let x := cluster s a
    let go := fun (l : List Command) => l.filter (movesWith t)
    let stay := fun (l : List Command) => l.filter (fun c => !movesWith t c)
    let s := setCluster s a { x with
      shArrivals := stay x.shArrivals, shQueue := stay x.shQueue, shRunning := stay x.shRunning }
    updCluster s b fun y => { y with
      shArrivals := y.shArrivals ++ go x.shArrivals,
      shQueue := go x.shRunning ++ y.shQueue ++ go x.shQueue }

/-- The port-1 commands of a partition's moved tiles gathered in the stagehands of their logical clusters,
where the areas hold them (R327, R332). -/
def gatherCopies (s : State) (p : Nat) : State :=
  (part s p).cmap.foldl (fun s c =>
    (clusterContexts s c).foldl (fun s e => copiesTo s e.2 c) s) s

/-- Whether a tile of a partition has no forwarding entry left for its saved context (R330). -/
def entriesFull (s : State) (p : Nat) : Bool :=
  (partTiles s p).any (fun t => decide (4 ≤ (tile s t).fwd.length))

/-- Whether every answer that a SAVE waits for has come (R299, R327), every understudy has issued what its
leader has, and no running-order entry is pending. -/
def saveReady (s : State) (ts : List Nat) : Bool :=
  let mine := fun (i : Tid) => ts.contains i.tile
  let swap := fun (c : Command) => ts.contains c.snap.home || mine c.snap.tid
  ts.all (fun t => (tile s t).rosets.isEmpty && pairsLevel (tile s t))
    && s.swapArrivals.all (fun e => !swap e.2) && s.swapQueue.all (fun e => !swap e.2)
    && s.xl.all (fun x => !mine x.tid)
    && s.parts.all (fun e => (e.2.op.map (fun o => !mine o.tid)).getD true)
    && s.outst.all (fun o => decide (4 < o.kind) || !mine o.tid || s.net.any (fun k =>
      match k.body with
      | .rrep tag _ _ => tag == o.rtag
      | .rreq true _ tag _ => tag == o.rtag && mine k.src
      | _ => false))
    && s.net.all (fun k => match k.body with
      | .gateCommit _ _ _ _ t _ => !ts.contains t && !mine k.src
      | _ => true)

/-- The pieces of the contexts of one area. -/
def areaPieces (s : State) (base c serial : Nat) : List Piece :=
  let ctx := clusterContexts s c
  let real := (ctx.map fun e =>
    List.zipWith (fun (x : Nat × Nat) v => (⟨base + sectionOff e.1 + x.1, x.2, v⟩ : Piece))
      tileParts (tileValues (tile s e.2))).flatten
  let own := (ctx.map fun e => deviceParts.map (fun x => (sectionOff e.1 + x.1, x.2))).flatten
  ⟨base, 8, 0⟩ :: real ++ [⟨base + 0x1001000, shmSize, readLE (cluster s c).shm 0 shmSize⟩]
    ++ freePieces base (own ++ [(0x1201000, 0x40000)]) s.draws
    ++ [⟨base + 0x1201000, 8, (Config.saveKey serial).toNat⟩]

/-- The header of an area (R327). -/
def areaHeader (s : State) (p l c tstop : Nat) (inbox : Nat) : Nat :=
  let d0 := 2 ^ 63 + 2 ^ 48 + p % 16 * 2 ^ 44 + (clusterContexts s c).length * 2 ^ 32 + hmask s c
  packChunks 64 [d0, areaSize, tstop, l, inbox]

/-- The bytes of every area written: contents (`hdr` false) or headers; the cluster of a failure. -/
def writeAreas (f : Nat → Nat → Nat → List Piece) (g : Agent) (o : CurtainOp) :
    List (Nat × Nat) → State → MRes × Nat
  | [], s => (.ok s 0 false, 0)
  | (c, l) :: xs, s =>
    match writeAll g (f (areaOff o l) c l) s with
    | .ok s _ _ => writeAreas f g o xs s
    | r => (r, l)

/-- The cluster that a packet of a saved partition is kept with: its goal's, or its thread's. -/
def pktCluster (where_ : Nat → Option Nat) (k : Pkt) : Option Nat :=
  match k.body.goal.bind where_ with
  | some c => some c
  | none =>
    match k.body with
    | .gateAck .. => none
    | .gateCancel .. => none
    | .gateRet .. => none
    | .route .. => none
    | _ => if k.src.tile < 1024 then where_ k.src.tile else none

/-- Whether a packet is an answer that the area's inbox takes (R327). -/
def isAnswer : Body → Bool
  | .rrep .. => true
  | .gateReply .. => true
  | .gateFault .. => true
  | _ => false

/-- The renumbering of a partition's places under its areas' serials: `m` gives each place's. -/
def saveRenum (m : List (Nat × Nat)) : Renum :=
  let f := fun p => match m.find? (fun e => e.1 == p) with
    | some e => savedPlace e.2 p
    | none => p
  ⟨fun t => if t < 1024 then f t else t, f⟩

/-- The clusters of a partition with the serials of their areas. -/
def areaSerials (s : State) (p : Nat) : List (Nat × Nat) :=
  (part s p).cmap.zipIdx.map (fun e => (e.1, s.fresh + e.2))

/-- The places of a partition with the serials of their areas. -/
def areaPlaces (s : State) (p : Nat) : List (Nat × Nat) :=
  ((areaSerials s p).map fun e =>
    (1024 + e.1, e.2) :: (clusterContexts s e.1).map (fun x => (x.2, e.2))).flatten

/-- A cluster's saved context. -/
def savedOf (s : State) (p l c serial : Nat) (o : CurtainOp) (r : Renum) : Saved :=
  let places := areaPlaces s p
  let where_ := fun t => (places.find? (fun e => e.1 == t)).map (·.2)
  let asker := fun (k : Pkt) => ((k.body.asker s).bind (fun i => if i.tile < 1024 then where_ i.tile else none))
  let mine := s.net.filter (fun k =>
    (pktCluster where_ k).or (asker k) == some serial)
  { serial := serial, part := p, lcl := l, area := w64 (areaOff o l), asid := o.asid, phys := c,
    tiles := (clusterContexts s c).map (fun e => (e.1, e.2, (tile s e.2).renum r)),
    cluster := (cluster s c).renum r,
    swept := (mine.filter (fun k => !isAnswer k.body)).map (·.renum r),
    inbox := (mine.filter (fun k => isAnswer k.body)).map (·.renum r),
    launches := if l = 0 then (s.launches.filter (fun x => x.part == p)).map (·.renum r) else [] }

/-- The saved contexts of a partition. -/
def savedAll (s : State) (p : Nat) (o : CurtainOp) : List Saved :=
  let r := saveRenum (areaPlaces s p)
  (areaSerials s p).zipIdx.map (fun e => savedOf s p e.2 e.1.1 e.1.2 o r)

/-- The INCNT and INOVF dword of an area (R327). -/
def inboxWord (x : Saved) : Nat := min 1024 x.inbox.length + (if 1024 < x.inbox.length then 2 ^ 63 else 0)

/-- A saved tile scrubbed to zero, its running order and quotas too: they travel with the context (R327,
R332). What belongs to the physical tile stays. -/
def scrubSaved (tl : Tile) : Tile :=
  { Tile.zero with shedOff := tl.shedOff, shedStack := tl.shedStack, fwd := tl.fwd }

/-- The saved tiles and clusters vacated, each tile with its SAVED forwarding entry (R327, R330). -/
def vacateSaved (s : State) (p : Nat) (x : Saved) : State :=
  let entry := fun (lt : Nat) =>
    (⟨p, lt, .saved x.serial, 0, [], 0⟩ : FwdEntry)
  let lt := fun t => ((tilePart s t).map (·.2)).getD 0
  let s' := x.tiles.foldl (fun s' e =>
    updTile s' e.2.1 fun tl =>
      let w := scrubSaved tl
      { w with fwd := w.fwd ++ [entry (lt e.2.1)] }) s
  setCluster s' x.phys Cluster.zero

/-- A partition whose areas are complete: its contexts leave the package (R327, R332). -/
def saveFinish (s : State) (p : Nat) (o : CurtainOp) : State :=
  let s := gatherCopies s p
  let xs := savedAll s p o
  let r := saveRenum (areaPlaces s p)
  let kept := (xs.map (fun x => (x.swept ++ x.inbox).map (·.id))).flatten
  let s := xs.foldl (fun s x => vacateSaved s p x) s
  let s := { s with net := s.net.filter (fun k => !kept.contains k.id),
                    launches := s.launches.filter (fun l => l.part != p) }
  let s := renumAsked r (renumRest r s)
  let s := { s with saved := s.saved ++ xs.map (fun x => { x with inbox := x.inbox.take 1024 }),
                    fresh := s.fresh + xs.length }
  let s := updPart s p fun x => { x with run := .idle, valid := false, remaps := [] }
  curtainEnd (fwdDone s (saveClient p)) p o 0

/-- The contents and then the headers of every area written; none but a header that is complete has
V = 1 (R327). -/
def saveAreas (s : State) (p : Nat) (o : CurtainOp) : MRes × Nat :=
  let g := saveAgent s o (saveClient p)
  let cs := (part s p).cmap.zipIdx
  let serial := fun c => ((areaSerials s p).find? (fun e => e.1 == c)).map (·.2)
  let box := fun l => (((savedAll s p o)[l]?).map inboxWord).getD 0
  match writeAreas (fun b c _ => areaPieces s b c ((serial c).getD 0)) g o cs s with
  | (.ok s' _ _, _) =>
    writeAreas (fun b c l =>
      [⟨b + 8, 0xFF8, areaHeader s p l c (part s p).tstop (box l) / 2 ^ 64⟩,
       ⟨b, 8, areaHeader s p l c (part s p).tstop (box l) % 2 ^ 64⟩]) g o cs
      { s' with draws := s'.draws + (part s p).cmap.length * (8 * partsLen deviceParts + 0x40000) }
  | r => r

/-- CURTAIN_SAVE (R323, R327). Where a tile's four forwarding entries are all in use it ends STATE, as a MOVE
does (R330, R331; log 21 [DEDUCED]), and the partition stays stopped. -/
def execCurtainSave (p : Nat) (s : State) : Host.Outcome State Fault Refusal :=
  match curtainOp s p [cuSave] with
  | none => .next s
  | some o =>
    let st := curtainRefusal s p o
    if st != 0 then .next (curtainEnd s p o st)
    else if (part s p).run != .stopped || !saveReady s (partTiles s p) then .next s
    else if entriesFull s p then .next (curtainEnd s p o 1)
    else
      match saveAreas s p o with
      | (.wait s', _) => .next (keepRequests s s')
      | (.fail s' _ _, l) =>
        .next (raiseHyp (curtainEnd (fwdDone s' (saveClient p)) p o 4) 0x13
          (p * 2 ^ 48 + l * 2 ^ 40 + 4))
      | (.ok s' _ _, _) => .next (saveFinish s' p o)

/-! ### RESTORE (R328) -/

/-- Whether a header of 40 bytes is one that RESTORE takes for logical cluster L on cluster c. -/
def headerOk (s : State) (p l c n : Nat) : Bool :=
  let d := fun i => n / 2 ^ (64 * i) % 2 ^ 64
  bitOf (d 0) 63 && field (d 0) 55 48 == 1 && d 1 == areaSize && field (d 0) 47 44 == p
    && field (d 3) 6 0 == l && field (d 0) 7 0 == hmask s c

/-- The headers of the areas: 7 where one is BADAREA, else 4 where one cannot be read; with the INCNT
of each. -/
inductive Heads where
  | ok (s : State) (incnt : List Nat)
  | no (s : State) (st : Nat)
  | wait (s : State)

/-- The headers read and judged. -/
def readHeads (g : Agent) (p : Nat) (o : CurtainOp) : List (Nat × Nat) → State → Heads
  | [], s => .ok s []
  | (c, l) :: xs, s =>
    match areaRead s g (areaOff o l) 40 with
    | .wait s => .wait s
    | .fail s _ _ =>
      match readHeads g p o xs s with
      | .ok s _ => .no s 4
      | r => r
    | .ok s n _ =>
      if headerOk s p l c n then
        match readHeads g p o xs s with
        | .ok s ns => .ok s (n / 2 ^ 256 % 2 ^ 11 :: ns)
        | r => r
      else .no s 7

/-- What one area gives: the saved context behind it, with the values of its tiles' parts and of the
shared memory. -/
structure Loaded where
  x : Saved
  c : Nat
  incnt : Nat
  parts : List (Nat × List Nat)
  shm : Nat

/-- The outcome of loading areas. -/
inductive Loads where
  | ok (s : State) (ls : List Loaded)
  | fail (s : State)
  | wait (s : State)

/-- The values of the tile sections of an area. -/
def loadTiles (g : Agent) (base : Nat) : List Nat → State → Reads × List (Nat × List Nat)
  | [], s => (.ok s [], [])
  | i :: is, s =>
    match readAll g (tileParts.map (fun x => (base + sectionOff i + x.1, x.2))) s with
    | .ok s vs =>
      match loadTiles g base is s with
      | (.ok s _, rest) => (.ok s [], (i, vs) :: rest)
      | r => r
    | r => (r, [])

/-- The saved context whose key an area holds. -/
def savedFor (s : State) (key : Nat) : Option Saved :=
  (s.saved.reverse).find? (fun x => (Config.saveKey x.serial).toNat == key)

/-- The bytes that the free context of a thread draws. -/
def foreignBytes : Nat := 512

/-- A free context of a thread of partition `p` in a slot, from draw `d` (R327: not defined). It is one of
the restored partition and of no other, and holds nothing outside it (log 21 [DESIGN CHOICE]). -/
def foreignThread (p t slot d : Nat) : Thread :=
  let f := fun k n => freeBytes (d + k) n
  let bit := fun k => f k 1 % 2 == 1
  if bit 0 then Thread.none
  else
    { Thread.none with
      st := .ready, pc := w64 (f 8 8), vwSize := f 1 1 % 25, vwBase := f 2 1 % 232,
      fflags := BitVec.ofNat 13 (f 16 2), frm := BitVec.ofNat 4 (f 3 1),
      lfsr := BitVec.ofNat 32 (f 18 4), instret := w64 (f 24 8), repidx := BitVec.ofNat 15 (f 22 2),
      cuemap := w64 (f 32 8), asid := BitVec.ofNat 16 (p * 4096 + f 40 2 % 4096),
      pfcause := BitVec.ofNat 8 (f 42 1), clamped := bit 43, chkstl := bit 44, inh := bit 45,
      ppriv := f 46 1 % 2, tcause := BitVec.ofNat 8 (f 47 1), tval := w64 (f 48 8), tpc := w64 (f 56 8),
      troupe := f 4 1 % 16, prio := f 5 1 % 8, priv := f 6 1 % 2, home := t, homeSlot := slot,
      mobile := bit 7, detached := true,
      e := (List.range 8).foldl (fun m k => smSet m k (w64 (f (64 + 8 * k) 8))) [],
      cues := (List.range 8).foldl (fun m k => smSet m k
        ⟨BitVec.ofNat 32 (f (128 + 16 * k) 4), bit (132 + 16 * k), w64 (f (136 + 16 * k) 8), []⟩) [] }

/-- A free context of tile `t` of partition `p`, from draw `d` (log 21 [DESIGN CHOICE]). -/
def foreignTile (p t d : Nat) : Tile :=
  let f := fun k n => freeBytes (d + 512 * foreignBytes + k) n
  let bit := fun k => f k 1 % 2 == 1
  { Tile.zero with
    wide := bit 0, runord := w64 (f 8 8), rosetOff := BitVec.ofNat 16 (f 2 2), tqSel := f 4 1 % 16,
    ageStep := BitVec.ofNat 8 (f 5 1), tagcfg := w64 (f 16 8),
    threads := (List.range (if bit 0 then 256 else 512)).foldl (fun m k =>
      let th := foreignThread p t k (d + k * foreignBytes)
      if th.absent then m else smSet m k th) [],
    troupes := (List.range 16).foldl (fun m k => smSet m k
      ⟨f (32 + 16 * k) 2 % 513, bit (34 + 16 * k), w64 (f (40 + 16 * k) 8)⟩) [],
    cues := (List.range 256).foldl (fun m k => smSet m k
      ⟨BitVec.ofNat 32 (f (512 + 16 * k) 4), bit (516 + 16 * k), w64 (f (520 + 16 * k) 8), []⟩) [] }

/-- What stands behind an area that this package did not save, for a restore of partition `p` on cluster
`c`: free contexts on the cluster's tiles, drawn (R327, log 21 [DESIGN CHOICE]). -/
def foreignSaved (s : State) (p l c : Nat) (area : Nat) (asid : BitVec 16) : Saved × State :=
  let size := 512 * foreignBytes + 8192
  let ts := (clusterTiles c).zipIdx.filter (fun e => !harvested s e.1)
  ({ serial := s.fresh, part := p, lcl := l, area := w64 area, asid := asid, phys := c,
     tiles := ts.map (fun e => (e.2, e.1, foreignTile p e.1 (s.draws + size * e.2))),
     cluster := Cluster.zero, swept := [], inbox := [], launches := [] },
   { s with fresh := s.fresh + 1, draws := s.draws + 8 * size })

/-- One area loaded: with the context saved behind it, or, where this package did not save it, free ones. -/
def loadArea (g : Agent) (p : Nat) (base l c incnt : Nat) (s : State) : Loads :=
  match areaRead s g (base + 0x1201000) 8 with
  | .wait s => .wait s
  | .fail s _ _ => .fail s
  | .ok s key _ =>
    match (match savedFor s key with
      | none => foreignSaved s p l c base g.acc.asid
      | some x => (x, s)) with
    | (x, s) =>
      match loadTiles g base (x.tiles.map (·.1)) s with
      | (.wait s, _) => .wait s
      | (.fail s, _) => .fail s
      | (.ok s _, ps) =>
        match areaRead s g (base + 0x1001000) shmSize with
        | .wait s => .wait s
        | .fail s _ _ => .fail s
        | .ok s v _ => .ok s [{ x := x, c := c, incnt := incnt, parts := ps, shm := v }]

/-- Every area loaded. -/
def loadAreas (g : Agent) (p : Nat) (o : CurtainOp) : List ((Nat × Nat) × Nat) → State → Loads
  | [], s => .ok s []
  | ((c, l), n) :: xs, s =>
    match loadArea g p (areaOff o l) l c n s with
    | .ok s a =>
      match loadAreas g p o xs s with
      | .ok s b => .ok s (a ++ b)
      | r => r
    | r => r

/-- The places of loaded contexts: saved number and present one. -/
def loadPlaces (ls : List Loaded) : List (Nat × Nat) :=
  (ls.map fun a =>
    (savedPlace a.x.serial (1024 + a.x.phys), 1024 + a.c) ::
      a.x.tiles.map (fun e => (savedPlace a.x.serial e.2.1, (clusterTiles a.c).getD e.1 0))).flatten

/-- The renumbering of a restore. -/
def loadRenum (m : List (Nat × Nat)) : Renum :=
  let f := fun p => match m.find? (fun e => e.1 == p) with
    | some e => e.2
    | none => p
  ⟨f, f⟩

/-- A context on a tile: what belongs to the physical tile stays (R332). -/
def placeContext (phys ctx : Tile) : Tile :=
  { ctx with shedOff := phys.shedOff, shedStack := phys.shedStack, fwd := phys.fwd }

/-- One area's contexts on their tiles, stopped; its cluster; what its save swept. -/
def putLoaded (r : Renum) (s : State) (a : Loaded) : State :=
  let s := a.x.tiles.foldl (fun s e =>
    let vs := ((a.parts.find? (fun q => q.1 == e.1)).map (·.2)).getD []
    updTile s ((clusterTiles a.c).getD e.1 0) fun old =>
      placeContext old { (putParts e.2.2 vs).renum r with stopped := true }) s
  let s := setCluster s a.c { a.x.cluster.renum r with shm := writeLE [] 0 shmSize a.shm }
  { s with net := s.net ++ a.x.swept.map (·.renum r),
           launches := s.launches ++ a.x.launches.map (·.renum r) }

/-- Every SAVED forwarding entry of a partition retired (R328). -/
def retireSaved (s : State) (p : Nat) : State :=
  { s with tiles := smMap (fun _ tl =>
      { tl with fwd := tl.fwd.filter (fun e => e.part != p || e.to?.isSome) }) s.tiles }

/-- A partition restored from its areas, stopped (R328). -/
def restorePut (s : State) (p : Nat) (ls : List Loaded) : State :=
  let r := loadRenum (loadPlaces ls)
  let s := updPart s p fun x => { readEntry s p x with run := .stopped, remaps := [] }
  let s := renumAsked r (renumRest r (ls.foldl (putLoaded r) (retireSaved s p)))
  { s with net := s.net ++ (ls.map (fun a => (a.x.inbox.take a.incnt).map (·.renum r))).flatten }

/-- V of every header cleared. -/
def clearHeads (s : State) (g : Agent) (o : CurtainOp) (cs : List (Nat × Nat)) : MRes :=
  (writeAreas (fun b _ _ => [⟨b + 7, 1, 0⟩]) g o cs s).1

/-- RESTORE once its headers have been judged. -/
def restoreLoad (s0 s : State) (p : Nat) (o : CurtainOp) (g : Agent) (cs : List (Nat × Nat))
    (ns : List Nat) : Host.Outcome State Fault Refusal :=
  let bad := fun (s : State) => .next (curtainEnd (fwdDone s (saveClient p)) p o 4)
  match clearHeads s g o cs with
  | .wait s' => .next (keepRequests s0 s')
  | .fail _ _ _ => bad s
  | .ok s' _ _ =>
    match loadAreas g p o (cs.zip ns) s' with
    | .wait s' => .next (keepRequests s0 s')
    | .fail _ => bad s
    | .ok s' ls =>
      .next (curtainEnd (resumePart (restorePut (fwdDone s' (saveClient p)) p ls) p) p o 0)

/-- CURTAIN_RESTORE (R323, R328): the checks at once, the load at T. An area that this package did not save
is loaded as any other, with free contexts: R327 does not define its outcome for the partition. -/
def execCurtainRestore (p : Nat) (s : State) : Host.Outcome State Fault Refusal :=
  match curtainOp s p [cuRestore] with
  | none => .next s
  | some o =>
    let st := curtainRefusal s p o
    if st != 0 then .next (curtainEnd s p o st)
    else
      let g := saveAgent s o (saveClient p)
      let cs := (entryClusters s p).zipIdx
      match readHeads g p o cs s with
      | .wait s' => .next (keepRequests s s')
      | .no s' st => .next (curtainEnd (fwdDone s' (saveClient p)) p o st)
      | .ok s' ns => if atBoundary s o then restoreLoad s s' p o g cs ns else .next s

end Sys2Proof.Machine
end

