-- ==== Sys2Proof/Machine/Migr.lean ====
section
/-! DEFINITION. Live migration (R329 to R333): MOVE, RETIRE, and the packets that forwarding entries
redirect. -/

namespace Sys2Proof.Machine

/-- STATE. -/
def mgState : Nat := 1
/-- NODEST. -/
def mgNoDest : Nat := 2
/-- FULL. -/
def mgFull : Nat := 3
/-- BADCMD. -/
def mgBad : Nat := 4
/-- PENDING. -/
def mgPending : Nat := 5
/-- NOENTRY. -/
def mgNoEntry : Nat := 6

/-- The migration in progress of a partition with this OP; one that is BADCMD for its OP alone is a
MOVE here. -/
def migrOp (s : State) (p op : Nat) : Option CurtainOp :=
  (part s p).op.filter (fun o => o.migr && (if o.op = 1 then op == 1 else op == 0))

/-! ### MOVE (R331, R332) -/

/-- Whether a destination is free (R331). -/
def destFree (s : State) (t : Nat) : Bool :=
  !harvested s t && !clusterOwned s (tileCluster t)
    && (tile s t).threads.all (fun e => !e.2.live) && (tile s t).fwd.isEmpty

/-- The status that refuses a MOVE: that of the earliest row of R331; 0 for none. -/
def moveRefusal (s : State) (p : Nat) (o : CurtainOp) : Nat :=
  match ltilePhys s p o.ltile with
  | none => mgBad
  | some src =>
    if o.bad then mgBad
    else if (part s p).run != .running || decide (4 ≤ (tile s src).fwd.length) then mgState
    else if !destFree s o.phys then mgNoDest
    else if 16 ≤ (part s p).remaps.length then mgFull
    else 0

/-- The threads of a tile that wait for a pair-merge operation: slot and INSTRET (R333). -/
def pmWaiting (tl : Tile) : List (Nat × Word) :=
  (tl.threads.filter (fun e => match e.2.wait? with
    | some (.pmx ..) => true
    | some .pmsend => true
    | some (.pmrecv ..) => true
    | _ => false)).map (fun e => (e.1, e.2.instret))

/-- Whether a packet turns into an answer to its thread. -/
def Body.answers : Body → Bool
  | .gload .. => true
  | .probe .. => true
  | .gamo .. => true
  | .port .. => true
  | .cueSig .. => true
  | .gateReq .. => true
  | .gateCommit .. => true
  | _ => false

/-- What will still answer to tile `src` once its context has left it for `dst` (R330): requests on their
way, swap and translation commands. -/
def viaOf (s : State) (src dst : Nat) : List (Nat × Nat × Nat) :=
  let pkts := s.net.filter (fun k => k.src.tile == src && k.body.answers && !k.body.homeward)
  let swaps := (s.swapArrivals ++ s.swapQueue).filter (fun c => c.2.snap.home == src)
  let xls := s.xl.filter (fun c => c.tile == src)
  (pkts.map (·.id) ++ swaps.map (·.2.id) ++ xls.map (·.id)).map (fun n => (n, src, dst))

/-- A thread whose context is moving with its tile (R331). -/
def Thread.depart (th : Thread) : Thread :=
  if th.live then
    match th.st with
    | .migrating _ => th
    | st => { th with st := .migrating st }
  else th

/-- Whether a tile holds a thread that is being displaced, or awaits one. -/
def displacing (tl : Tile) : Bool :=
  tl.threads.any fun e => match e.2.st with
    | .migrating _ => true
    | .arriving _ => true
    | _ => false

/-- The context of tile `src`, stopped, on its way to tile `dst`, which holds what arrives for it (R331
steps 2 to 5). -/
def moveTile (s : State) (p lt src dst : Nat) : State :=
  let r := Renum.move src dst
  let tl := tile s src
  let s := { s with via := s.via ++ viaOf s src dst }
  let entry : FwdEntry :=
    { part := p, ltile := lt, kind := .migrated dst, count := 0, pm := pmWaiting tl,
      asked := s.fresh }
  let s := copiesTo s src (tileCluster dst)
  let s := setTile (setTile s dst (placeContext (tile s dst) tl)) src
    (let w := scrubTile tl
     { w with rosets := [], fwd := w.fwd ++ [entry] })
  let s := renumPlaces r (renumRest r s)
  let s := updTile s dst fun tl =>
    { tl with stopped := true, threads := smMap (fun _ => Thread.depart) tl.threads }
  updPart s p fun x =>
    { x with remaps := x.remaps.filter (fun e => e.1 != lt) ++ [(lt, dst)] }

/-- The source tile has stopped: its context leaves it once no understudy lags behind its leader (R331
steps 2 to 5). -/
def moveOff (s : State) (p : Nat) (o : CurtainOp) : State :=
  match ltilePhys s p o.ltile with
  | none => s
  | some src =>
    if pairsLevel (tile s src) then setMoving (moveTile s p o.ltile src o.phys) p 2 else s

/-- The context has come: what was swept and held is delivered, then the threads become ready or resume
their waits (R331 step 6). The issuer's own record and cue may lie on the tile that has moved. -/
def moveArrive (s : State) (p : Nat) (o : CurtainOp) : State :=
  let s := releaseHeld s (s.net.filter (pktHeld s)) [o.phys]
  let s := updTile s o.phys fun tl =>
    { tl with threads := smMap (fun _ => takeUp s.cycle) tl.threads }
  curtainEnd s p (((part s p).op).getD o) 0

/-- MIGR_MOVE (R331): the checks and the stop at a rotation boundary, the move, and at a boundary that the
device chooses the arrival (log 11 [DESIGN CHOICE]). -/
def execMigrMove (p : Nat) (s : State) : Host.Outcome State Fault Refusal :=
  match migrOp s p 0 with
  | none => .next s
  | some o =>
    if o.moving = 0 then
      let st := moveRefusal s p o
      if st != 0 then .next (curtainEnd s p o st)
      else
        let src := (ltilePhys s p o.ltile).getD 0
        if !atBoundary s o || displacing (tile s src) then .next s
        else .next (moveOff (setMoving (stopTiles s [src]) p 1) p o)
    else if o.moving = 1 then .next (moveOff s p o)
    else if !atBoundary s o then .next s
    else
      let (c, s) := draw s
      .next (if c % 2 = 0 then moveArrive s p o else setMoving s p 2)

/-! ### RETIRE (R333) -/

/-- The forwarding entry for a logical tile at a vacated tile. -/
def retireEntry (s : State) (p : Nat) (o : CurtainOp) : Option FwdEntry :=
  (tile s o.phys).fwd.find? (fun e => e.part == p && e.ltile == o.ltile && e.to?.isSome)

/-- Whether a thread still waits for the pair-merge operation it waited for when it left. -/
def pmPending (s : State) (p : Nat) (e : FwdEntry) : Bool :=
  match ltilePhys s p e.ltile with
  | none => false
  | some t => e.pm.any (fun x => (pmWaiting (tile s t)).contains x)

/-- Whether an operation that a moved thread issued before its migration has not answered (R333): its
number lies below those given out since. -/
def retirePending (s : State) (p : Nat) (o : CurtainOp) (e : FwdEntry) : Bool :=
  let mine := fun (i : Tid) (n : Nat) => i.tile == o.phys && decide (n < e.asked)
  -- a request on its way to the memory of the package is none of these operations
  let plain := fun (n : Nat) => s.net.any (fun k => k.id == n && (k.body.homeward || (match k.body with
    | .gload .. => true
    | .probe .. => true
    | .gamo .. => true
    | _ => false)))
  s.gates.any (fun g => g.2.waiters.any (fun w => mine w.tid w.token))
    || (s.swapArrivals ++ s.swapQueue).any (fun c => mine c.2.snap.tid c.2.id)
    || s.swapEntries.any (fun x => mine x.snap.tid x.cmd)
    || s.via.any (fun v => v.2.1 == o.phys && e.to? == some v.2.2 && !plain v.1)
    || s.outst.any (fun x => decide (x.kind < 5) && mine x.tid x.id) || pmPending s p e

/-- A packet of a departed identifier forwarded one step: its thread, and what it names, become the
destination's (R330). -/
def forwardTo (s : State) (k : Pkt) (i : Tid) (n t : Nat) : State :=
  let j : Tid := ⟨t, i.slot⟩
  let s := countFwd s i.tile n
  match k.body with
  | .msg _ v => setBody s k.id (.msg j v)
  | .rrep tag _ _ =>
    { s with outst := s.outst.map (fun o => if o.rtag = tag then { o with tid := j } else o) }
  | _ => { s with net := s.net.map (fun q => if q.id = k.id then { q with src := j } else q) }

/-- The thread that a packet reaches, for forwarding (R330). -/
def fwdTarget (s : State) (k : Pkt) : Option Tid :=
  match k.body with
  | .msg i _ => some (homePlace s i)
  | .rrep tag _ _ => (s.outst.find? (fun o => o.rtag == tag)).map (·.tid)
  | b => if b.homeward then some k.src else none

/-- Whether a full inbox discards a packet (R243, R327): a message, a remote write, a posted signal. What
awaits an answer stays on its way (log 21 [DESIGN CHOICE]). -/
def Body.losable : Body → Bool
  | .msg .. => true
  | .cueSig .. => true
  | .port _ _ _ _ posted => posted.isSome
  | _ => false

/-- A packet discarded: a message is lost, a posted write or signal counts as failed (R243, R327). -/
def discard (s : State) (k : Pkt) : State :=
  match k.body with
  | .msg .. => sendDone (dropPkt s k.id) k.src
  | .cueSig _ _ _ w => setBody s k.id (.ack true none (some w))
  | .port _ _ _ _ (some (t, ea)) => setBody s k.id (.ack false (some t) (some ea))
  | _ => dropPkt s k.id

/-- A packet counted at the SAVED entry of a tile (R330). -/
def countSaved (s : State) (t serial : Nat) : State :=
  updTile s t fun tl =>
    { tl with fwd := tl.fwd.map (fun e =>
        if e.kind = .saved serial then { e with count := e.count + 1 } else e) }

/-- An arrival at tile `t` for a saved context appended to its area's inbox (R327): INCNT grows in the
area's header, or the arrival is discarded and INOVF set. -/
def inboxPut (s : State) (serial t : Nat) (k : Pkt) : State :=
  match s.saved.find? (fun x => x.serial == serial) with
  | none => discard s k
  | some x =>
    let room := decide (x.inbox.length < 1024)
    if !room && !k.body.losable then s
    else
      let a : Acc := { asid := x.asid, priv := 3, write := true, fetch := false,
                       client := saveClient x.part }
      let v := if room then x.inbox.length + 1 else 2 ^ 63 + 1024
      match gWrite s a ((pOff x.area + 32) % 2 ^ 52) 8 v (fullMask 8) with
      | .wait s' => keepRequests s s'
      | .fault s' _ => discard (countSaved s' t serial) k
      | .ok s' _ _ =>
        let s' := countSaved s' t serial
        if room then
          { dropPkt s' k.id with saved := s'.saved.map (fun y =>
              if y.serial = serial then { y with inbox := y.inbox ++ [k] } else y) }
        else discard s' k

/-- The serial of the saved context behind a place, if the identifier's context is saved. -/
def savedSerial (s : State) (i : Tid) : Option Nat :=
  if savedBase ≤ i.tile then some (i.tile / savedBase - 1)
  else
    (tile s i.tile).fwd.findSome? (fun e => match e.kind with
      | .saved n => some n
      | .migrated _ => none)

/-- The place of a saved context that a packet goes to (R330). -/
def savedGoal (k : Pkt) : Option Nat :=
  match k.body with
  | .port p .. => if savedBase ≤ p then some p else none
  | .cueSig t .. => if savedBase ≤ t then some t else none
  | .pmx t .. => if savedBase ≤ t then some t else none
  | .pmsend t .. => if savedBase ≤ t then some t else none
  | _ => none

/-- Whether a packet is an answer that a tile still has to redirect to the context that left it (R330). -/
def viaDue (s : State) (k : Pkt) : Bool := k.body.homeward && s.via.any (fun v => v.1 == k.id)

/-- FORWARD_PACKET (R330): a packet that reached a tile for a context that has left it. -/
def execForwardPacket (id : Nat) (s : State) : Host.Outcome State Fault Refusal :=
  match pktOf s id with
  | none => .next s
  | some k =>
    if viaDue s k then .next (passVia s id)
    else
    match savedGoal k, fwdTarget s k with
    | some p, _ => .next (inboxPut s (p / savedBase - 1) (p % savedBase) k)
    | none, none => .next s
    | none, some i =>
      if !departed s i then .next s
      else
        match fwdEntryOf s i with
        | some (n, t) => .next (forwardTo s k i n t)
        | none =>
          match savedSerial s i with
          | none => .next s
          | some serial =>
            -- a message that names the vacated tile names the saved context from now on
            let k := match k.body with
              | .msg _ v => { k with body := .msg ⟨savedPlace serial i.tile, i.slot⟩ v }
              | _ => k
            .next (inboxPut s serial (i.tile % savedBase) k)

/-- The packets in flight for a vacated tile. -/
def retireForward (s : State) (o : CurtainOp) : State :=
  (s.net.filter (fun k => viaDue s k || ((fwdTarget s k).map (fun i => i.tile == o.phys)).getD false)).foldl
    (fun s k => nextOf s (execForwardPacket k.id s)) s

/-- MIGR_RETIRE (R333). -/
def execMigrRetire (p : Nat) (s : State) : Host.Outcome State Fault Refusal :=
  match migrOp s p 1 with
  | none => .next s
  | some o =>
    if o.bad then .next (curtainEnd s p o mgBad)
    else
      match retireEntry s p o with
      | none => .next (curtainEnd s p o mgNoEntry)
      | some e =>
        if retirePending s p o e then .next (curtainEnd s p o mgPending)
        else
          let s := retireForward s o
          let n := ((retireEntry s p o).map (·.count)).getD e.count
          let s := updTile s o.phys fun tl =>
            { tl with fwd := tl.fwd.filter (fun x => !(x.part == p && x.ltile == o.ltile && x.to?.isSome)) }
          let s := { s with via := s.via.filter (fun v => v.2.1 != o.phys || e.to? != some v.2.2) }
          .next (curtainEnd (placeWrite s o.tile (o.rec_ + 16) 4 (n % 2 ^ 32) 0 (ltileOf s o.tile)) p o 0)

end Sys2Proof.Machine
end

