-- ==== Sys2Proof/Machine/Torus.lean ====
section
/-! DEFINITION. The torus ports and routers (R334 to R342): flits, link control, replay, credits,
routing, retraining and failure. Ports are numbered by their PORTEN bit: +x, −x, +y, −y, +z, −z are 0
to 5; 6 stands for the package itself. -/

namespace Sys2Proof.Machine

/-! ### Ports (R334) -/

/-- A torus port. -/
def port (s : State) (i : Nat) : Port := smGet Port.zero s.ports i

/-- A port changed. -/
def updPortT (s : State) (i : Nat) (f : Port → Port) : State :=
  { s with ports := smSet s.ports i (f (port s i)) }

/-- Coordinate `d` of a coordinate word: 0 x, 1 y, 2 z. -/
def coordOf (c d : Nat) : Nat := c / 2 ^ (8 - 4 * d) % 16

/-- The extent of a dimension. -/
def extent (s : State) (d : Nat) : Nat := coordOf s.mgmt.cfg.dims d + 1

/-- Whether a port is up: its dimension's extent is above 1 and PORTEN has its bit (R334, R357). -/
def portUp (s : State) (i : Nat) : Bool :=
  decide (i < 6) && decide (1 < extent s (i / 2)) && bitOf s.mgmt.cfg.porten i

/-- Whether a port carries flits. -/
def portLive (s : State) (i : Nat) : Bool :=
  portUp s i && !(port s i).failed && !(port s i).retraining

/-! ### Sending (R335, R339, R340) -/

/-- The set of a class and virtual channel (R336). -/
def setOf (cls vc : Nat) : Nat := 4 * (cls % 16) + vc % 4

/-- The number of the pool's count. -/
def poolSet : Nat := 64

/-- Places of `n` that a packet takes in its set when `used` are taken there; the rest are of the
pool (R339). -/
def takeRes (used n : Nat) : Nat := min n (9 - used)

/-- The bytes that a flit's CRC covers (R335). -/
def flitBytes (flit : BitVec 512) (link : BitVec 32) : List Nat :=
  nbytes 64 flit.toNat ++ nbytes 4 link.toNat

/-- What goes onto the wire for a flit: the flit, its link word, and the CRC-32C over both (R335). -/
def wireFlit (flit : BitVec 512) (link : BitVec 32) : BitVec 512 × BitVec 32 × BitVec 32 :=
  (flit, link, BitVec.ofNat 32 (crc32c (flitBytes flit link)))

/-- The cumulative acknowledgement that a port sends (R340): every flit before the header of the packet
in progress, to which a NAK may still go back, or every flit taken (log 13 [DEDUCED]). -/
def ackSeq (p : Port) : BitVec 12 := ((p.progress.map (·.seq)).getD p.rxSeq) - 1

/-- A flit put on the wire with its link word, and kept for replay (R335, R340). -/
def sendFlit (s : State) (i : Nat) (flit : BitVec 512) (vc : Nat) (stomp lcf : Bool) : State :=
  updPortT s i fun p =>
    let link := BitVec.ofNat 32 (p.txSeq.toNat * 2 ^ 20 + (ackSeq p).toNat * 2 ^ 8 + vc % 4 * 2 ^ 6
      + (if stomp then 32 else 0) + (if lcf then 16 else 0))
    { p with txSeq := p.txSeq + 1, replay := p.replay ++ [(p.txSeq, flit, link)],
             out := p.out ++ [wireFlit flit link] }

/-- Whether `n` flits fit in the replay buffer of 512 (R340). -/
def replayRoom (p : Port) (n : Nat) : Bool := decide (p.replay.length + n ≤ 512)

/-- A link control flit of a NAK and counts (R336). -/
def controlFlit (nak : Option (BitVec 12)) (freed : SMap Nat) : BitVec 512 :=
  let head := match nak with
    | some q => 1 + q.toNat * 2 ^ 16
    | none => 0
  let sets := packChunks 4 ((List.range 64).map (fun k => min 9 (smGet 0 freed k)))
  BitVec.ofNat 512 (head + min 448 (smGet 0 freed poolSet) * 2 ^ 32 + sets * 2 ^ 256)

/-- A link control flit sent with the NAK that is due and what is freed; what a count cannot hold
stays, and while the replay buffer is full the NAK stays due (R336). -/
def sendControl (s : State) (i : Nat) : State :=
  let p := port s i
  if !replayRoom p 1 then s
  else
    let s := sendFlit s i (controlFlit p.nakDue p.freed) 0 false true
    updPortT s i fun p =>
      { p with nakDue := none, freed := (p.freed.map fun e =>
          (e.1, e.2 - (if e.1 = poolSet then 448 else 9))).filter (fun e => e.2 != 0) }

/-- A NAK that is due and freed places sent at once when the port carries flits (R336). -/
def returnCredits (s : State) (i : Nat) : State :=
  let p := port s i
  if portLive s i && (!p.freed.isEmpty || p.nakDue.isSome) then sendControl s i else s

/-- Places of a packet freed at its input port (R339). -/
def freePlaces (s : State) (i set res pool : Nat) : State :=
  if 6 ≤ i || (res = 0 && pool = 0) then s
  else
    let less := fun (m : SMap Nat) k n => smSet m k (smGet 0 m k - n)
    let more := fun (m : SMap Nat) k n => if n = 0 then m else smSet m k (smGet 0 m k + n)
    returnCredits (updPortT s i fun p =>
      { p with used := less (less p.used set res) poolSet pool,
               freed := more (more p.freed set res) poolSet pool }) i

/-! ### Receiving (R340, R341) -/

/-- Whether a link control flit keeps its reserved bits zero and its counts in range (R336). -/
def controlOk (flit : BitVec 512) : Bool :=
  let n := flit.toNat
  field n 15 1 == 0 && field n 31 28 == 0 && field n 255 42 == 0 && decide (field n 41 32 ≤ 448)
    && (chunks 4 64 (n / 2 ^ 256)).all (fun c => decide (c ≤ 9))

/-- The sender resends from a SEQ in the original order (R340). -/
def replayFrom (s : State) (i : Nat) (q : BitVec 12) : State :=
  updPortT s i fun p =>
    { p with out := p.out ++ (p.replay.dropWhile (fun e => e.1 != q)).map (fun e => wireFlit e.2.1 e.2.2) }

/-- A NAK: the link counts it, goes back to the header of the packet in progress, and says so
(R340). -/
def sendNak (s : State) (i : Nat) : State :=
  let p := port s i
  let q := (p.progress.map (·.seq)).getD p.rxSeq
  let s := updPortT s i fun p =>
    { p with naks := p.naks + 1, nakDue := some q, discarding := true, progress := none, rxSeq := q,
             again := p.again + (p.rxSeq - q).toNat }
  sendControl s i

/-- A link control flit takes effect: credits come back, a NAK is answered (R336). One that is
malformed counts as a link error and is NAKed. -/
def linkControl (s : State) (i : Nat) (flit : BitVec 512) : State :=
  if !controlOk flit then
    sendNak (updPortT s i fun p => { p with linkErrors := p.linkErrors + 1 }) i
  else
    let n := flit.toNat
    let back := fun (m : SMap Nat) (k c : Nat) => if c = 0 then m else smSet m k (smGet 0 m k - c)
    let s := updPortT s i fun p =>
      { p with credits := back (((List.range 64).zip (chunks 4 64 (n / 2 ^ 256))).foldl
          (fun m e => back m e.1 e.2) p.credits) poolSet (field n 41 32) }
    if bitOf n 0 then replayFrom s i (BitVec.ofNat 12 (field n 27 16)) else s

/-- Replay places freed by a cumulative acknowledgement (R340). -/
def acknowledge (s : State) (i : Nat) (ack : BitVec 12) : State :=
  let p := port s i
  if p.replay.any (fun e => e.1 == ack) then
    returnCredits (updPortT s i fun p =>
      { p with replay := (p.replay.dropWhile (fun e => e.1 != ack)).drop 1 }) i
  else s

/-- A packet whose last flit has come (R337, R339, R341): it waits at this router. One with a reserved
TYPE is counted and discarded, one that was stomped is discarded where it is for this package. -/
def packetIn (s : State) (i : Nat) (x : Incoming) (stomp : Bool) : State :=
  let h := unpackHdr (x.flits.headD 0)
  let set := setOf h.pcls x.vc
  let n := x.flits.length
  let p := port s i
  let res := takeRes (smGet 0 p.used set) n
  let more := fun (m : SMap Nat) k n => smSet m k (smGet 0 m k + n)
  let s := updPortT s i fun p =>
    { p with used := more (more p.used set res) poolSet (n - res) }
  if 9 ≤ h.typ || 8 < h.len then
    freePlaces (updPortT s i fun p => { p with linkErrors := p.linkErrors + 1 }) i set res (n - res)
  else
    send s deadTid (2 ^ 16 + h.dst) (.route i x.flits x.vc stomp res (n - res))

/-- A good flit of a packet (R340). -/
def flitIn (s : State) (i : Nat) (q : BitVec 12) (vc : Nat) (stomp : Bool) (flit : BitVec 512) :
    State :=
  let x : Incoming := match (port s i).progress with
    | some x => { x with left := x.left - 1, flits := x.flits ++ [flit] }
    | none => { seq := q, left := (unpackHdr flit).len, vc := vc, flits := [flit] }
  if stomp || x.left = 0 then packetIn (updPortT s i fun p => { p with progress := none }) i x stomp
  else updPortT s i fun p => { p with progress := some x }

/-- What a router had begun to forward of a packet in which an error was found, the device's choice:
a part that ends with STOMP, holding no place here. `flit` is the failing flit on channel `vc`: a header
when no packet was in progress, whose DST the router may have decoded and followed before it checked the
CRC (R338, R341). -/
def stompPart (s : State) (i : Nat) (flit : BitVec 512) (vc : Nat) : State :=
  let (fl, v) := match (port s i).progress with
    | none => ([flit], vc)
    | some x => (x.flits ++ [flit], x.vc)
  let (c, s) := draw s
  let h := unpackHdr (fl.headD 0)
  if c % 2 = 0 || h.dst = myCoord s then s
  else send s deadTid (2 ^ 16 + h.dst) (.route i (fl.take (1 + c / 2 % fl.length)) v true 0 0)

/-- A flit accepted (R340): the next SEQ is expected; one that replay brings anew is no progress. -/
def acceptFlit (s : State) (i : Nat) (ack : BitVec 12) : State :=
  acknowledge (updPortT s i fun p =>
    { p with rxSeq := p.rxSeq + 1, naks := if p.again = 0 then 0 else p.naks, discarding := false,
             again := p.again - 1 }) i ack

/-- FLIT_RECEIVE (R335, R336, R340, R341). A link control flit that is malformed is discarded and
NAKed; one taken before its packet's replay brought it anew takes effect once. -/
def execFlitReceive (i : Nat) (flit : BitVec 512) (link crc : BitVec 32) (s : State) :
    Host.Outcome State Fault Refusal :=
  if !portLive s i then .next s
  else
    let p := port s i
    let l := link.toNat
    let q := BitVec.ofNat 12 (field l 31 20)
    let good := crc32c (flitBytes flit link) == crc.toNat
    if good && q == p.rxSeq then
      let s1 := acceptFlit s i (BitVec.ofNat 12 (field l 19 8))
      .next (if bitOf l 4 then
          if !controlOk flit then linkControl s i flit
          else if p.again = 0 then linkControl s1 i flit
          else s1
        else flitIn s1 i q (field l 7 6) (bitOf l 5) flit)
    else if p.discarding then
      -- a later flit, or the replay's own failing: the device tells them apart
      let (c, s) := draw s
      .next (if c % 2 = 0 then s else sendNak s i)
    else if good || bitOf l 4 then .next (sendNak s i)
    else .next (sendNak (stompPart s i flit (field l 7 6)) i)

/-- LINK_CONTROL_FLIT (R336). -/
def execLinkControlFlit (i : Nat) (flit : BitVec 512) (s : State) :
    Host.Outcome State Fault Refusal :=
  .next (if portLive s i then linkControl s i flit else s)

/-- LINK_REPLAY (R340). -/
def execLinkReplay (i : Nat) (nakSeq : BitVec 12) (s : State) :
    Host.Outcome State Fault Refusal :=
  .next (if portLive s i then replayFrom s i nakSeq else s)

/-! ### Routing (R338) -/

/-- The hop from coordinate `c` to `dst` along a dimension of extent `n`: + or −, and whether it
crosses the dateline; none when there is nothing to go. -/
def ringHop (n c dst : Nat) : Option (Bool × Bool) :=
  let f := (dst + n - c % n) % n
  if f = 0 then none
  else if f ≤ n - f then some (true, c + 1 == n)
  else some (false, c == 0)

/-- The next hop to a package: the port, and whether it crosses the dateline. -/
def nextHop (s : State) (dst : Nat) : Option (Nat × Bool) :=
  (List.range 3).findSome? fun d =>
    (ringHop (extent s d) (coordOf (myCoord s) d) (coordOf dst d)).map fun h =>
      (2 * d + (if h.1 then 0 else 1), h.2)

/-- The virtual channel of a hop: d is kept within a dimension, 1 from the dateline on. -/
def hopVc (inp vc out : Nat) (cls : Nat) (cross : Bool) : Nat :=
  2 * (cls % 2) + (if cross then 1 else if inp / 2 = out / 2 then vc % 2 else 0)

/-- The cause of a code in a failure reply. -/
def causeOf (n : Nat) : Cause :=
  if n = 4 then .addr else if n = 5 then .page else if n = 6 then .prot else .pageLost

/-- What a packet that has arrived for this package becomes (R94, R337, R344). -/
def arrived (h : Hdr) (flits : List (BitVec 512)) : Body :=
  let from_ := h.src + 4096 * h.pcls
  let data := (flits.map flitWords).flatten
  let off := pOff h.addr
  if h.typ ≤ 4 then
    .rreq false from_ h.rtag
      { kind := h.typ, part := h.dpart, addr := h.addr, priv := h.priv, aspc := h.aspc,
        data := if flits.isEmpty then h.data.map w64 else data }
  else if h.typ = 5 then
    .fwdHere false (fwdOpOf h.data flits) off h.dpart h.aspc h.priv from_ h.rtag
  else if h.typ = 6 then .pullHere false off h.dpart h.aspc h.priv from_ h.rtag
  else if h.typ = 7 then .rrep h.rtag (h.data.map w64 ++ data) none
  else
    let c := h.data.headD 0
    .rrep h.rtag [] (some ⟨causeOf (c / 256 % 256), c % 256⟩)

/-- A request that cannot be forwarded is answered with PAGE_LOST, LOST; a reply is discarded
(R342). -/
def unroutable (s : State) (id : Nat) (h : Hdr) : State :=
  if h.cls = 1 then dropPkt s id
  else respond s id (h.src == myCoord s) (h.src + 4096 * h.pcls) h.rtag [] [] (some lostFailure)

/-- Whether a packet is the oldest that came by its input, on its channel, for its next port. -/
def routeOldest (s : State) (id inp vc : Nat) (dst : Nat) : Bool :=
  let same := fun (k : Pkt) => match k.body with
    | .route i fl v _ _ _ =>
      i == inp && v == vc && nextHop s (unpackHdr (fl.headD 0)).dst == nextHop s dst
    | _ => false
  (s.net.find? same).map (·.id) == some id

/-- Whether the next port has room for a whole packet (R338 to R340). -/
def hopRoom (s : State) (out set n : Nat) : Bool :=
  let p := port s out
  let res := takeRes (smGet 0 p.credits set) n
  !p.retraining && replayRoom p n && decide (n - res + smGet 0 p.credits poolSet ≤ 448)

/-- The flits of a packet sent, the last one with STOMP where it is stomped. -/
def sendFlits (s : State) (out vc : Nat) (stomp : Bool) : List (BitVec 512) → State
  | [] => s
  | [f] => sendFlit s out f vc stomp false
  | f :: fs => sendFlits (sendFlit s out f vc false false) out vc stomp fs

/-- A packet sent to the next package: credits taken, flits sent, its places here freed. -/
def hopSend (s : State) (id inp out vc : Nat) (flits : List (BitVec 512)) (stomp : Bool)
    (cls : Nat) (set res pool : Nat) : State :=
  let n := flits.length
  let to_ := setOf cls vc
  let take := takeRes (smGet 0 (port s out).credits to_) n
  let more := fun (m : SMap Nat) k n => if n = 0 then m else smSet m k (smGet 0 m k + n)
  let s := updPortT s out fun p => { p with credits := more (more p.credits to_ take) poolSet (n - take) }
  freePlaces (sendFlits (dropPkt s id) out vc stomp flits) inp set res pool

/-- PACKET_ROUTE (R338, R341, R342). -/
def execPacketRoute (id : Nat) (s : State) : Host.Outcome State Fault Refusal :=
  match pktOf s id with
  | some k =>
    match k.body with
    | .route inp flits vc stomp res pool =>
      let h := unpackHdr (flits.headD 0)
      let set := setOf h.pcls vc
      if !routeOldest s id inp vc h.dst then .next s
      else if h.dst = myCoord s then
        let s' := if stomp then dropPkt s id else setBody s id (arrived h flits.tail)
        .next (freePlaces s' inp set res pool)
      else
        match nextHop s h.dst with
        | none => .next (freePlaces (unroutable s id h) inp set res pool)
        | some (out, cross) =>
          if !portUp s out || (port s out).failed then
            .next (freePlaces (if stomp then dropPkt s id else unroutable s id h) inp set res pool)
          else
            let v := hopVc inp vc out h.cls cross
            if hopRoom s out (setOf h.pcls v) flits.length then
              .next (hopSend s id inp out v flits stomp h.pcls set res pool)
            else .next s
    | _ => .next s
  | none => .next s

/-! ### Retraining and failure (R342) -/

/-- The cycles within which a link must retrain. -/
def retrainLimit : Nat := 1500000

/-- LINK_RETRAIN (R342): eight NAKs without progress. -/
def execLinkRetrain (i : Nat) (s : State) : Host.Outcome State Fault Refusal :=
  if portLive s i && decide (8 ≤ (port s i).naks) then
    .next (updPortT s i fun p => { p with retraining := true, since := s.cycle })
  else .next s

/-- LINK_RETRAINED (R342): a retraining link carries flits again. -/
def execLinkRetrained (i : Nat) (s : State) : Host.Outcome State Fault Refusal :=
  let p := port s i
  if p.retraining && !p.failed && decide (s.cycle < p.since + retrainLimit) then
    .next (returnCredits (updPortT s i fun p => { p with retraining := false, naks := 0 }) i)
  else .next s

/-- LINK_FAIL (R342). -/
def execLinkFail (i : Nat) (s : State) : Host.Outcome State Fault Refusal :=
  let p := port s i
  if p.retraining && !p.failed && decide (p.since + retrainLimit ≤ s.cycle) then
    .next (updPortT s i fun p => { p with failed := true })
  else .next s

end Sys2Proof.Machine
end

