-- ==== Sys2Proof/Machine/Mgmt.lean ====
section
/-! DEFINITION. The management controller (R350 to R362): starts and their steps, the first
hypervisor thread, attestation, alarms, trips and telemetry; the control link's memory requests and
time (R347, R348). -/

namespace Sys2Proof.Machine

/-! ### Stopping and starting (R350 to R355) -/

/-- BOOT. -/
def stBoot : Nat := 0
/-- SAFE. -/
def stSafe : Nat := 1
/-- READY. -/
def stReady : Nat := 2

/-- REASON codes (R351). -/
def rsPuf : Nat := 1
/-- SIGNATURE. -/
def rsSignature : Nat := 2
/-- BINDING. -/
def rsBinding : Nat := 3
/-- BIST. -/
def rsBist : Nat := 4
/-- TRAIN. -/
def rsTrain : Nat := 5
/-- MEMTEST. -/
def rsMemtest : Nat := 6
/-- FIRMWARE. -/
def rsFirmware : Nat := 7
/-- ALARM. -/
def rsAlarm : Nat := 8
/-- TRIP. -/
def rsTrip : Nat := 9

/-- The package stopped (R354): no context, buffer or commit survives, and every item takes its reset
value (R353); HBM4E, with what saved areas in it hold (R327), the controller and the time base stay. -/
def stopAll (s : State) : State :=
  { State.reset with
    inputs := s.inputs, draws := s.draws, fresh := s.fresh, timeNs := s.timeNs,
    timeFollows := s.timeFollows, ticks := s.timeNs / 65536, sheetTime := s.timeNs, hbm := s.hbm,
    saved := s.saved, mgmt := { s.mgmt with hlstat := 0, desc := [] } }

/-- The controller in SAFE with a reason. -/
def toSafe (s : State) (reason : Nat) : State :=
  { s with mgmt := { s.mgmt with state := stSafe, reason := reason } }

/-- A start begun (R353, R355): the package stops, BOOT, BOOTCNT counts it. -/
def beginStart (s : State) (warm : Bool) : State :=
  let s := stopAll s
  { s with mgmt := { s.mgmt with
      state := stBoot, warm := warm, reason := 0, step := 0, fwMeasured := 0, attesting := false,
      bootcnt := (s.mgmt.bootcnt + 1) % 2 ^ 32 } }

/-- Whether a warm start runs as one (R353). -/
def warmAllowed (m : Mgmt) : Bool :=
  m.keyStore && m.training
    && !(m.state == stSafe
      && (m.reason == rsPuf || m.reason == rsTrain || m.reason == rsMemtest || m.reason == rsAlarm))

/-- A request of a cold start; one in BOOT is ignored (R355). -/
def resetCold (s : State) : State := if s.mgmt.state = stBoot then s else beginStart s false

/-- A request of a warm start, which runs as R353 states; one in BOOT is ignored (R355). -/
def resetWarm (s : State) : State :=
  if s.mgmt.state = stBoot then s else beginStart s (warmAllowed s.mgmt)

/-- RESET_COLD (R355). -/
def execResetCold (s : State) : Host.Outcome State Fault Refusal := .next (resetCold s)

/-- RESET_WARM (R353, R355). -/
def execResetWarm (s : State) : Host.Outcome State Fault Refusal := .next (resetWarm s)

/-- POWER_UP (R355). -/
def execPowerUp (s : State) : Host.Outcome State Fault Refusal := .next (beginStart s false)

/-! ### The configuration record (R357, R358) -/

/-- `n` bytes of the controller's flash as a number. -/
def flashLE (m : Mgmt) (o n : Nat) : Nat := readLE m.flash o n

/-- LENGTH. -/
def recLength (m : Mgmt) : Nat := flashLE m 8 8

/-- The shed order of a tile: the positions in order. -/
def recShed (m : Mgmt) (t : Nat) : List Nat := chunks 4 16 (flashLE m (0x100 + 8 * t) 8)

/-- Whether a shed order lists every position once, those of isolated troupes last; after a start
every position is troupe 0's (R252). -/
def shedOk (isol : Nat) (l : List Nat) : Bool :=
  let isolated := fun (_ : Nat) => bitOf isol 0
  (List.range 16).all (fun p => l.contains p)
    && (List.range 15).all (fun k => !isolated (l.getD k 0) || isolated (l.getD (k + 1) 0))

/-- Whether a record passes the checks of R358 but for its signature. -/
def recordOk (m : Mgmt) : Bool :=
  let d0 := flashLE m 0 8
  let geom := flashLE m 0x30 8
  let therm := flashLE m 0x38 8
  let len := recLength m
  d0 % 2 ^ 32 == 0x58435231 && field d0 47 32 == 1 && field d0 63 48 == 0
    && decide (0x2280 ≤ len) && decide (len ≤ 0x10000)
    && field geom 63 36 == 0 && field geom 11 6 == 0 && field therm 47 42 == 0
    && flashLE m 0xF0 16 == 0
    && decide (field therm 11 0 < field therm 23 12) && decide (field therm 23 12 < field therm 35 24)
    && (List.range 1024).all (fun t => shedOk (field therm 63 48) (recShed m t))

/-- The fields of a record. -/
def readRecord (m : Mgmt) : CfgRecord :=
  let geom := flashLE m 0x30 8
  let therm := flashLE m 0x38 8
  let map := flashLE m 0x40 128
  { harvest := (List.range 1024).filter (bitOf map),
    coord := field geom 27 24 * 256 + field geom 31 28 * 16 + field geom 35 32,
    dims := field geom 15 12 * 256 + field geom 19 16 * 16 + field geom 23 20,
    porten := field geom 5 0, isol := field therm 63 48, polTamp := field therm 41 40,
    polGlt := field therm 39 38, polClk := field therm 37 36, ttrip := field therm 35 24,
    thot := field therm 23 12, tcool := field therm 11 0,
    shed := (List.range 1024).map (fun t => (t, flashLE m (0x100 + 8 * t) 8)),
    fwHash := flashLE m 0xC0 32 }

/-- Whether bytes end in a signature of 384 bytes, by the record key, over the bytes before it
(R358). -/
def selfSigned (bs : List Byte) : Bool :=
  let n := bs.length - 384
  decide (384 ≤ bs.length) && rsaVerify Config.recordKey Config.recordExp (bs.take n) (bs.drop n)

/-- The firmware image in the flash. -/
def firmwareImage (m : Mgmt) : List Byte := readBytes m.flash (flashLE m 0xE8 8) (flashLE m 0xE0 8)

/-- Whether the firmware image passes (R352 step 5). -/
def firmwareOk (m : Mgmt) : Bool :=
  let len := flashLE m 0xE0 8
  let off := flashLE m 0xE8 8
  off % 4096 == 0 && decide (recLength m ≤ off) && decide (off + len ≤ m.flashSize)
    && sha256Nat (firmwareImage m) == m.cfg.fwHash && selfSigned (firmwareImage m)

/-! ### The steps of a start (R352, R353) -/

/-- Step 1: the key. -/
def bootKey (s : State) : State :=
  if Config.pufOk s.mgmt.bootcnt then { s with mgmt := { s.mgmt with keyStore := true } }
  else toSafe { s with mgmt := { s.mgmt with keyStore := false } } rsPuf

/-- Step 2: the record. -/
def bootRecord (s : State) : State :=
  let m := s.mgmt
  let len := recLength m
  if !recordOk m || !selfSigned (readBytes m.flash 0 len) then toSafe s rsSignature
  else if flashLE m 0x10 32 != Config.identityHash then toSafe s rsBinding
  else { s with mgmt := { m with cfg := readRecord m } }

/-- Every SRAM byte written zero with valid check bits: tiles, cluster shared memories and slices (R352). -/
def clearSram (s : State) : State :=
  { s with tiles := State.reset.tiles, clusters := State.reset.clusters, lines := State.reset.lines }

/-- Step 3: the self-test of every tile but the harvested ones and of every other SRAM array, which are
then cleared. -/
def bootBist (s : State) : State :=
  let n := s.mgmt.bootcnt
  if Config.bistOk n && (List.range 1024).all (fun t => harvested s t || Config.tileOk n t) then clearSram s
  else toSafe s rsBist

/-- Step 4: training, and every frame zero under S32. -/
def bootTrain (s : State) : State :=
  let n := s.mgmt.bootcnt
  if !Config.trainOk n then toSafe { s with mgmt := { s.mgmt with training := false } } rsTrain
  else
    let s := { s with hbm := [], saved := [], mgmt := { s.mgmt with training := true } }
    if Config.memTestOk n then s else toSafe s rsMemtest

/-- Step 5: the firmware, its hash recorded, then READY. -/
def bootFirmware (s : State) : State :=
  let m := s.mgmt
  if firmwareOk m then
    { s with mgmt := { m with state := stReady, fwMeasured := sha256Nat (firmwareImage m) } }
  else toSafe s rsFirmware

/-- The next step of the start in progress: 1 to 5, or 2, 3 and 5 of a warm one. -/
def bootStep (s : State) : State :=
  let m := s.mgmt
  let n := if m.warm && (m.step = 0 || m.step = 3) then m.step + 2 else m.step + 1
  let s := { s with mgmt := { m with step := n } }
  if n = 1 then bootKey s else if n = 2 then bootRecord s else if n = 3 then bootBist s
  else if n = 4 then bootTrain s else bootFirmware s

/-! ### Registers of the management window (R351, R356) -/

/-- BOOTST (R351). -/
def bootst (m : Mgmt) : Nat :=
  m.bootcnt % 2 ^ 32 * 2 ^ 32 + m.step % 256 * 2 ^ 16 + m.reason % 256 * 2 ^ 8 + m.state % 4

/-- Whether a hypervisor thread lives. -/
def hypLive (s : State) : Bool := (allThreads s).any (fun e => e.2.live && e.2.priv == 2)

/-- Bytes of a nonce stored (R359). -/
def putNonce (m : Mgmt) (o : Nat) (v : Word) : Mgmt :=
  { m with nonce := ((natBytes 8 v.toNat).zipIdx).foldl (fun n e => smSet n (o + e.2) e.1) m.nonce }

/-- HLSTAT after a refusal. -/
def hlRefuse (s : State) : State := { s with mgmt := { s.mgmt with hlstat := 2 } }

/-- The first hypervisor thread created (R356). -/
def hlCreate (s : State) (t p : Nat) (d : Desc) : State :=
  let n : NewThread := { d := d, x4 := d.arg, regs := [], launch := 0, units := [0],
                         asid := BitVec.ofNat 16 (p * 4096 + d.aspace), placed := false }
  match createThread s t true n with
  | none => hlRefuse s
  | some (j, s) =>
    let s := ownLaunch s p d.aspace j
    let th := thr s j
    let s := if th.leader then
        updThr s ⟨j.tile, th.partner⟩ fun u => { u with launch := th.launch, units := [0] }
      else s
    { s with mgmt := { s.mgmt with hlstat := w64 ((tidWord j).toNat * 256 + 1) } }

/-- A write of HLAUNCH (R356). -/
def hlaunch (v : Word) (s : State) : State :=
  let n := v.toNat
  let t := field n 41 32
  if s.mgmt.state != stReady then s
  else if n / 2 ^ 42 != 0 || field n 31 4 != 0 then hlRefuse s
  else
    match parseDesc (packChunks 64 ((List.range 8).map (fun k => (smGet 0 s.mgmt.desc k).toNat))) with
    | none => hlRefuse s
    | some d =>
      if d.priv != 2 || harvested s t || clusterOwned s (tileCluster t) then hlRefuse s
      else hlCreate s t (n % 16) d

/-- HLAUNCH (R356). -/
def execHlaunch (v : BitVec 64) (s : State) : Host.Outcome State Fault Refusal := .next (hlaunch v s)

/-! ### Attestation (R359) -/

/-- A write of 1 at 0x0120; one while an attestation is under way changes nothing. -/
def attestStart (s : State) : State :=
  if s.mgmt.state = stBoot || s.mgmt.attesting then s
  else { s with mgmt := { s.mgmt with attesting := true, attestAge := 0 } }

/-- ATTEST_START (R359). -/
def execAttestStart (s : State) : Host.Outcome State Fault Refusal := .next (attestStart s)

/-- SHA-256 of the record in the flash; one whose LENGTH passes the flash's end ends with the flash
(log 8 [DEDUCED]). -/
def recordHash (m : Mgmt) : Nat := sha256Nat (readBytes m.flash 0 (min (recLength m) m.flashSize))

/-- The bytes of a report that are signed: IDHASH and the hash are those of the record in the flash. -/
def reportBody (s : State) : List Byte :=
  let m := s.mgmt
  (List.range 32).map (smGet 0 m.nonce) ++ natBytes 32 (flashLE m 0x10 32) ++ natBytes 32 (recordHash m)
    ++ natBytes 32 m.fwMeasured ++ natBytes 8 (bootst m) ++ natBytes 8 (s.timeNs % 2 ^ 64)

/-- ATTEST_REPORT: the report at 0x0200; with the key store erased its signature is zero. -/
def execAttestReport (s : State) : Host.Outcome State Fault Refusal :=
  let m := s.mgmt
  if !m.attesting then .next s
  else
    let b := reportBody s
    let sig := if m.keyStore then rsaSign Config.identityKey Config.identityExp b
      else List.replicate 384 0
    .next { s with mgmt := { m with report := b ++ sig, attesting := false } }

/-! ### The management window (R350, R351, R355, R356, R359, R362) -/

/-- REGISTER_WRITE: a write at an offset of the management window. RESET, SPTB, the descriptor, HLAUNCH,
the nonce and the start of an attestation take it; a write that its register ignores changes nothing. -/
def execRegisterWrite (off : Nat) (v : BitVec 64) (s : State) : Host.Outcome State Fault Refusal :=
  let m := s.mgmt
  if off = 0x8 then .next (if v = 1 then resetCold s else if v = 2 then resetWarm s else s)
  else if off = 0x120 then .next (if v = 1 then attestStart s else s)
  else if m.state = stReady && off = 0x800 then
    .next (if hypLive s then s else { s with sptb := v })
  else if m.state = stReady && decide (0x840 ≤ off) && decide (off < 0x880) && off % 8 = 0 then
    .next { s with mgmt := { m with desc := smSet m.desc ((off - 0x840) / 8) v } }
  else if off = 0x880 then .next (hlaunch v s)
  else if m.state != stBoot && decide (0x100 ≤ off) && decide (off < 0x120) && off % 8 = 0
      && !m.attesting then
    .next { s with mgmt := putNonce m (off - 0x100) v }
  else .next s

/-- What a read of the doubleword at an offset of the management window returns; none where no rule
gives the offset a value to read. In BOOT only BOOTST answers, and the registers at 0x0800 to 0x08FF
answer only in READY. -/
def windowRead (s : State) (off : Nat) : Option Word :=
  let m := s.mgmt
  if off = 0 then some (w64 (bootst m))
  else if m.state = stBoot then (if 0x800 ≤ off ∧ off < 0x900 then some 0 else none)
  else if off = 0x8 then some 0
  else if off = 0x120 then some (if m.attesting then 1 else 0)
  else if 0x200 ≤ off ∧ off < 0x410 then
    some (w64 (bytesNat ((List.range 8).map (fun k => m.report.getD (off - 0x200 + k) 0))))
  else if 0x800 ≤ off ∧ off < 0x900 then
    some (if m.state != stReady then 0
      else if off = 0x800 then s.sptb
      else if 0x840 ≤ off ∧ off < 0x880 then smGet 0 m.desc ((off - 0x840) / 8)
      else if off = 0x888 then m.hlstat
      else 0)
  else if 0x1000 ≤ off ∧ off < 0x10B8 then some (smGet 0 m.telemetry ((off - 0x1000) / 8))
  else none

/-! ### Alarms, trips and telemetry (R360 to R362) -/

/-- The policy of a sensor: 0 tamper, 1 glitch, 2 clock. -/
def sensorPolicy (m : Mgmt) (kind : Nat) : Nat :=
  if kind = 0 then m.cfg.polTamp else if kind = 1 then m.cfg.polGlt else m.cfg.polClk

/-- A sensor's alarm counted. -/
def countAlarm (m : Mgmt) (kind : Nat) : Mgmt :=
  { m with alarms := smSet m.alarms kind (smGet 0 m.alarms kind + 1) }

/-- SENSOR_ALARM (R360). -/
def execSensorAlarm (kind : Nat) (s : State) : Host.Outcome State Fault Refusal :=
  if 3 ≤ kind then .next s
  else
    let pol := sensorPolicy s.mgmt kind
    let s := { s with mgmt := countAlarm s.mgmt kind }
    let erased := { s with mgmt := { s.mgmt with keyStore := false } }
    if s.mgmt.state = stBoot || 2 ≤ pol then .next (toSafe (stopAll erased) rsAlarm)
    else .next (if pol = 1 then erased else s)

/-- THERMAL_TRIP (R361). -/
def execThermalTrip (t temp : Nat) (s : State) : Host.Outcome State Fault Refusal :=
  let m := s.mgmt
  let s := { s with mgmt := { m with temps := smSet m.temps t temp } }
  if m.cfg.ttrip ≤ temp && !harvested s t then .next (toSafe (stopAll s) rsTrip) else .next s

/-- THERMAL_CHECK (R273, R361): a tile's temperature against TTRIP, THOT and TCOOL. -/
def execThermalCheck (t temp : Nat) (s : State) : Host.Outcome State Fault Refusal :=
  let m := s.mgmt
  let s := { s with mgmt := { m with temps := smSet m.temps t temp } }
  if m.state != stReady || harvested s t then .next s
  else if m.cfg.ttrip ≤ temp then .next (toSafe (stopAll s) rsTrip)
  else if m.cfg.thot < temp then .next (shedOne s t)
  else if temp < m.cfg.tcool then .next (restoreOne s t)
  else .next s

/-- The hottest tile of a die at the last checks (R362). -/
def hottest (m : Mgmt) (d : Nat) : Nat :=
  (m.temps.filter (fun e => e.1 / 256 == d)).foldl (fun h e => max h e.2) 0

/-- A measured word of the telemetry: power and coolant are those of a module, 0 on XDL880-P
(R362). -/
def measured (e : Nat × Word) : Word := if 0x14 ≤ e.1 && !Config.onModule then 0 else e.2

/-- TELEMETRY_REFRESH (R362): each die's hottest tile, the measured words of stacks, power and coolant by
their offset from 0x1000 in doublewords, and the alarm counts. -/
def execTelemetryRefresh (words : List (Nat × BitVec 64)) (s : State) :
    Host.Outcome State Fault Refusal :=
  let m := s.mgmt
  let n := fun k => smGet 0 m.alarms k % 65536
  let t := (List.range 4).foldl (fun t d => smSet t d (w64 (hottest m d))) m.telemetry
  let t := (words.filter (fun e => decide (4 ≤ e.1) && decide (e.1 < 0x16))).foldl
    (fun t e => smSet t e.1 (measured e)) t
  .next { s with mgmt := { m with
    telemetry := smSet t 0x16 (w64 (n 0 + n 1 * 2 ^ 16 + n 2 * 2 ^ 32)) } }

/-! ### The control link (R347, R348) -/

/-- TIME_SYNC (R348). -/
def execTimeSync (ns : Nat) (s : State) : Host.Outcome State Fault Refusal :=
  .next { s with timeNs := ns, timeFollows := true }

/-- NODE_TIME_LOST (R348). -/
def execNodeTimeLost (s : State) : Host.Outcome State Fault Refusal :=
  .next { s with timeFollows := false }

/-- What a function's read of a register of its window returns: zero from its doorbell, which is written
only (R6), CEOWN, UEOWN and SHARED of its partition (R280, R347); none for an error completion, in a state other than READY or where the function is not
assigned, and for an offset that is no register to read. -/
def functionRead (s : State) (fn off : Nat) : Option Word :=
  if s.mgmt.state != stReady || 128 ≤ fn || !fnValid s fn then none
  else
    let p := partOff (fnPart s fn)
    if off = 0 then some 0
    else if off = 0x100 then some (w64 (table64 s (p + 16)))
    else if off = 0x108 then some (w64 (table64 s (p + 24)))
    else if off = 0x110 then some (w64 (table64 s (p + 32)))
    else none

/-- VF_MEMORY_REQUEST (R347, R350): a function's request at its slices, behind its earlier ones; an
error completion where the package is not READY or the function is not assigned. -/
def execVfMemoryRequest (fn : Nat) (write : Bool) (off size data : Nat) (s : State) :
    Host.Outcome State Fault Refusal :=
  if s.mgmt.state != stReady || 128 ≤ fn || !fnValid s fn || size = 0 then .next s
  else
    let (n, s) := freshId s
    let k : Pkt := { id := n, src := deadTid, tgt := 0,
                     body := .vf fn (fnAsid s fn) write off size data }
    let s := { s with net := s.net ++ [k] }
    .next (if vfOldest s n fn then vfStep s n (fnAsid s fn) write off size data else s)

end Sys2Proof.Machine
end

