-- ==== Sys2Proof/Machine/Pointer.lean ====
section
/-! DEFINITION. The pointer instructions (R162 to R164). -/

namespace Sys2Proof.Machine

/-- padd's result: the pointer with its offset moved by a signed amount, if it stays within 52
bits (R162). -/
def paddVal (p : Word) (q : Int) : Option Word :=
  let o := (pOff p : Int) + q
  if o < 0 || o ≥ 2 ^ 52 then none else some (pWith p o.toNat)

/-- psub's result (R162). -/
def psubVal (p q : Word) : Word := BitVec.ofInt 64 ((pOff p : Int) - pOff q)

/-- ptag's result (R162). -/
def ptagVal (p q : Word) : Word := pWith q (pOff p)

/-- pfmt's result (R162). -/
def pfmtVal (p q : Word) : Word :=
  w64 (field q.toNat 5 0 * 2 ^ 58 + field q.toNat 9 6 * 2 ^ 54 + p.toNat % 2 ^ 54)

/-- pspc's result (R162). -/
def pspcVal (p q : Word) : Word :=
  let sp := field q.toNat 13 12
  let hi := p.toNat / 2 ^ 54 * 2 ^ 54 + sp * 2 ^ 52
  if sp = 1 || sp = 3 then w64 (hi + q.toNat % 4096 * 2 ^ 40 + p.toNat % 2 ^ 40)
  else w64 (hi + pOff p)

/-- pchk's code (R163): the first failing check of an access of `n` bytes at `p`. -/
def pchkVal (s : State) (st : Standing) (p : Word) (n : Nat) : Nat :=
  let o := pOff p
  if pFmt p ≠ 0 && !typedOk p then 1
  else if o + n > 2 ^ 52 then 2
  else
    match pSpace p with
    | 0 => 0
    | 2 => if o + n > spadSize then 2 else 0
    | 1 =>
      if o % 2 ^ 40 + n > shmSize then 2
      else match reachCluster s st (o / 2 ^ 40) with
        | .ok _ => 0
        | .error c => if c == .perm then 3 else 2
    | _ =>
      if o % 2 ^ 40 + n > spadSize then 2
      else match reachTile s st (o / 2 ^ 40) with
        | .ok _ => 0
        | .error c => if c == .perm then 3 else 2

/-- A padd: its result, or PTR_OVF with TVAL the pointer (R162). -/
def paddRun (q : State → Int) (stl : BitVec 3) (rd ra : BitVec 5) (xs : List (BitVec 5))
    (s : State) : Host.Outcome State Fault Refusal :=
  run stl { xs := xs } (fun s =>
    match paddVal (rx s ra) (q s) with
    | some v => .go (putX stl 4 rd v s)
    | none => .trap .ptrOvf (rx s ra) s) s

/-- padd (R162). -/
def execPadd (stl : BitVec 3) (rd ra rb : BitVec 5) (s : State) :
    Host.Outcome State Fault Refusal :=
  paddRun (fun s => (rx s rb).toInt) stl rd ra [rd, ra, rb] s

/-- psub (R162). -/
def execPsub (stl : BitVec 3) (rd ra rb : BitVec 5) (s : State) :
    Host.Outcome State Fault Refusal :=
  aluRR 4 psubVal stl rd ra rb s

/-- ptag (R162). -/
def execPtag (stl : BitVec 3) (rd ra rb : BitVec 5) (s : State) :
    Host.Outcome State Fault Refusal :=
  aluRR 4 ptagVal stl rd ra rb s

/-- pfmt (R162). -/
def execPfmt (stl : BitVec 3) (rd ra rb : BitVec 5) (s : State) :
    Host.Outcome State Fault Refusal :=
  aluRR 4 pfmtVal stl rd ra rb s

/-- pchk (R163). -/
def execPchk (stl : BitVec 3) (rd ra rb : BitVec 5) (s : State) :
    Host.Outcome State Fault Refusal :=
  run stl { xs := [rd, ra, rb] } (fun s =>
    let st := standing s (me s).home (me s).asid
    .go (putX stl 12 rd (w64 (pchkVal s st (rx s ra) (rx s rb).toNat)) s)) s

/-- pspc (R162). -/
def execPspc (stl : BitVec 3) (rd ra rb : BitVec 5) (s : State) :
    Host.Outcome State Fault Refusal :=
  aluRR 4 pspcVal stl rd ra rb s

/-- paddi (R164). -/
def execPaddi (stl : BitVec 3) (rd ra : BitVec 5) (imm : BitVec 13) (s : State) :
    Host.Outcome State Fault Refusal :=
  paddRun (fun _ => (imm64 imm).toInt) stl rd ra [rd, ra] s

end Sys2Proof.Machine
end

