-- ==== Sys2Proof/Decode.lean ====
section
/-! DEFINITION. The decoder, total on any word and on any bytes, and the encoder, both from the
encoding tables of the spec (R38, R47 to R54). A word the tables do not list is rejected by name.
The decoder first finds the row of the operation table (rows are numbered from 0 in its order),
then takes the row's fields out of the word. -/

namespace Sys2Proof

/-- Why a word is no instruction (R56). -/
inductive DecodeError where
  /-- A reserved major opcode (R47). -/
  | reservedMajor
  /-- A reserved function, CMD, SZ, KIND, SF or PORT code of the major opcode (R48 to R54). -/
  | reservedCode
  /-- A must-be-zero field or an unused register field is not zero (R56). -/
  | mustBeZero
  /-- Fewer than four bytes. -/
  | short
  deriving DecidableEq, Repr

/-- The field of a word at bit `lo`, as a bit vector of its width. -/
abbrev fld (w n lo : Nat) : BitVec w := BitVec.ofNat w (n / 2 ^ lo)

/-- The row of a word of major opcode 0x01. -/
def rowAlu (n : Nat) : Except DecodeError Nat :=
  match n / 1 % 256 with
  | 0 => .ok 0
  | 1 => .ok 1
  | 2 => .ok 2
  | 3 => .ok 3
  | 4 => .ok 4
  | 5 => .ok 5
  | 6 => .ok 6
  | 7 => .ok 7
  | 8 => .ok 8
  | 9 => .ok 9
  | 10 => .ok 10
  | 11 => .ok 11
  | 12 => .ok 12
  | 13 => .ok 13
  | 14 => .ok 14
  | 15 => .ok 15
  | 16 => .ok 16
  | 17 => .ok 17
  | 18 => .ok 18
  | 19 => .ok 19
  | 20 => if n / 256 % 32 = 0 then .ok 20 else .error .mustBeZero
  | 21 => if n / 256 % 32 = 0 then .ok 21 else .error .mustBeZero
  | 22 => if n / 256 % 32 = 0 then .ok 22 else .error .mustBeZero
  | 23 => if n / 256 % 32 = 0 then .ok 23 else .error .mustBeZero
  | 24 => if n / 256 % 32 = 0 then .ok 24 else .error .mustBeZero
  | 25 => if n / 256 % 32 = 0 then .ok 25 else .error .mustBeZero
  | 26 => if n / 256 % 32 = 0 then .ok 26 else .error .mustBeZero
  | 27 => if n / 256 % 32 = 0 then .ok 27 else .error .mustBeZero
  | _ => .error .reservedCode

/-- The row of a word of major opcode 0x08. -/
def rowShi (n : Nat) : Except DecodeError Nat :=
  match n / 64 % 128 with
  | 0 => .ok 34
  | 32 => .ok 35
  | 64 => .ok 36
  | 96 => .ok 37
  | _ => .error .reservedCode

/-- The row of a word of major opcode 0x0B. -/
def rowPtr (n : Nat) : Except DecodeError Nat :=
  match n / 1 % 256 with
  | 0 => .ok 40
  | 1 => .ok 41
  | 2 => .ok 42
  | 3 => .ok 43
  | 4 => .ok 44
  | 5 => .ok 45
  | _ => .error .reservedCode

/-- The row of a word of major opcode 0x0D. -/
def rowFpu (n : Nat) : Except DecodeError Nat :=
  match n / 1 % 64 with
  | 0 => .ok 47
  | 1 => .ok 48
  | 2 => .ok 49
  | 3 => .ok 50
  | 4 => if n / 256 % 32 = 0 then .ok 51 else .error .mustBeZero
  | 5 => .ok 52
  | 6 => .ok 53
  | 7 => .ok 54
  | 8 => .ok 55
  | 9 => .ok 56
  | 10 => .ok 57
  | 11 => .ok 58
  | 12 => if n / 256 % 32 = 0 then .ok 59 else .error .mustBeZero
  | 13 => .ok 60
  | 14 => .ok 61
  | 15 => .ok 62
  | 16 => if n / 256 % 32 = 0 then .ok 63 else .error .mustBeZero
  | 17 => if n / 256 % 32 = 0 then .ok 64 else .error .mustBeZero
  | 18 => if n / 256 % 32 = 0 then .ok 65 else .error .mustBeZero
  | 19 => if n / 256 % 32 = 0 then .ok 66 else .error .mustBeZero
  | 20 => if n / 1024 % 8 = 0 then .ok 67 else .error .mustBeZero
  | _ => .error .reservedCode

/-- The row of a word of major opcode 0x0E. -/
def rowMulDiv (n : Nat) : Except DecodeError Nat :=
  match n / 1 % 256 with
  | 0 => .ok 68
  | 1 => .ok 69
  | 2 => .ok 70
  | 3 => .ok 71
  | 4 => .ok 72
  | 5 => .ok 73
  | 6 => .ok 74
  | 7 => .ok 75
  | _ => .error .reservedCode

/-- The row of a word of major opcode 0x19. -/
def rowLoad (n : Nat) : Except DecodeError Nat :=
  match n / 1024 % 8 with
  | 0 => .ok 85
  | 1 => .ok 86
  | 2 => .ok 87
  | 3 => .ok 88
  | 4 => .ok 89
  | 5 => .ok 90
  | 6 => .ok 91
  | _ => .error .reservedCode

/-- The row of a word of major opcode 0x1A. -/
def rowStore (n : Nat) : Except DecodeError Nat :=
  match n / 1024 % 8 with
  | 0 => .ok 92
  | 2 => .ok 93
  | 4 => .ok 94
  | 6 => .ok 95
  | _ => .error .reservedCode

/-- The row of a word of major opcode 0x1B. -/
def rowLdx (n : Nat) : Except DecodeError Nat :=
  match n / 1 % 16 with
  | 0 => if n / 64 % 4 = 0 then .ok 96 else .error .mustBeZero
  | 1 => if n / 64 % 4 = 0 then .ok 97 else .error .mustBeZero
  | 2 => if n / 64 % 4 = 0 then .ok 98 else .error .mustBeZero
  | 3 => if n / 64 % 4 = 0 then .ok 99 else .error .mustBeZero
  | 4 => if n / 64 % 4 = 0 then .ok 100 else .error .mustBeZero
  | 5 => if n / 64 % 4 = 0 then .ok 101 else .error .mustBeZero
  | 6 => if n / 64 % 4 = 0 then .ok 102 else .error .mustBeZero
  | 8 => if n / 64 % 4 = 0 then .ok 103 else .error .mustBeZero
  | 10 => if n / 64 % 4 = 0 then .ok 104 else .error .mustBeZero
  | 12 => if n / 64 % 4 = 0 then .ok 105 else .error .mustBeZero
  | 14 => if n / 64 % 4 = 0 then .ok 106 else .error .mustBeZero
  | _ => .error .reservedCode

/-- The row of a word of major opcode 0x1C. -/
def rowAmo (n : Nat) : Except DecodeError Nat :=
  match n / 1 % 128 with
  | 0 => .ok 107
  | 1 => .ok 108
  | 2 => .ok 109
  | 3 => .ok 110
  | 4 => .ok 111
  | 5 => .ok 112
  | 6 => .ok 113
  | 7 => .ok 114
  | 8 => .ok 115
  | 9 => .ok 116
  | 10 => .ok 117
  | 11 => if n / 128 % 2 = 0 then .ok 118 else .error .mustBeZero
  | 12 => .ok 119
  | 13 => .ok 120
  | 14 => if n / 256 % 32 = 0 then .ok 121 else .error .mustBeZero
  | _ => .error .reservedCode

/-- The row of a word of major opcode 0x1D. -/
def rowTag (n : Nat) : Except DecodeError Nat :=
  match n / 1 % 256 with
  | 0 => if n / 256 % 32 = 0 then .ok 122 else .error .mustBeZero
  | 1 => if n / 262144 % 32 = 0 then .ok 123 else .error .mustBeZero
  | 2 => if n / 256 % 32 = 0 ∧ n / 262144 % 32 = 0 then .ok 124 else .error .mustBeZero
  | 3 => if n / 256 % 32 = 0 then .ok 125 else .error .mustBeZero
  | 4 => if n / 256 % 32 = 0 then .ok 126 else .error .mustBeZero
  | _ => .error .reservedCode

/-- The row of a word of major opcode 0x1E. -/
def rowFence (n : Nat) : Except DecodeError Nat :=
  match n / 1 % 256 with
  | 0 => .ok 127
  | 64 => .ok 128
  | 128 => if n / 2048 % 4096 = 0 then .ok 129 else .error .mustBeZero
  | _ => .error .reservedCode

/-- The row of a word of major opcode 0x1F. -/
def rowRep (n : Nat) : Except DecodeError Nat :=
  match n / 65536 % 2 with
  | 0 => if n / 1 % 64 = 0 ∧ n / 2048 % 32 = 0 ∧ n / 8388608 % 8 = 0 then .ok 130 else .error .mustBeZero
  | 1 => if n / 1 % 64 = 0 ∧ n / 131072 % 512 = 0 then .ok 131 else .error .mustBeZero
  | _ => .error .reservedCode

/-- The row of a word of major opcode 0x20. -/
def rowValu (n : Nat) : Except DecodeError Nat :=
  match n / 1 % 32 with
  | 0 => .ok 132
  | 1 => .ok 133
  | 2 => .ok 134
  | 3 => .ok 135
  | 4 => .ok 136
  | 5 => .ok 137
  | 6 => .ok 138
  | 7 => if n / 256 % 32 = 0 then .ok 139 else .error .mustBeZero
  | 8 => if n / 256 % 32 = 0 then .ok 140 else .error .mustBeZero
  | 9 => .ok 141
  | 10 => .ok 142
  | 11 => .ok 143
  | 12 => .ok 144
  | 13 => .ok 145
  | 14 => .ok 146
  | 15 => .ok 147
  | 16 => .ok 148
  | 17 => .ok 149
  | 18 => .ok 150
  | 19 => .ok 151
  | 20 => .ok 152
  | 21 => if n / 256 % 32 = 0 then .ok 153 else .error .mustBeZero
  | 22 => .ok 154
  | 23 => .ok 155
  | _ => .error .reservedCode

/-- The row of a word of major opcode 0x21. -/
def rowVfn (n : Nat) : Except DecodeError Nat :=
  match n / 256 % 32 with
  | 0 => if n / 4 % 16 = 0 then .ok 156 else .error .mustBeZero
  | 1 => if n / 4 % 16 = 0 then .ok 157 else .error .mustBeZero
  | 2 => if n / 4 % 16 = 0 then .ok 158 else .error .mustBeZero
  | 3 => if n / 4 % 16 = 0 then .ok 159 else .error .mustBeZero
  | 4 => if n / 4 % 16 = 0 then .ok 160 else .error .mustBeZero
  | 5 => if n / 4 % 16 = 0 then .ok 161 else .error .mustBeZero
  | 6 => if n / 4 % 16 = 0 then .ok 162 else .error .mustBeZero
  | 7 => .ok 163
  | 8 => .ok 164
  | 9 => if n / 1 % 256 = 44 then .ok 165 else .error .mustBeZero
  | 10 => if n / 1 % 256 = 44 then .ok 166 else .error .mustBeZero
  | 11 => .ok 167
  | 12 => if n / 1 % 4 = 0 then .ok 168 else .error .mustBeZero
  | _ => .error .reservedCode

/-- The row of a word of major opcode 0x22. -/
def rowVred (n : Nat) : Except DecodeError Nat :=
  match n / 1 % 32 with
  | 0 => if n / 256 % 32 = 0 then .ok 169 else .error .mustBeZero
  | 1 => if n / 256 % 32 = 0 then .ok 170 else .error .mustBeZero
  | 2 => if n / 256 % 32 = 0 then .ok 171 else .error .mustBeZero
  | 3 => .ok 172
  | 4 => .ok 173
  | 5 => if n / 256 % 32 = 0 then .ok 174 else .error .mustBeZero
  | 6 => .ok 175
  | 7 => .ok 176
  | 8 => if n / 256 % 1024 = 0 then .ok 177 else .error .mustBeZero
  | _ => .error .reservedCode

/-- The row of a word of major opcode 0x25. -/
def rowVgs (n : Nat) : Except DecodeError Nat :=
  match n / 1 % 256 with
  | 0 => .ok 180
  | 1 => .ok 181
  | 2 => .ok 182
  | 3 => .ok 183
  | _ => .error .reservedCode

/-- The row of a word of major opcode 0x26. -/
def rowVnet (n : Nat) : Except DecodeError Nat :=
  match n / 1 % 32 + 32 * (n / 64 % 4) with
  | 64 => .ok 184
  | 65 => .ok 185
  | 2 => if n / 32 % 2 = 0 ∧ n / 262144 % 32 = 0 then .ok 186 else .error .mustBeZero
  | 3 => if n / 32 % 2 = 0 ∧ n / 8192 % 32 = 0 then .ok 187 else .error .mustBeZero
  | _ => .error .reservedCode

/-- The row of a word of major opcode 0x27. -/
def rowStream (n : Nat) : Except DecodeError Nat :=
  match n / 1 % 8192 with
  | 0 => .ok 188
  | 1 => if n / 8192 % 32 = 0 then .ok 189 else .error .mustBeZero
  | 2 => .ok 190
  | 3 => if n / 8192 % 32 = 0 then .ok 191 else .error .mustBeZero
  | 4 => .ok 192
  | _ => .error .reservedCode

/-- The row of a word of major opcode 0x28. -/
def rowThr (n : Nat) : Except DecodeError Nat :=
  match n / 1 % 256 with
  | 0 => .ok 193
  | 1 => if n / 256 % 32 = 0 then .ok 194 else .error .mustBeZero
  | 2 => if n / 256 % 32 = 0 ∧ n / 262144 % 32 = 0 then .ok 195 else .error .mustBeZero
  | 3 => if n / 256 % 32768 = 0 then .ok 196 else .error .mustBeZero
  | 4 => if n / 256 % 32 = 0 ∧ n / 262144 % 32 = 0 then .ok 197 else .error .mustBeZero
  | 5 => if n / 256 % 1024 = 0 then .ok 198 else .error .mustBeZero
  | 6 => if n / 256 % 32 = 0 ∧ n / 262144 % 32 = 0 then .ok 199 else .error .mustBeZero
  | 7 => if n / 256 % 32 = 0 ∧ n / 262144 % 32 = 0 then .ok 200 else .error .mustBeZero
  | _ => .error .reservedCode

/-- The row of a word of major opcode 0x29. -/
def rowCue (n : Nat) : Except DecodeError Nat :=
  match n / 1048576 % 8 with
  | 0 => if n / 1 % 64 = 0 then .ok 201 else .error .mustBeZero
  | 1 => if n / 1 % 64 = 0 then .ok 202 else .error .mustBeZero
  | 2 => if n / 1 % 64 = 0 then .ok 203 else .error .mustBeZero
  | 3 => if n / 1 % 2 = 0 ∧ n / 64 % 32 = 0 then .ok 204 else .error .mustBeZero
  | 4 => if n / 1 % 2 = 0 then .ok 205 else .error .mustBeZero
  | 5 => if n / 1 % 2 = 0 then .ok 206 else .error .mustBeZero
  | 6 => if n / 1 % 2 = 0 ∧ n / 524288 % 2 = 0 then .ok 207 else .error .mustBeZero
  | _ => .error .reservedCode

/-- The row of a word of major opcode 0x2A. -/
def rowMsg (n : Nat) : Except DecodeError Nat :=
  match n / 1 % 256 with
  | 0 => if n / 262144 % 32 = 0 then .ok 208 else .error .mustBeZero
  | 1 => if n / 256 % 1024 = 0 then .ok 209 else .error .mustBeZero
  | 2 => if n / 256 % 32 = 0 then .ok 210 else .error .mustBeZero
  | _ => .error .reservedCode

/-- The row of a word of major opcode 0x2B. -/
def rowEcmd (n : Nat) : Except DecodeError Nat :=
  match n / 1 % 32 + 32 * (n / 524288 % 16) with
  | 0 => if n / 32 % 32 = 0 ∧ n / 32768 % 16 = 0 then .ok 211 else .error .mustBeZero
  | 1 => if n / 32 % 32 = 0 ∧ n / 32768 % 16 = 0 then .ok 212 else .error .mustBeZero
  | 2 => .ok 213
  | 3 => .ok 214
  | 4 => .ok 215
  | 5 => .ok 216
  | 6 => .ok 217
  | 7 => if n / 32 % 32 = 0 then .ok 218 else .error .mustBeZero
  | 8 => if n / 32 % 32 = 0 then .ok 219 else .error .mustBeZero
  | 32 => .ok 220
  | 33 => .ok 221
  | 34 => .ok 222
  | 35 => .ok 223
  | 36 => .ok 224
  | 64 => .ok 225
  | 65 => if n / 32 % 32 = 0 then .ok 226 else .error .mustBeZero
  | 96 => .ok 227
  | 97 => .ok 228
  | 98 => .ok 229
  | _ => .error .reservedCode

/-- The row of a word of major opcode 0x2C. -/
def rowEwr (n : Nat) : Except DecodeError Nat :=
  if n / 8 % 4 = 0 ∧ n / 32768 % 256 = 0 then .ok 230 else .error .mustBeZero

/-- The row of a word of major opcode 0x2D. -/
def rowErd (n : Nat) : Except DecodeError Nat :=
  match n / 8 % 32768 with
  | 0 => .ok 231
  | 2 => if n / 4 % 2 = 0 then .ok 232 else .error .mustBeZero
  | _ => .error .reservedCode

/-- The row of a word of major opcode 0x2E. -/
def rowGate (n : Nat) : Except DecodeError Nat :=
  match n / 1 % 256 with
  | 0 => if n / 256 % 32 = 0 then .ok 233 else .error .mustBeZero
  | 1 => if n / 256 % 32 = 0 ∧ n / 262144 % 32 = 0 then .ok 234 else .error .mustBeZero
  | 2 => .ok 235
  | 3 => .ok 236
  | 4 => if n / 256 % 32 = 0 then .ok 237 else .error .mustBeZero
  | 5 => .ok 238
  | 6 => .ok 239
  | _ => .error .reservedCode

/-- The row of a word of major opcode 0x2F. -/
def rowSys (n : Nat) : Except DecodeError Nat :=
  match n / 512 % 16 with
  | 0 => if n / 8192 % 32 = 0 then .ok 240 else .error .mustBeZero
  | 1 => .ok 241
  | 2 => .ok 242
  | 3 => .ok 243
  | 4 => if n / 8192 % 1024 = 0 then .ok 244 else .error .mustBeZero
  | 5 => if n / 1 % 512 = 0 ∧ n / 8192 % 1024 = 0 then .ok 245 else .error .mustBeZero
  | 6 => if n / 1 % 512 = 0 ∧ n / 8192 % 1024 = 0 then .ok 246 else .error .mustBeZero
  | 7 => if n / 1 % 512 = 0 then .ok 247 else .error .mustBeZero
  | 8 => if n / 16 % 32 = 0 ∧ n / 262144 % 32 = 0 then .ok 248 else .error .mustBeZero
  | 9 => if n / 1 % 512 = 0 ∧ n / 8192 % 1024 = 0 then .ok 249 else .error .mustBeZero
  | 10 => if n / 1 % 512 = 0 then .ok 250 else .error .mustBeZero
  | 11 => if n / 1 % 512 = 0 then .ok 251 else .error .mustBeZero
  | _ => .error .reservedCode

/-- The row of a word of major opcode 0x30. -/
def rowRemote (n : Nat) : Except DecodeError Nat :=
  match n / 1 % 256 with
  | 0 => .ok 252
  | 1 => .ok 253
  | 2 => .ok 254
  | 3 => .ok 255
  | 4 => if n / 262144 % 32 = 0 then .ok 256 else .error .mustBeZero
  | _ => .error .reservedCode

/-- The row of the operation table a word belongs to (R47), or why it has none. -/
def decodeRow (n : Nat) : Except DecodeError Nat :=
  match n / 67108864 with
  | 1 => rowAlu n
  | 2 => .ok 28
  | 3 => .ok 29
  | 4 => .ok 30
  | 5 => .ok 31
  | 6 => .ok 32
  | 7 => .ok 33
  | 8 => rowShi n
  | 9 => .ok 38
  | 10 => .ok 39
  | 11 => rowPtr n
  | 12 => .ok 46
  | 13 => rowFpu n
  | 14 => rowMulDiv n
  | 16 => .ok 76
  | 17 => .ok 77
  | 18 => .ok 78
  | 19 => .ok 79
  | 20 => .ok 80
  | 21 => .ok 81
  | 22 => .ok 82
  | 23 => .ok 83
  | 24 => .ok 84
  | 25 => rowLoad n
  | 26 => rowStore n
  | 27 => rowLdx n
  | 28 => rowAmo n
  | 29 => rowTag n
  | 30 => rowFence n
  | 31 => rowRep n
  | 32 => rowValu n
  | 33 => rowVfn n
  | 34 => rowVred n
  | 35 => .ok 178
  | 36 => .ok 179
  | 37 => rowVgs n
  | 38 => rowVnet n
  | 39 => rowStream n
  | 40 => rowThr n
  | 41 => rowCue n
  | 42 => rowMsg n
  | 43 => rowEcmd n
  | 44 => rowEwr n
  | 45 => rowErd n
  | 46 => rowGate n
  | 47 => rowSys n
  | 48 => rowRemote n
  | _ => .error .reservedMajor

/-- The instruction of a row before `gopen`, with the fields of the word. -/
def instrLow (row n : Nat) : Option Instr :=
  match row with
  | 0 => some (.add (fld 3 n 23) (fld 5 n 18) (fld 5 n 13) (fld 5 n 8))
  | 1 => some (.sub (fld 3 n 23) (fld 5 n 18) (fld 5 n 13) (fld 5 n 8))
  | 2 => some (.and (fld 3 n 23) (fld 5 n 18) (fld 5 n 13) (fld 5 n 8))
  | 3 => some (.or (fld 3 n 23) (fld 5 n 18) (fld 5 n 13) (fld 5 n 8))
  | 4 => some (.xor (fld 3 n 23) (fld 5 n 18) (fld 5 n 13) (fld 5 n 8))
  | 5 => some (.andn (fld 3 n 23) (fld 5 n 18) (fld 5 n 13) (fld 5 n 8))
  | 6 => some (.orn (fld 3 n 23) (fld 5 n 18) (fld 5 n 13) (fld 5 n 8))
  | 7 => some (.sll (fld 3 n 23) (fld 5 n 18) (fld 5 n 13) (fld 5 n 8))
  | 8 => some (.srl (fld 3 n 23) (fld 5 n 18) (fld 5 n 13) (fld 5 n 8))
  | 9 => some (.sra (fld 3 n 23) (fld 5 n 18) (fld 5 n 13) (fld 5 n 8))
  | 10 => some (.rol (fld 3 n 23) (fld 5 n 18) (fld 5 n 13) (fld 5 n 8))
  | 11 => some (.ror (fld 3 n 23) (fld 5 n 18) (fld 5 n 13) (fld 5 n 8))
  | 12 => some (.slt (fld 3 n 23) (fld 5 n 18) (fld 5 n 13) (fld 5 n 8))
  | 13 => some (.sltu (fld 3 n 23) (fld 5 n 18) (fld 5 n 13) (fld 5 n 8))
  | 14 => some (.seq (fld 3 n 23) (fld 5 n 18) (fld 5 n 13) (fld 5 n 8))
  | 15 => some (.sne (fld 3 n 23) (fld 5 n 18) (fld 5 n 13) (fld 5 n 8))
  | 16 => some (.min (fld 3 n 23) (fld 5 n 18) (fld 5 n 13) (fld 5 n 8))
  | 17 => some (.max (fld 3 n 23) (fld 5 n 18) (fld 5 n 13) (fld 5 n 8))
  | 18 => some (.minu (fld 3 n 23) (fld 5 n 18) (fld 5 n 13) (fld 5 n 8))
  | 19 => some (.maxu (fld 3 n 23) (fld 5 n 18) (fld 5 n 13) (fld 5 n 8))
  | 20 => some (.clz (fld 3 n 23) (fld 5 n 18) (fld 5 n 13))
  | 21 => some (.ctz (fld 3 n 23) (fld 5 n 18) (fld 5 n 13))
  | 22 => some (.popc (fld 3 n 23) (fld 5 n 18) (fld 5 n 13))
  | 23 => some (.bswap (fld 3 n 23) (fld 5 n 18) (fld 5 n 13))
  | 24 => some (.sextb (fld 3 n 23) (fld 5 n 18) (fld 5 n 13))
  | 25 => some (.sexth (fld 3 n 23) (fld 5 n 18) (fld 5 n 13))
  | 26 => some (.sextw (fld 3 n 23) (fld 5 n 18) (fld 5 n 13))
  | 27 => some (.zextw (fld 3 n 23) (fld 5 n 18) (fld 5 n 13))
  | 28 => some (.addi (fld 3 n 23) (fld 5 n 18) (fld 5 n 13) (fld 13 n 0))
  | 29 => some (.andi (fld 3 n 23) (fld 5 n 18) (fld 5 n 13) (fld 13 n 0))
  | 30 => some (.ori (fld 3 n 23) (fld 5 n 18) (fld 5 n 13) (fld 13 n 0))
  | 31 => some (.xori (fld 3 n 23) (fld 5 n 18) (fld 5 n 13) (fld 13 n 0))
  | 32 => some (.slti (fld 3 n 23) (fld 5 n 18) (fld 5 n 13) (fld 13 n 0))
  | 33 => some (.sltiu (fld 3 n 23) (fld 5 n 18) (fld 5 n 13) (fld 13 n 0))
  | 34 => some (.slli (fld 3 n 23) (fld 5 n 18) (fld 5 n 13) (fld 6 n 0))
  | 35 => some (.srli (fld 3 n 23) (fld 5 n 18) (fld 5 n 13) (fld 6 n 0))
  | 36 => some (.srai (fld 3 n 23) (fld 5 n 18) (fld 5 n 13) (fld 6 n 0))
  | 37 => some (.rori (fld 3 n 23) (fld 5 n 18) (fld 5 n 13) (fld 6 n 0))
  | 38 => some (.lui (fld 3 n 23) (fld 5 n 18) (fld 18 n 0))
  | 39 => some (.auipc (fld 3 n 23) (fld 5 n 18) (fld 18 n 0))
  | 40 => some (.padd (fld 3 n 23) (fld 5 n 18) (fld 5 n 13) (fld 5 n 8))
  | 41 => some (.psub (fld 3 n 23) (fld 5 n 18) (fld 5 n 13) (fld 5 n 8))
  | 42 => some (.ptag (fld 3 n 23) (fld 5 n 18) (fld 5 n 13) (fld 5 n 8))
  | 43 => some (.pfmt (fld 3 n 23) (fld 5 n 18) (fld 5 n 13) (fld 5 n 8))
  | 44 => some (.pchk (fld 3 n 23) (fld 5 n 18) (fld 5 n 13) (fld 5 n 8))
  | 45 => some (.pspc (fld 3 n 23) (fld 5 n 18) (fld 5 n 13) (fld 5 n 8))
  | 46 => some (.paddi (fld 3 n 23) (fld 5 n 18) (fld 5 n 13) (fld 13 n 0))
  | 47 => some (.fadd (fld 3 n 23) (fld 5 n 18) (fld 5 n 13) (fld 5 n 8) (fld 2 n 6))
  | 48 => some (.fsub (fld 3 n 23) (fld 5 n 18) (fld 5 n 13) (fld 5 n 8) (fld 2 n 6))
  | 49 => some (.fmul (fld 3 n 23) (fld 5 n 18) (fld 5 n 13) (fld 5 n 8) (fld 2 n 6))
  | 50 => some (.fdiv (fld 3 n 23) (fld 5 n 18) (fld 5 n 13) (fld 5 n 8) (fld 2 n 6))
  | 51 => some (.fsqrt (fld 3 n 23) (fld 5 n 18) (fld 5 n 13) (fld 2 n 6))
  | 52 => some (.fmin (fld 3 n 23) (fld 5 n 18) (fld 5 n 13) (fld 5 n 8) (fld 2 n 6))
  | 53 => some (.fmax (fld 3 n 23) (fld 5 n 18) (fld 5 n 13) (fld 5 n 8) (fld 2 n 6))
  | 54 => some (.ffma (fld 3 n 23) (fld 5 n 18) (fld 5 n 13) (fld 5 n 8) (fld 2 n 6))
  | 55 => some (.ffms (fld 3 n 23) (fld 5 n 18) (fld 5 n 13) (fld 5 n 8) (fld 2 n 6))
  | 56 => some (.feq (fld 3 n 23) (fld 5 n 18) (fld 5 n 13) (fld 5 n 8) (fld 2 n 6))
  | 57 => some (.flt (fld 3 n 23) (fld 5 n 18) (fld 5 n 13) (fld 5 n 8) (fld 2 n 6))
  | 58 => some (.fle (fld 3 n 23) (fld 5 n 18) (fld 5 n 13) (fld 5 n 8) (fld 2 n 6))
  | 59 => some (.fclass (fld 3 n 23) (fld 5 n 18) (fld 5 n 13) (fld 2 n 6))
  | 60 => some (.fsgnj (fld 3 n 23) (fld 5 n 18) (fld 5 n 13) (fld 5 n 8) (fld 2 n 6))
  | 61 => some (.fsgnjn (fld 3 n 23) (fld 5 n 18) (fld 5 n 13) (fld 5 n 8) (fld 2 n 6))
  | 62 => some (.fsgnjx (fld 3 n 23) (fld 5 n 18) (fld 5 n 13) (fld 5 n 8) (fld 2 n 6))
  | 63 => some (.fcvtI (fld 3 n 23) (fld 5 n 18) (fld 5 n 13) (fld 2 n 6))
  | 64 => some (.fcvtIu (fld 3 n 23) (fld 5 n 18) (fld 5 n 13) (fld 2 n 6))
  | 65 => some (.fcvtF (fld 3 n 23) (fld 5 n 18) (fld 5 n 13) (fld 2 n 6))
  | 66 => some (.fcvtFu (fld 3 n 23) (fld 5 n 18) (fld 5 n 13) (fld 2 n 6))
  | 67 => some (.fcvtP (fld 3 n 23) (fld 5 n 18) (fld 5 n 13) (fld 2 n 8) (fld 2 n 6))
  | 68 => some (.mul (fld 3 n 23) (fld 5 n 18) (fld 5 n 13) (fld 5 n 8))
  | 69 => some (.mulh (fld 3 n 23) (fld 5 n 18) (fld 5 n 13) (fld 5 n 8))
  | 70 => some (.mulhu (fld 3 n 23) (fld 5 n 18) (fld 5 n 13) (fld 5 n 8))
  | 71 => some (.mulhsu (fld 3 n 23) (fld 5 n 18) (fld 5 n 13) (fld 5 n 8))
  | 72 => some (.div (fld 3 n 23) (fld 5 n 18) (fld 5 n 13) (fld 5 n 8))
  | 73 => some (.divu (fld 3 n 23) (fld 5 n 18) (fld 5 n 13) (fld 5 n 8))
  | 74 => some (.rem (fld 3 n 23) (fld 5 n 18) (fld 5 n 13) (fld 5 n 8))
  | 75 => some (.remu (fld 3 n 23) (fld 5 n 18) (fld 5 n 13) (fld 5 n 8))
  | 76 => some (.beq (fld 3 n 23) (fld 5 n 18) (fld 5 n 13) (fld 13 n 0))
  | 77 => some (.bne (fld 3 n 23) (fld 5 n 18) (fld 5 n 13) (fld 13 n 0))
  | 78 => some (.blt (fld 3 n 23) (fld 5 n 18) (fld 5 n 13) (fld 13 n 0))
  | 79 => some (.bge (fld 3 n 23) (fld 5 n 18) (fld 5 n 13) (fld 13 n 0))
  | 80 => some (.bltu (fld 3 n 23) (fld 5 n 18) (fld 5 n 13) (fld 13 n 0))
  | 81 => some (.bgeu (fld 3 n 23) (fld 5 n 18) (fld 5 n 13) (fld 13 n 0))
  | 82 => some (.j (fld 3 n 23) (fld 23 n 0))
  | 83 => some (.jal (fld 3 n 23) (fld 23 n 0))
  | 84 => some (.jalr (fld 3 n 23) (fld 5 n 18) (fld 5 n 13) (fld 13 n 0))
  | 85 => some (.lb (fld 3 n 23) (fld 5 n 18) (fld 5 n 13) (fld 10 n 0))
  | 86 => some (.lbu (fld 3 n 23) (fld 5 n 18) (fld 5 n 13) (fld 10 n 0))
  | 87 => some (.lh (fld 3 n 23) (fld 5 n 18) (fld 5 n 13) (fld 10 n 0))
  | 88 => some (.lhu (fld 3 n 23) (fld 5 n 18) (fld 5 n 13) (fld 10 n 0))
  | 89 => some (.lw (fld 3 n 23) (fld 5 n 18) (fld 5 n 13) (fld 10 n 0))
  | 90 => some (.lwu (fld 3 n 23) (fld 5 n 18) (fld 5 n 13) (fld 10 n 0))
  | 91 => some (.ld (fld 3 n 23) (fld 5 n 18) (fld 5 n 13) (fld 10 n 0))
  | 92 => some (.sb (fld 3 n 23) (fld 5 n 18) (fld 5 n 13) (fld 10 n 0))
  | 93 => some (.sh (fld 3 n 23) (fld 5 n 18) (fld 5 n 13) (fld 10 n 0))
  | 94 => some (.sw (fld 3 n 23) (fld 5 n 18) (fld 5 n 13) (fld 10 n 0))
  | 95 => some (.sd (fld 3 n 23) (fld 5 n 18) (fld 5 n 13) (fld 10 n 0))
  | 96 => some (.lbx (fld 3 n 23) (fld 5 n 18) (fld 5 n 13) (fld 5 n 8) (fld 2 n 4))
  | 97 => some (.lbux (fld 3 n 23) (fld 5 n 18) (fld 5 n 13) (fld 5 n 8) (fld 2 n 4))
  | 98 => some (.lhx (fld 3 n 23) (fld 5 n 18) (fld 5 n 13) (fld 5 n 8) (fld 2 n 4))
  | 99 => some (.lhux (fld 3 n 23) (fld 5 n 18) (fld 5 n 13) (fld 5 n 8) (fld 2 n 4))
  | 100 => some (.lwx (fld 3 n 23) (fld 5 n 18) (fld 5 n 13) (fld 5 n 8) (fld 2 n 4))
  | 101 => some (.lwux (fld 3 n 23) (fld 5 n 18) (fld 5 n 13) (fld 5 n 8) (fld 2 n 4))
  | 102 => some (.ldx (fld 3 n 23) (fld 5 n 18) (fld 5 n 13) (fld 5 n 8) (fld 2 n 4))
  | 103 => some (.sbx (fld 3 n 23) (fld 5 n 18) (fld 5 n 13) (fld 5 n 8) (fld 2 n 4))
  | 104 => some (.shx (fld 3 n 23) (fld 5 n 18) (fld 5 n 13) (fld 5 n 8) (fld 2 n 4))
  | 105 => some (.swx (fld 3 n 23) (fld 5 n 18) (fld 5 n 13) (fld 5 n 8) (fld 2 n 4))
  | 106 => some (.sdx (fld 3 n 23) (fld 5 n 18) (fld 5 n 13) (fld 5 n 8) (fld 2 n 4))
  | 107 => some (.amoadd (fld 3 n 23) (fld 5 n 18) (fld 5 n 13) (fld 5 n 8) (fld 1 n 7))
  | 108 => some (.amoand (fld 3 n 23) (fld 5 n 18) (fld 5 n 13) (fld 5 n 8) (fld 1 n 7))
  | 109 => some (.amoor (fld 3 n 23) (fld 5 n 18) (fld 5 n 13) (fld 5 n 8) (fld 1 n 7))
  | 110 => some (.amoxor (fld 3 n 23) (fld 5 n 18) (fld 5 n 13) (fld 5 n 8) (fld 1 n 7))
  | 111 => some (.amomin (fld 3 n 23) (fld 5 n 18) (fld 5 n 13) (fld 5 n 8) (fld 1 n 7))
  | 112 => some (.amomax (fld 3 n 23) (fld 5 n 18) (fld 5 n 13) (fld 5 n 8) (fld 1 n 7))
  | 113 => some (.amominu (fld 3 n 23) (fld 5 n 18) (fld 5 n 13) (fld 5 n 8) (fld 1 n 7))
  | 114 => some (.amomaxu (fld 3 n 23) (fld 5 n 18) (fld 5 n 13) (fld 5 n 8) (fld 1 n 7))
  | 115 => some (.amoswap (fld 3 n 23) (fld 5 n 18) (fld 5 n 13) (fld 5 n 8) (fld 1 n 7))
  | 116 => some (.amocas (fld 3 n 23) (fld 5 n 18) (fld 5 n 13) (fld 5 n 8) (fld 1 n 7))
  | 117 => some (.amofadd (fld 3 n 23) (fld 5 n 18) (fld 5 n 13) (fld 5 n 8) (fld 1 n 7))
  | 118 => some (.amofaddBf (fld 3 n 23) (fld 5 n 18) (fld 5 n 13) (fld 5 n 8))
  | 119 => some (.amofmin (fld 3 n 23) (fld 5 n 18) (fld 5 n 13) (fld 5 n 8) (fld 1 n 7))
  | 120 => some (.amofmax (fld 3 n 23) (fld 5 n 18) (fld 5 n 13) (fld 5 n 8) (fld 1 n 7))
  | 121 => some (.amold (fld 3 n 23) (fld 5 n 18) (fld 5 n 13) (fld 1 n 7))
  | 122 => some (.tlook (fld 3 n 23) (fld 5 n 18) (fld 5 n 13))
  | 123 => some (.tset (fld 3 n 23) (fld 5 n 13) (fld 5 n 8))
  | 124 => some (.tinv (fld 3 n 23) (fld 5 n 13))
  | 125 => some (.tvict (fld 3 n 23) (fld 5 n 18) (fld 5 n 13))
  | 126 => some (.tdirty (fld 3 n 23) (fld 5 n 18) (fld 5 n 13))
  | 127 => some (.fence (fld 3 n 23) (fld 6 n 17) (fld 6 n 11) (fld 3 n 8))
  | 128 => some (.phase (fld 3 n 23) (fld 6 n 17) (fld 6 n 11) (fld 3 n 8))
  | 129 => some (.ifence (fld 3 n 23) (fld 3 n 8))
  | 130 => some (.rep (fld 6 n 17) (fld 3 n 8) (fld 2 n 6))
  | 131 => some (.repReg (fld 5 n 11) (fld 3 n 8) (fld 2 n 6))
  | 132 => some (.vadd (fld 3 n 23) (fld 5 n 18) (fld 5 n 13) (fld 5 n 8) (fld 3 n 5))
  | 133 => some (.vsub (fld 3 n 23) (fld 5 n 18) (fld 5 n 13) (fld 5 n 8) (fld 3 n 5))
  | 134 => some (.vmul (fld 3 n 23) (fld 5 n 18) (fld 5 n 13) (fld 5 n 8) (fld 3 n 5))
  | 135 => some (.vfma (fld 3 n 23) (fld 5 n 18) (fld 5 n 13) (fld 5 n 8) (fld 3 n 5))
  | 136 => some (.vfms (fld 3 n 23) (fld 5 n 18) (fld 5 n 13) (fld 5 n 8) (fld 3 n 5))
  | 137 => some (.vmin (fld 3 n 23) (fld 5 n 18) (fld 5 n 13) (fld 5 n 8) (fld 3 n 5))
  | 138 => some (.vmax (fld 3 n 23) (fld 5 n 18) (fld 5 n 13) (fld 5 n 8) (fld 3 n 5))
  | 139 => some (.vabs (fld 3 n 23) (fld 5 n 18) (fld 5 n 13) (fld 3 n 5))
  | 140 => some (.vneg (fld 3 n 23) (fld 5 n 18) (fld 5 n 13) (fld 3 n 5))
  | 141 => some (.vand (fld 3 n 23) (fld 5 n 18) (fld 5 n 13) (fld 5 n 8) (fld 3 n 5))
  | 142 => some (.vor (fld 3 n 23) (fld 5 n 18) (fld 5 n 13) (fld 5 n 8) (fld 3 n 5))
  | 143 => some (.vxor (fld 3 n 23) (fld 5 n 18) (fld 5 n 13) (fld 5 n 8) (fld 3 n 5))
  | 144 => some (.vshl (fld 3 n 23) (fld 5 n 18) (fld 5 n 13) (fld 5 n 8) (fld 3 n 5))
  | 145 => some (.vshr (fld 3 n 23) (fld 5 n 18) (fld 5 n 13) (fld 5 n 8) (fld 3 n 5))
  | 146 => some (.vsra (fld 3 n 23) (fld 5 n 18) (fld 5 n 13) (fld 5 n 8) (fld 3 n 5))
  | 147 => some (.vceq (fld 3 n 23) (fld 5 n 18) (fld 5 n 13) (fld 5 n 8) (fld 3 n 5))
  | 148 => some (.vclt (fld 3 n 23) (fld 5 n 18) (fld 5 n 13) (fld 5 n 8) (fld 3 n 5))
  | 149 => some (.vcle (fld 3 n 23) (fld 5 n 18) (fld 5 n 13) (fld 5 n 8) (fld 3 n 5))
  | 150 => some (.vsel (fld 3 n 23) (fld 5 n 18) (fld 5 n 13) (fld 5 n 8) (fld 3 n 5))
  | 151 => some (.vadds (fld 3 n 23) (fld 5 n 18) (fld 5 n 13) (fld 5 n 8) (fld 3 n 5))
  | 152 => some (.vsubs (fld 3 n 23) (fld 5 n 18) (fld 5 n 13) (fld 5 n 8) (fld 3 n 5))
  | 153 => some (.vmov (fld 3 n 23) (fld 5 n 18) (fld 5 n 13) (fld 3 n 5))
  | 154 => some (.vdiv (fld 3 n 23) (fld 5 n 18) (fld 5 n 13) (fld 5 n 8) (fld 3 n 5))
  | 155 => some (.vmulhi (fld 3 n 23) (fld 5 n 18) (fld 5 n 13) (fld 5 n 8) (fld 3 n 5))
  | 156 => some (.vrcp (fld 3 n 23) (fld 5 n 18) (fld 5 n 13) (fld 2 n 6) (fld 2 n 0))
  | 157 => some (.vrsq (fld 3 n 23) (fld 5 n 18) (fld 5 n 13) (fld 2 n 6) (fld 2 n 0))
  | 158 => some (.vsqrt (fld 3 n 23) (fld 5 n 18) (fld 5 n 13) (fld 2 n 6) (fld 2 n 0))
  | 159 => some (.vexp2 (fld 3 n 23) (fld 5 n 18) (fld 5 n 13) (fld 2 n 6) (fld 2 n 0))
  | 160 => some (.vlog2 (fld 3 n 23) (fld 5 n 18) (fld 5 n 13) (fld 2 n 6) (fld 2 n 0))
  | 161 => some (.vtanh (fld 3 n 23) (fld 5 n 18) (fld 5 n 13) (fld 2 n 6) (fld 2 n 0))
  | 162 => some (.vsigm (fld 3 n 23) (fld 5 n 18) (fld 5 n 13) (fld 2 n 6) (fld 2 n 0))
  | 163 => some (.vcvt (fld 3 n 23) (fld 5 n 18) (fld 5 n 13) (fld 2 n 6) (fld 4 n 2) (fld 2 n 0))
  | 164 => some (.vcvtf (fld 3 n 23) (fld 5 n 18) (fld 5 n 13) (fld 2 n 6) (fld 4 n 2) (fld 2 n 0))
  | 165 => some (.vpack (fld 3 n 23) (fld 5 n 18) (fld 5 n 13))
  | 166 => some (.vunpack (fld 3 n 23) (fld 5 n 18) (fld 5 n 13))
  | 167 => some (.vscale (fld 3 n 23) (fld 5 n 18) (fld 5 n 13) (fld 2 n 6) (fld 4 n 2) (fld 2 n 0))
  | 168 => some (.vbscl (fld 3 n 23) (fld 5 n 18) (fld 5 n 13) (fld 2 n 6) (fld 4 n 2))
  | 169 => some (.vrsum (fld 3 n 23) (fld 5 n 18) (fld 5 n 13) (fld 3 n 5))
  | 170 => some (.vrmax (fld 3 n 23) (fld 5 n 18) (fld 5 n 13) (fld 3 n 5))
  | 171 => some (.vrmin (fld 3 n 23) (fld 5 n 18) (fld 5 n 13) (fld 3 n 5))
  | 172 => some (.vperm (fld 3 n 23) (fld 5 n 18) (fld 5 n 13) (fld 5 n 8) (fld 3 n 5))
  | 173 => some (.vrotx (fld 3 n 23) (fld 5 n 18) (fld 5 n 13) (fld 5 n 8) (fld 3 n 5))
  | 174 => some (.vbcast (fld 3 n 23) (fld 5 n 18) (fld 5 n 13) (fld 3 n 5))
  | 175 => some (.vext (fld 3 n 23) (fld 5 n 18) (fld 5 n 13) (fld 5 n 8) (fld 3 n 5))
  | 176 => some (.vins (fld 3 n 23) (fld 5 n 18) (fld 5 n 13) (fld 5 n 8) (fld 3 n 5))
  | 177 => some (.viota (fld 3 n 23) (fld 5 n 18) (fld 3 n 5))
  | 178 => some (.vld (fld 3 n 23) (fld 5 n 18) (fld 5 n 13) (fld 3 n 10) (fld 10 n 0))
  | 179 => some (.vst (fld 3 n 23) (fld 5 n 18) (fld 5 n 13) (fld 3 n 10) (fld 10 n 0))
  | 180 => some (.vldxW (fld 3 n 23) (fld 5 n 18) (fld 5 n 13) (fld 5 n 8))
  | 181 => some (.vldxD (fld 3 n 23) (fld 5 n 18) (fld 5 n 13) (fld 5 n 8))
  | 182 => some (.vstxW (fld 3 n 23) (fld 5 n 18) (fld 5 n 13) (fld 5 n 8))
  | 183 => some (.vstxD (fld 3 n 23) (fld 5 n 18) (fld 5 n 13) (fld 5 n 8))
  | 184 => some (.vmerge (fld 3 n 23) (fld 5 n 18) (fld 5 n 13) (fld 5 n 8) (fld 1 n 5))
  | 185 => some (.pmx (fld 3 n 23) (fld 5 n 18) (fld 5 n 13) (fld 5 n 8) (fld 1 n 5))
  | 186 => some (.pmsend (fld 3 n 23) (fld 5 n 13) (fld 5 n 8))
  | 187 => some (.pmrecv (fld 3 n 23) (fld 5 n 18) (fld 5 n 8))
  | 188 => some (.sbind (fld 3 n 23) (fld 5 n 18) (fld 5 n 13))
  | 189 => some (.sunbind (fld 3 n 23) (fld 5 n 18))
  | 190 => some (.sstat (fld 3 n 23) (fld 5 n 18) (fld 5 n 13))
  | 191 => some (.sdrain (fld 3 n 23) (fld 5 n 18))
  | 192 => some (.sskip (fld 3 n 23) (fld 5 n 18) (fld 5 n 13))
  | 193 => some (.spawn (fld 3 n 23) (fld 5 n 18) (fld 5 n 13) (fld 5 n 8))
  | 194 => some (.join (fld 3 n 23) (fld 5 n 18) (fld 5 n 13))
  | 195 => some (.exit (fld 3 n 23) (fld 5 n 13))
  | 196 => some (.yield (fld 3 n 23))
  | 197 => some (.prio (fld 3 n 23) (fld 5 n 13))
  | 198 => some (.tid (fld 3 n 23) (fld 5 n 18))
  | 199 => some (.detach (fld 3 n 23) (fld 5 n 13))
  | 200 => some (.kill (fld 3 n 23) (fld 5 n 13))
  | 201 => some (.cinit (fld 3 n 23) (fld 1 n 19) (fld 8 n 11) (fld 5 n 6))
  | 202 => some (.cwait (fld 3 n 23) (fld 1 n 19) (fld 8 n 11) (fld 5 n 6))
  | 203 => some (.csig (fld 3 n 23) (fld 1 n 19) (fld 8 n 11) (fld 5 n 6))
  | 204 => some (.cread (fld 3 n 23) (fld 1 n 19) (fld 8 n 11) (fld 5 n 1))
  | 205 => some (.ctry (fld 3 n 23) (fld 1 n 19) (fld 8 n 11) (fld 5 n 6) (fld 5 n 1))
  | 206 => some (.cwaitt (fld 3 n 23) (fld 1 n 19) (fld 8 n 11) (fld 5 n 6) (fld 5 n 1))
  | 207 => some (.csigr (fld 3 n 23) (fld 8 n 11) (fld 5 n 6) (fld 5 n 1))
  | 208 => some (.send (fld 3 n 23) (fld 5 n 13) (fld 5 n 8))
  | 209 => some (.recv (fld 3 n 23) (fld 5 n 18))
  | 210 => some (.recvt (fld 3 n 23) (fld 5 n 18) (fld 5 n 13))
  | 211 => some (.mclaim (fld 3 n 23) (fld 5 n 10))
  | 212 => some (.mrel (fld 3 n 23) (fld 5 n 10))
  | 213 => some (.mload (fld 3 n 23) (fld 4 n 15) (fld 5 n 10) (fld 5 n 5))
  | 214 => some (.mma (fld 3 n 23) (fld 4 n 15) (fld 5 n 10) (fld 5 n 5))
  | 215 => some (.mmas (fld 3 n 23) (fld 4 n 15) (fld 5 n 10) (fld 5 n 5))
  | 216 => some (.mgemm (fld 3 n 23) (fld 4 n 15) (fld 5 n 10) (fld 5 n 5))
  | 217 => some (.mdrain (fld 3 n 23) (fld 4 n 15) (fld 5 n 10) (fld 5 n 5))
  | 218 => some (.mzero (fld 3 n 23) (fld 4 n 15) (fld 5 n 10))
  | 219 => some (.mtov (fld 3 n 23) (fld 4 n 15) (fld 5 n 10))
  | 220 => some (.cpy (fld 3 n 23) (fld 4 n 15) (fld 5 n 10) (fld 5 n 5))
  | 221 => some (.cpys (fld 3 n 23) (fld 4 n 15) (fld 5 n 10) (fld 5 n 5))
  | 222 => some (.cpyg (fld 3 n 23) (fld 4 n 15) (fld 5 n 10) (fld 5 n 5))
  | 223 => some (.cpyx (fld 3 n 23) (fld 4 n 15) (fld 5 n 10) (fld 5 n 5))
  | 224 => some (.cpyf (fld 3 n 23) (fld 4 n 15) (fld 5 n 10) (fld 5 n 5))
  | 225 => some (.tqpost (fld 3 n 23) (fld 4 n 15) (fld 5 n 10) (fld 5 n 5))
  | 226 => some (.tqflush (fld 3 n 23) (fld 4 n 15) (fld 5 n 10))
  | 227 => some (.swpin (fld 3 n 23) (fld 4 n 15) (fld 5 n 10) (fld 5 n 5))
  | 228 => some (.swpout (fld 3 n 23) (fld 4 n 15) (fld 5 n 10) (fld 5 n 5))
  | 229 => some (.swppull (fld 3 n 23) (fld 4 n 15) (fld 5 n 10) (fld 5 n 5))
  | 230 => some (.ewr (fld 3 n 23) (fld 5 n 10) (fld 5 n 5) (fld 3 n 0))
  | 231 => some (.erd (fld 3 n 23) (fld 5 n 18) (fld 3 n 0))
  | 232 => some (.erdst (fld 3 n 23) (fld 5 n 18) (fld 2 n 0))
  | _ => none

/-- The instruction of a row from `gopen` on. (Marked noncomputable because the compiler has no
code for the last constructors of so large a type; the kernel evaluates it.) -/
noncomputable def instrHigh (row n : Nat) : Instr :=
  match row with
  | 233 => .gopen (fld 3 n 23) (fld 5 n 18) (fld 5 n 13)
  | 234 => .gclose (fld 3 n 23) (fld 5 n 13)
  | 235 => .gsig (fld 3 n 23) (fld 5 n 18) (fld 5 n 13) (fld 5 n 8)
  | 236 => .gwait (fld 3 n 23) (fld 5 n 18) (fld 5 n 13) (fld 5 n 8)
  | 237 => .gread (fld 3 n 23) (fld 5 n 18) (fld 5 n 13)
  | 238 => .gpost (fld 3 n 23) (fld 5 n 18) (fld 5 n 13) (fld 5 n 8)
  | 239 => .gtake (fld 3 n 23) (fld 5 n 18) (fld 5 n 13) (fld 5 n 8)
  | 240 => .csrr (fld 3 n 23) (fld 5 n 18) (fld 9 n 0)
  | 241 => .csrw (fld 3 n 23) (fld 5 n 18) (fld 5 n 13) (fld 9 n 0)
  | 242 => .csrs (fld 3 n 23) (fld 5 n 18) (fld 5 n 13) (fld 9 n 0)
  | 243 => .csrc (fld 3 n 23) (fld 5 n 18) (fld 5 n 13) (fld 9 n 0)
  | 244 => .trap (fld 3 n 23) (fld 9 n 0)
  | 245 => .tret (fld 3 n 23)
  | 246 => .brk (fld 3 n 23)
  | 247 => .repart (fld 3 n 23) (fld 5 n 18) (fld 5 n 13)
  | 248 => .roset (fld 3 n 23) (fld 5 n 13) (fld 4 n 0)
  | 249 => .idle (fld 3 n 23)
  | 250 => .curtain (fld 3 n 23) (fld 5 n 18) (fld 5 n 13)
  | 251 => .migr (fld 3 n 23) (fld 5 n 18) (fld 5 n 13)
  | 252 => .rld (fld 3 n 23) (fld 5 n 18) (fld 5 n 13) (fld 5 n 8)
  | 253 => .rst (fld 3 n 23) (fld 5 n 18) (fld 5 n 13) (fld 5 n 8)
  | 254 => .ramo (fld 3 n 23) (fld 5 n 18) (fld 5 n 13) (fld 5 n 8)
  | 255 => .spawnr (fld 3 n 23) (fld 5 n 18) (fld 5 n 13) (fld 5 n 8)
  | 256 => .csigrRank (fld 3 n 23) (fld 5 n 13) (fld 5 n 8)
  | _ => .illegalInstruction (BitVec.ofNat 32 n)

/-- The instruction of a row, with the fields of the word. -/
noncomputable def instrOf (row n : Nat) : Instr := (instrLow row n).getD (instrHigh row n)

/-- The instruction a word is, or why it is none. -/
noncomputable def decode (w : IWord) : Except DecodeError Instr :=
  match decodeRow w.toNat with
  | .ok row => .ok (instrOf row w.toNat)
  | .error e => .error e

/-- The word at the head of a byte list, and the rest (R37: four bytes, little-endian). -/
def takeWord : List Byte → Except DecodeError (IWord × List Byte)
  | b0 :: b1 :: b2 :: b3 :: rest => .ok (BitVec.ofNat 32 (Machine.bytesNat [b0, b1, b2, b3]), rest)
  | _ => .error .short

/-- The instruction at the head of a byte list, and the rest. -/
noncomputable def decodeBytes (bs : List Byte) : Except DecodeError (Instr × List Byte) :=
  match takeWord bs with
  | .error e => .error e
  | .ok (w, rest) =>
    match decode w with
    | .ok i => .ok (i, rest)
    | .error e => .error e

/-- A word from its fixed bits and its fields, each with the position of its lowest bit (R38). -/
def packWord (base : Nat) : List (Nat × Nat) → Nat
  | [] => base
  | (v, lo) :: fs => v * 2 ^ lo + packWord base fs

/-- The word of an instruction, as a number; a step of the device has none. -/
def encodeNat : Instr → Option Nat
  | .add stl rd ra rb => some (packWord 0x04000000 [(stl.toNat, 23), (rd.toNat, 18), (ra.toNat, 13), (rb.toNat, 8)])
  | .sub stl rd ra rb => some (packWord 0x04000001 [(stl.toNat, 23), (rd.toNat, 18), (ra.toNat, 13), (rb.toNat, 8)])
  | .and stl rd ra rb => some (packWord 0x04000002 [(stl.toNat, 23), (rd.toNat, 18), (ra.toNat, 13), (rb.toNat, 8)])
  | .or stl rd ra rb => some (packWord 0x04000003 [(stl.toNat, 23), (rd.toNat, 18), (ra.toNat, 13), (rb.toNat, 8)])
  | .xor stl rd ra rb => some (packWord 0x04000004 [(stl.toNat, 23), (rd.toNat, 18), (ra.toNat, 13), (rb.toNat, 8)])
  | .andn stl rd ra rb => some (packWord 0x04000005 [(stl.toNat, 23), (rd.toNat, 18), (ra.toNat, 13), (rb.toNat, 8)])
  | .orn stl rd ra rb => some (packWord 0x04000006 [(stl.toNat, 23), (rd.toNat, 18), (ra.toNat, 13), (rb.toNat, 8)])
  | .sll stl rd ra rb => some (packWord 0x04000007 [(stl.toNat, 23), (rd.toNat, 18), (ra.toNat, 13), (rb.toNat, 8)])
  | .srl stl rd ra rb => some (packWord 0x04000008 [(stl.toNat, 23), (rd.toNat, 18), (ra.toNat, 13), (rb.toNat, 8)])
  | .sra stl rd ra rb => some (packWord 0x04000009 [(stl.toNat, 23), (rd.toNat, 18), (ra.toNat, 13), (rb.toNat, 8)])
  | .rol stl rd ra rb => some (packWord 0x0400000A [(stl.toNat, 23), (rd.toNat, 18), (ra.toNat, 13), (rb.toNat, 8)])
  | .ror stl rd ra rb => some (packWord 0x0400000B [(stl.toNat, 23), (rd.toNat, 18), (ra.toNat, 13), (rb.toNat, 8)])
  | .slt stl rd ra rb => some (packWord 0x0400000C [(stl.toNat, 23), (rd.toNat, 18), (ra.toNat, 13), (rb.toNat, 8)])
  | .sltu stl rd ra rb => some (packWord 0x0400000D [(stl.toNat, 23), (rd.toNat, 18), (ra.toNat, 13), (rb.toNat, 8)])
  | .seq stl rd ra rb => some (packWord 0x0400000E [(stl.toNat, 23), (rd.toNat, 18), (ra.toNat, 13), (rb.toNat, 8)])
  | .sne stl rd ra rb => some (packWord 0x0400000F [(stl.toNat, 23), (rd.toNat, 18), (ra.toNat, 13), (rb.toNat, 8)])
  | .min stl rd ra rb => some (packWord 0x04000010 [(stl.toNat, 23), (rd.toNat, 18), (ra.toNat, 13), (rb.toNat, 8)])
  | .max stl rd ra rb => some (packWord 0x04000011 [(stl.toNat, 23), (rd.toNat, 18), (ra.toNat, 13), (rb.toNat, 8)])
  | .minu stl rd ra rb => some (packWord 0x04000012 [(stl.toNat, 23), (rd.toNat, 18), (ra.toNat, 13), (rb.toNat, 8)])
  | .maxu stl rd ra rb => some (packWord 0x04000013 [(stl.toNat, 23), (rd.toNat, 18), (ra.toNat, 13), (rb.toNat, 8)])
  | .clz stl rd ra => some (packWord 0x04000014 [(stl.toNat, 23), (rd.toNat, 18), (ra.toNat, 13)])
  | .ctz stl rd ra => some (packWord 0x04000015 [(stl.toNat, 23), (rd.toNat, 18), (ra.toNat, 13)])
  | .popc stl rd ra => some (packWord 0x04000016 [(stl.toNat, 23), (rd.toNat, 18), (ra.toNat, 13)])
  | .bswap stl rd ra => some (packWord 0x04000017 [(stl.toNat, 23), (rd.toNat, 18), (ra.toNat, 13)])
  | .sextb stl rd ra => some (packWord 0x04000018 [(stl.toNat, 23), (rd.toNat, 18), (ra.toNat, 13)])
  | .sexth stl rd ra => some (packWord 0x04000019 [(stl.toNat, 23), (rd.toNat, 18), (ra.toNat, 13)])
  | .sextw stl rd ra => some (packWord 0x0400001A [(stl.toNat, 23), (rd.toNat, 18), (ra.toNat, 13)])
  | .zextw stl rd ra => some (packWord 0x0400001B [(stl.toNat, 23), (rd.toNat, 18), (ra.toNat, 13)])
  | .addi stl rd ra imm => some (packWord 0x08000000 [(stl.toNat, 23), (rd.toNat, 18), (ra.toNat, 13), (imm.toNat, 0)])
  | .andi stl rd ra imm => some (packWord 0x0C000000 [(stl.toNat, 23), (rd.toNat, 18), (ra.toNat, 13), (imm.toNat, 0)])
  | .ori stl rd ra imm => some (packWord 0x10000000 [(stl.toNat, 23), (rd.toNat, 18), (ra.toNat, 13), (imm.toNat, 0)])
  | .xori stl rd ra imm => some (packWord 0x14000000 [(stl.toNat, 23), (rd.toNat, 18), (ra.toNat, 13), (imm.toNat, 0)])
  | .slti stl rd ra imm => some (packWord 0x18000000 [(stl.toNat, 23), (rd.toNat, 18), (ra.toNat, 13), (imm.toNat, 0)])
  | .sltiu stl rd ra imm => some (packWord 0x1C000000 [(stl.toNat, 23), (rd.toNat, 18), (ra.toNat, 13), (imm.toNat, 0)])
  | .slli stl rd ra amt => some (packWord 0x20000000 [(stl.toNat, 23), (rd.toNat, 18), (ra.toNat, 13), (amt.toNat, 0)])
  | .srli stl rd ra amt => some (packWord 0x20000800 [(stl.toNat, 23), (rd.toNat, 18), (ra.toNat, 13), (amt.toNat, 0)])
  | .srai stl rd ra amt => some (packWord 0x20001000 [(stl.toNat, 23), (rd.toNat, 18), (ra.toNat, 13), (amt.toNat, 0)])
  | .rori stl rd ra amt => some (packWord 0x20001800 [(stl.toNat, 23), (rd.toNat, 18), (ra.toNat, 13), (amt.toNat, 0)])
  | .lui stl rd imm => some (packWord 0x24000000 [(stl.toNat, 23), (rd.toNat, 18), (imm.toNat, 0)])
  | .auipc stl rd imm => some (packWord 0x28000000 [(stl.toNat, 23), (rd.toNat, 18), (imm.toNat, 0)])
  | .padd stl rd ra rb => some (packWord 0x2C000000 [(stl.toNat, 23), (rd.toNat, 18), (ra.toNat, 13), (rb.toNat, 8)])
  | .psub stl rd ra rb => some (packWord 0x2C000001 [(stl.toNat, 23), (rd.toNat, 18), (ra.toNat, 13), (rb.toNat, 8)])
  | .ptag stl rd ra rb => some (packWord 0x2C000002 [(stl.toNat, 23), (rd.toNat, 18), (ra.toNat, 13), (rb.toNat, 8)])
  | .pfmt stl rd ra rb => some (packWord 0x2C000003 [(stl.toNat, 23), (rd.toNat, 18), (ra.toNat, 13), (rb.toNat, 8)])
  | .pchk stl rd ra rb => some (packWord 0x2C000004 [(stl.toNat, 23), (rd.toNat, 18), (ra.toNat, 13), (rb.toNat, 8)])
  | .pspc stl rd ra rb => some (packWord 0x2C000005 [(stl.toNat, 23), (rd.toNat, 18), (ra.toNat, 13), (rb.toNat, 8)])
  | .paddi stl rd ra imm => some (packWord 0x30000000 [(stl.toNat, 23), (rd.toNat, 18), (ra.toNat, 13), (imm.toNat, 0)])
  | .fadd stl rd ra rb prec => some (packWord 0x34000000 [(stl.toNat, 23), (rd.toNat, 18), (ra.toNat, 13), (rb.toNat, 8), (prec.toNat, 6)])
  | .fsub stl rd ra rb prec => some (packWord 0x34000001 [(stl.toNat, 23), (rd.toNat, 18), (ra.toNat, 13), (rb.toNat, 8), (prec.toNat, 6)])
  | .fmul stl rd ra rb prec => some (packWord 0x34000002 [(stl.toNat, 23), (rd.toNat, 18), (ra.toNat, 13), (rb.toNat, 8), (prec.toNat, 6)])
  | .fdiv stl rd ra rb prec => some (packWord 0x34000003 [(stl.toNat, 23), (rd.toNat, 18), (ra.toNat, 13), (rb.toNat, 8), (prec.toNat, 6)])
  | .fsqrt stl rd ra prec => some (packWord 0x34000004 [(stl.toNat, 23), (rd.toNat, 18), (ra.toNat, 13), (prec.toNat, 6)])
  | .fmin stl rd ra rb prec => some (packWord 0x34000005 [(stl.toNat, 23), (rd.toNat, 18), (ra.toNat, 13), (rb.toNat, 8), (prec.toNat, 6)])
  | .fmax stl rd ra rb prec => some (packWord 0x34000006 [(stl.toNat, 23), (rd.toNat, 18), (ra.toNat, 13), (rb.toNat, 8), (prec.toNat, 6)])
  | .ffma stl rd ra rb prec => some (packWord 0x34000007 [(stl.toNat, 23), (rd.toNat, 18), (ra.toNat, 13), (rb.toNat, 8), (prec.toNat, 6)])
  | .ffms stl rd ra rb prec => some (packWord 0x34000008 [(stl.toNat, 23), (rd.toNat, 18), (ra.toNat, 13), (rb.toNat, 8), (prec.toNat, 6)])
  | .feq stl rd ra rb prec => some (packWord 0x34000009 [(stl.toNat, 23), (rd.toNat, 18), (ra.toNat, 13), (rb.toNat, 8), (prec.toNat, 6)])
  | .flt stl rd ra rb prec => some (packWord 0x3400000A [(stl.toNat, 23), (rd.toNat, 18), (ra.toNat, 13), (rb.toNat, 8), (prec.toNat, 6)])
  | .fle stl rd ra rb prec => some (packWord 0x3400000B [(stl.toNat, 23), (rd.toNat, 18), (ra.toNat, 13), (rb.toNat, 8), (prec.toNat, 6)])
  | .fclass stl rd ra prec => some (packWord 0x3400000C [(stl.toNat, 23), (rd.toNat, 18), (ra.toNat, 13), (prec.toNat, 6)])
  | .fsgnj stl rd ra rb prec => some (packWord 0x3400000D [(stl.toNat, 23), (rd.toNat, 18), (ra.toNat, 13), (rb.toNat, 8), (prec.toNat, 6)])
  | .fsgnjn stl rd ra rb prec => some (packWord 0x3400000E [(stl.toNat, 23), (rd.toNat, 18), (ra.toNat, 13), (rb.toNat, 8), (prec.toNat, 6)])
  | .fsgnjx stl rd ra rb prec => some (packWord 0x3400000F [(stl.toNat, 23), (rd.toNat, 18), (ra.toNat, 13), (rb.toNat, 8), (prec.toNat, 6)])
  | .fcvtI stl rd ra prec => some (packWord 0x34000010 [(stl.toNat, 23), (rd.toNat, 18), (ra.toNat, 13), (prec.toNat, 6)])
  | .fcvtIu stl rd ra prec => some (packWord 0x34000011 [(stl.toNat, 23), (rd.toNat, 18), (ra.toNat, 13), (prec.toNat, 6)])
  | .fcvtF stl rd ra prec => some (packWord 0x34000012 [(stl.toNat, 23), (rd.toNat, 18), (ra.toNat, 13), (prec.toNat, 6)])
  | .fcvtFu stl rd ra prec => some (packWord 0x34000013 [(stl.toNat, 23), (rd.toNat, 18), (ra.toNat, 13), (prec.toNat, 6)])
  | .fcvtP stl rd ra sprec prec => some (packWord 0x34000014 [(stl.toNat, 23), (rd.toNat, 18), (ra.toNat, 13), (sprec.toNat, 8), (prec.toNat, 6)])
  | .mul stl rd ra rb => some (packWord 0x38000000 [(stl.toNat, 23), (rd.toNat, 18), (ra.toNat, 13), (rb.toNat, 8)])
  | .mulh stl rd ra rb => some (packWord 0x38000001 [(stl.toNat, 23), (rd.toNat, 18), (ra.toNat, 13), (rb.toNat, 8)])
  | .mulhu stl rd ra rb => some (packWord 0x38000002 [(stl.toNat, 23), (rd.toNat, 18), (ra.toNat, 13), (rb.toNat, 8)])
  | .mulhsu stl rd ra rb => some (packWord 0x38000003 [(stl.toNat, 23), (rd.toNat, 18), (ra.toNat, 13), (rb.toNat, 8)])
  | .div stl rd ra rb => some (packWord 0x38000004 [(stl.toNat, 23), (rd.toNat, 18), (ra.toNat, 13), (rb.toNat, 8)])
  | .divu stl rd ra rb => some (packWord 0x38000005 [(stl.toNat, 23), (rd.toNat, 18), (ra.toNat, 13), (rb.toNat, 8)])
  | .rem stl rd ra rb => some (packWord 0x38000006 [(stl.toNat, 23), (rd.toNat, 18), (ra.toNat, 13), (rb.toNat, 8)])
  | .remu stl rd ra rb => some (packWord 0x38000007 [(stl.toNat, 23), (rd.toNat, 18), (ra.toNat, 13), (rb.toNat, 8)])
  | .beq stl ra rb off => some (packWord 0x40000000 [(stl.toNat, 23), (ra.toNat, 18), (rb.toNat, 13), (off.toNat, 0)])
  | .bne stl ra rb off => some (packWord 0x44000000 [(stl.toNat, 23), (ra.toNat, 18), (rb.toNat, 13), (off.toNat, 0)])
  | .blt stl ra rb off => some (packWord 0x48000000 [(stl.toNat, 23), (ra.toNat, 18), (rb.toNat, 13), (off.toNat, 0)])
  | .bge stl ra rb off => some (packWord 0x4C000000 [(stl.toNat, 23), (ra.toNat, 18), (rb.toNat, 13), (off.toNat, 0)])
  | .bltu stl ra rb off => some (packWord 0x50000000 [(stl.toNat, 23), (ra.toNat, 18), (rb.toNat, 13), (off.toNat, 0)])
  | .bgeu stl ra rb off => some (packWord 0x54000000 [(stl.toNat, 23), (ra.toNat, 18), (rb.toNat, 13), (off.toNat, 0)])
  | .j stl off => some (packWord 0x58000000 [(stl.toNat, 23), (off.toNat, 0)])
  | .jal stl off => some (packWord 0x5C000000 [(stl.toNat, 23), (off.toNat, 0)])
  | .jalr stl rd ra imm => some (packWord 0x60000000 [(stl.toNat, 23), (rd.toNat, 18), (ra.toNat, 13), (imm.toNat, 0)])
  | .lb stl rd ra off => some (packWord 0x64000000 [(stl.toNat, 23), (rd.toNat, 18), (ra.toNat, 13), (off.toNat, 0)])
  | .lbu stl rd ra off => some (packWord 0x64000400 [(stl.toNat, 23), (rd.toNat, 18), (ra.toNat, 13), (off.toNat, 0)])
  | .lh stl rd ra off => some (packWord 0x64000800 [(stl.toNat, 23), (rd.toNat, 18), (ra.toNat, 13), (off.toNat, 0)])
  | .lhu stl rd ra off => some (packWord 0x64000C00 [(stl.toNat, 23), (rd.toNat, 18), (ra.toNat, 13), (off.toNat, 0)])
  | .lw stl rd ra off => some (packWord 0x64001000 [(stl.toNat, 23), (rd.toNat, 18), (ra.toNat, 13), (off.toNat, 0)])
  | .lwu stl rd ra off => some (packWord 0x64001400 [(stl.toNat, 23), (rd.toNat, 18), (ra.toNat, 13), (off.toNat, 0)])
  | .ld stl rd ra off => some (packWord 0x64001800 [(stl.toNat, 23), (rd.toNat, 18), (ra.toNat, 13), (off.toNat, 0)])
  | .sb stl rd ra off => some (packWord 0x68000000 [(stl.toNat, 23), (rd.toNat, 18), (ra.toNat, 13), (off.toNat, 0)])
  | .sh stl rd ra off => some (packWord 0x68000800 [(stl.toNat, 23), (rd.toNat, 18), (ra.toNat, 13), (off.toNat, 0)])
  | .sw stl rd ra off => some (packWord 0x68001000 [(stl.toNat, 23), (rd.toNat, 18), (ra.toNat, 13), (off.toNat, 0)])
  | .sd stl rd ra off => some (packWord 0x68001800 [(stl.toNat, 23), (rd.toNat, 18), (ra.toNat, 13), (off.toNat, 0)])
  | .lbx stl rd ra rb sh => some (packWord 0x6C000000 [(stl.toNat, 23), (rd.toNat, 18), (ra.toNat, 13), (rb.toNat, 8), (sh.toNat, 4)])
  | .lbux stl rd ra rb sh => some (packWord 0x6C000001 [(stl.toNat, 23), (rd.toNat, 18), (ra.toNat, 13), (rb.toNat, 8), (sh.toNat, 4)])
  | .lhx stl rd ra rb sh => some (packWord 0x6C000002 [(stl.toNat, 23), (rd.toNat, 18), (ra.toNat, 13), (rb.toNat, 8), (sh.toNat, 4)])
  | .lhux stl rd ra rb sh => some (packWord 0x6C000003 [(stl.toNat, 23), (rd.toNat, 18), (ra.toNat, 13), (rb.toNat, 8), (sh.toNat, 4)])
  | .lwx stl rd ra rb sh => some (packWord 0x6C000004 [(stl.toNat, 23), (rd.toNat, 18), (ra.toNat, 13), (rb.toNat, 8), (sh.toNat, 4)])
  | .lwux stl rd ra rb sh => some (packWord 0x6C000005 [(stl.toNat, 23), (rd.toNat, 18), (ra.toNat, 13), (rb.toNat, 8), (sh.toNat, 4)])
  | .ldx stl rd ra rb sh => some (packWord 0x6C000006 [(stl.toNat, 23), (rd.toNat, 18), (ra.toNat, 13), (rb.toNat, 8), (sh.toNat, 4)])
  | .sbx stl rd ra rb sh => some (packWord 0x6C000008 [(stl.toNat, 23), (rd.toNat, 18), (ra.toNat, 13), (rb.toNat, 8), (sh.toNat, 4)])
  | .shx stl rd ra rb sh => some (packWord 0x6C00000A [(stl.toNat, 23), (rd.toNat, 18), (ra.toNat, 13), (rb.toNat, 8), (sh.toNat, 4)])
  | .swx stl rd ra rb sh => some (packWord 0x6C00000C [(stl.toNat, 23), (rd.toNat, 18), (ra.toNat, 13), (rb.toNat, 8), (sh.toNat, 4)])
  | .sdx stl rd ra rb sh => some (packWord 0x6C00000E [(stl.toNat, 23), (rd.toNat, 18), (ra.toNat, 13), (rb.toNat, 8), (sh.toNat, 4)])
  | .amoadd stl rd ra rb w => some (packWord 0x70000000 [(stl.toNat, 23), (rd.toNat, 18), (ra.toNat, 13), (rb.toNat, 8), (w.toNat, 7)])
  | .amoand stl rd ra rb w => some (packWord 0x70000001 [(stl.toNat, 23), (rd.toNat, 18), (ra.toNat, 13), (rb.toNat, 8), (w.toNat, 7)])
  | .amoor stl rd ra rb w => some (packWord 0x70000002 [(stl.toNat, 23), (rd.toNat, 18), (ra.toNat, 13), (rb.toNat, 8), (w.toNat, 7)])
  | .amoxor stl rd ra rb w => some (packWord 0x70000003 [(stl.toNat, 23), (rd.toNat, 18), (ra.toNat, 13), (rb.toNat, 8), (w.toNat, 7)])
  | .amomin stl rd ra rb w => some (packWord 0x70000004 [(stl.toNat, 23), (rd.toNat, 18), (ra.toNat, 13), (rb.toNat, 8), (w.toNat, 7)])
  | .amomax stl rd ra rb w => some (packWord 0x70000005 [(stl.toNat, 23), (rd.toNat, 18), (ra.toNat, 13), (rb.toNat, 8), (w.toNat, 7)])
  | .amominu stl rd ra rb w => some (packWord 0x70000006 [(stl.toNat, 23), (rd.toNat, 18), (ra.toNat, 13), (rb.toNat, 8), (w.toNat, 7)])
  | .amomaxu stl rd ra rb w => some (packWord 0x70000007 [(stl.toNat, 23), (rd.toNat, 18), (ra.toNat, 13), (rb.toNat, 8), (w.toNat, 7)])
  | .amoswap stl rd ra rb w => some (packWord 0x70000008 [(stl.toNat, 23), (rd.toNat, 18), (ra.toNat, 13), (rb.toNat, 8), (w.toNat, 7)])
  | .amocas stl rd ra rb w => some (packWord 0x70000009 [(stl.toNat, 23), (rd.toNat, 18), (ra.toNat, 13), (rb.toNat, 8), (w.toNat, 7)])
  | .amofadd stl rd ra rb w => some (packWord 0x7000000A [(stl.toNat, 23), (rd.toNat, 18), (ra.toNat, 13), (rb.toNat, 8), (w.toNat, 7)])
  | .amofaddBf stl rd ra rb => some (packWord 0x7000000B [(stl.toNat, 23), (rd.toNat, 18), (ra.toNat, 13), (rb.toNat, 8)])
  | .amofmin stl rd ra rb w => some (packWord 0x7000000C [(stl.toNat, 23), (rd.toNat, 18), (ra.toNat, 13), (rb.toNat, 8), (w.toNat, 7)])
  | .amofmax stl rd ra rb w => some (packWord 0x7000000D [(stl.toNat, 23), (rd.toNat, 18), (ra.toNat, 13), (rb.toNat, 8), (w.toNat, 7)])
  | .amold stl rd ra w => some (packWord 0x7000000E [(stl.toNat, 23), (rd.toNat, 18), (ra.toNat, 13), (w.toNat, 7)])
  | .tlook stl rd ra => some (packWord 0x74000000 [(stl.toNat, 23), (rd.toNat, 18), (ra.toNat, 13)])
  | .tset stl ra rb => some (packWord 0x74000001 [(stl.toNat, 23), (ra.toNat, 13), (rb.toNat, 8)])
  | .tinv stl ra => some (packWord 0x74000002 [(stl.toNat, 23), (ra.toNat, 13)])
  | .tvict stl rd ra => some (packWord 0x74000003 [(stl.toNat, 23), (rd.toNat, 18), (ra.toNat, 13)])
  | .tdirty stl rd ra => some (packWord 0x74000004 [(stl.toNat, 23), (rd.toNat, 18), (ra.toNat, 13)])
  | .fence stl pred succ scope => some (packWord 0x78000000 [(stl.toNat, 23), (pred.toNat, 17), (succ.toNat, 11), (scope.toNat, 8)])
  | .phase stl pred succ scope => some (packWord 0x78000040 [(stl.toNat, 23), (pred.toNat, 17), (succ.toNat, 11), (scope.toNat, 8)])
  | .ifence stl scope => some (packWord 0x78000080 [(stl.toNat, 23), (scope.toNat, 8)])
  | .rep count step ssize => some (packWord 0x7C000000 [(count.toNat, 17), (step.toNat, 8), (ssize.toNat, 6)])
  | .repReg xreg step ssize => some (packWord 0x7C010000 [(xreg.toNat, 11), (step.toNat, 8), (ssize.toNat, 6)])
  | .vadd stl rd ra rb et => some (packWord 0x80000000 [(stl.toNat, 23), (rd.toNat, 18), (ra.toNat, 13), (rb.toNat, 8), (et.toNat, 5)])
  | .vsub stl rd ra rb et => some (packWord 0x80000001 [(stl.toNat, 23), (rd.toNat, 18), (ra.toNat, 13), (rb.toNat, 8), (et.toNat, 5)])
  | .vmul stl rd ra rb et => some (packWord 0x80000002 [(stl.toNat, 23), (rd.toNat, 18), (ra.toNat, 13), (rb.toNat, 8), (et.toNat, 5)])
  | .vfma stl rd ra rb et => some (packWord 0x80000003 [(stl.toNat, 23), (rd.toNat, 18), (ra.toNat, 13), (rb.toNat, 8), (et.toNat, 5)])
  | .vfms stl rd ra rb et => some (packWord 0x80000004 [(stl.toNat, 23), (rd.toNat, 18), (ra.toNat, 13), (rb.toNat, 8), (et.toNat, 5)])
  | .vmin stl rd ra rb et => some (packWord 0x80000005 [(stl.toNat, 23), (rd.toNat, 18), (ra.toNat, 13), (rb.toNat, 8), (et.toNat, 5)])
  | .vmax stl rd ra rb et => some (packWord 0x80000006 [(stl.toNat, 23), (rd.toNat, 18), (ra.toNat, 13), (rb.toNat, 8), (et.toNat, 5)])
  | .vabs stl rd ra et => some (packWord 0x80000007 [(stl.toNat, 23), (rd.toNat, 18), (ra.toNat, 13), (et.toNat, 5)])
  | .vneg stl rd ra et => some (packWord 0x80000008 [(stl.toNat, 23), (rd.toNat, 18), (ra.toNat, 13), (et.toNat, 5)])
  | .vand stl rd ra rb et => some (packWord 0x80000009 [(stl.toNat, 23), (rd.toNat, 18), (ra.toNat, 13), (rb.toNat, 8), (et.toNat, 5)])
  | .vor stl rd ra rb et => some (packWord 0x8000000A [(stl.toNat, 23), (rd.toNat, 18), (ra.toNat, 13), (rb.toNat, 8), (et.toNat, 5)])
  | .vxor stl rd ra rb et => some (packWord 0x8000000B [(stl.toNat, 23), (rd.toNat, 18), (ra.toNat, 13), (rb.toNat, 8), (et.toNat, 5)])
  | .vshl stl rd ra rb et => some (packWord 0x8000000C [(stl.toNat, 23), (rd.toNat, 18), (ra.toNat, 13), (rb.toNat, 8), (et.toNat, 5)])
  | .vshr stl rd ra rb et => some (packWord 0x8000000D [(stl.toNat, 23), (rd.toNat, 18), (ra.toNat, 13), (rb.toNat, 8), (et.toNat, 5)])
  | .vsra stl rd ra rb et => some (packWord 0x8000000E [(stl.toNat, 23), (rd.toNat, 18), (ra.toNat, 13), (rb.toNat, 8), (et.toNat, 5)])
  | .vceq stl rd ra rb et => some (packWord 0x8000000F [(stl.toNat, 23), (rd.toNat, 18), (ra.toNat, 13), (rb.toNat, 8), (et.toNat, 5)])
  | .vclt stl rd ra rb et => some (packWord 0x80000010 [(stl.toNat, 23), (rd.toNat, 18), (ra.toNat, 13), (rb.toNat, 8), (et.toNat, 5)])
  | .vcle stl rd ra rb et => some (packWord 0x80000011 [(stl.toNat, 23), (rd.toNat, 18), (ra.toNat, 13), (rb.toNat, 8), (et.toNat, 5)])
  | .vsel stl rd ra rb et => some (packWord 0x80000012 [(stl.toNat, 23), (rd.toNat, 18), (ra.toNat, 13), (rb.toNat, 8), (et.toNat, 5)])
  | .vadds stl rd ra rb et => some (packWord 0x80000013 [(stl.toNat, 23), (rd.toNat, 18), (ra.toNat, 13), (rb.toNat, 8), (et.toNat, 5)])
  | .vsubs stl rd ra rb et => some (packWord 0x80000014 [(stl.toNat, 23), (rd.toNat, 18), (ra.toNat, 13), (rb.toNat, 8), (et.toNat, 5)])
  | .vmov stl rd ra et => some (packWord 0x80000015 [(stl.toNat, 23), (rd.toNat, 18), (ra.toNat, 13), (et.toNat, 5)])
  | .vdiv stl rd ra rb et => some (packWord 0x80000016 [(stl.toNat, 23), (rd.toNat, 18), (ra.toNat, 13), (rb.toNat, 8), (et.toNat, 5)])
  | .vmulhi stl rd ra rb et => some (packWord 0x80000017 [(stl.toNat, 23), (rd.toNat, 18), (ra.toNat, 13), (rb.toNat, 8), (et.toNat, 5)])
  | .vrcp stl rd ra ct rm => some (packWord 0x84000000 [(stl.toNat, 23), (rd.toNat, 18), (ra.toNat, 13), (ct.toNat, 6), (rm.toNat, 0)])
  | .vrsq stl rd ra ct rm => some (packWord 0x84000100 [(stl.toNat, 23), (rd.toNat, 18), (ra.toNat, 13), (ct.toNat, 6), (rm.toNat, 0)])
  | .vsqrt stl rd ra ct rm => some (packWord 0x84000200 [(stl.toNat, 23), (rd.toNat, 18), (ra.toNat, 13), (ct.toNat, 6), (rm.toNat, 0)])
  | .vexp2 stl rd ra ct rm => some (packWord 0x84000300 [(stl.toNat, 23), (rd.toNat, 18), (ra.toNat, 13), (ct.toNat, 6), (rm.toNat, 0)])
  | .vlog2 stl rd ra ct rm => some (packWord 0x84000400 [(stl.toNat, 23), (rd.toNat, 18), (ra.toNat, 13), (ct.toNat, 6), (rm.toNat, 0)])
  | .vtanh stl rd ra ct rm => some (packWord 0x84000500 [(stl.toNat, 23), (rd.toNat, 18), (ra.toNat, 13), (ct.toNat, 6), (rm.toNat, 0)])
  | .vsigm stl rd ra ct rm => some (packWord 0x84000600 [(stl.toNat, 23), (rd.toNat, 18), (ra.toNat, 13), (ct.toNat, 6), (rm.toNat, 0)])
  | .vcvt stl rd ra ct sf rm => some (packWord 0x84000700 [(stl.toNat, 23), (rd.toNat, 18), (ra.toNat, 13), (ct.toNat, 6), (sf.toNat, 2), (rm.toNat, 0)])
  | .vcvtf stl rd ra ct sf rm => some (packWord 0x84000800 [(stl.toNat, 23), (rd.toNat, 18), (ra.toNat, 13), (ct.toNat, 6), (sf.toNat, 2), (rm.toNat, 0)])
  | .vpack stl rd ra => some (packWord 0x8400092C [(stl.toNat, 23), (rd.toNat, 18), (ra.toNat, 13)])
  | .vunpack stl rd ra => some (packWord 0x84000A2C [(stl.toNat, 23), (rd.toNat, 18), (ra.toNat, 13)])
  | .vscale stl rd ra ct sf rm => some (packWord 0x84000B00 [(stl.toNat, 23), (rd.toNat, 18), (ra.toNat, 13), (ct.toNat, 6), (sf.toNat, 2), (rm.toNat, 0)])
  | .vbscl stl rd ra ct sf => some (packWord 0x84000C00 [(stl.toNat, 23), (rd.toNat, 18), (ra.toNat, 13), (ct.toNat, 6), (sf.toNat, 2)])
  | .vrsum stl rd ra et => some (packWord 0x88000000 [(stl.toNat, 23), (rd.toNat, 18), (ra.toNat, 13), (et.toNat, 5)])
  | .vrmax stl rd ra et => some (packWord 0x88000001 [(stl.toNat, 23), (rd.toNat, 18), (ra.toNat, 13), (et.toNat, 5)])
  | .vrmin stl rd ra et => some (packWord 0x88000002 [(stl.toNat, 23), (rd.toNat, 18), (ra.toNat, 13), (et.toNat, 5)])
  | .vperm stl rd ra rb et => some (packWord 0x88000003 [(stl.toNat, 23), (rd.toNat, 18), (ra.toNat, 13), (rb.toNat, 8), (et.toNat, 5)])
  | .vrotx stl rd ra rb et => some (packWord 0x88000004 [(stl.toNat, 23), (rd.toNat, 18), (ra.toNat, 13), (rb.toNat, 8), (et.toNat, 5)])
  | .vbcast stl rd ra et => some (packWord 0x88000005 [(stl.toNat, 23), (rd.toNat, 18), (ra.toNat, 13), (et.toNat, 5)])
  | .vext stl rd ra rb et => some (packWord 0x88000006 [(stl.toNat, 23), (rd.toNat, 18), (ra.toNat, 13), (rb.toNat, 8), (et.toNat, 5)])
  | .vins stl rd ra rb et => some (packWord 0x88000007 [(stl.toNat, 23), (rd.toNat, 18), (ra.toNat, 13), (rb.toNat, 8), (et.toNat, 5)])
  | .viota stl rd et => some (packWord 0x88000008 [(stl.toNat, 23), (rd.toNat, 18), (et.toNat, 5)])
  | .vld stl rd ra part off => some (packWord 0x8C000000 [(stl.toNat, 23), (rd.toNat, 18), (ra.toNat, 13), (part.toNat, 10), (off.toNat, 0)])
  | .vst stl rd ra part off => some (packWord 0x90000000 [(stl.toNat, 23), (rd.toNat, 18), (ra.toNat, 13), (part.toNat, 10), (off.toNat, 0)])
  | .vldxW stl rd ra rb => some (packWord 0x94000000 [(stl.toNat, 23), (rd.toNat, 18), (ra.toNat, 13), (rb.toNat, 8)])
  | .vldxD stl rd ra rb => some (packWord 0x94000001 [(stl.toNat, 23), (rd.toNat, 18), (ra.toNat, 13), (rb.toNat, 8)])
  | .vstxW stl rd ra rb => some (packWord 0x94000002 [(stl.toNat, 23), (rd.toNat, 18), (ra.toNat, 13), (rb.toNat, 8)])
  | .vstxD stl rd ra rb => some (packWord 0x94000003 [(stl.toNat, 23), (rd.toNat, 18), (ra.toNat, 13), (rb.toNat, 8)])
  | .vmerge stl rd ra rb et => some (packWord 0x98000080 [(stl.toNat, 23), (rd.toNat, 18), (ra.toNat, 13), (rb.toNat, 8), (et.toNat, 5)])
  | .pmx stl rd ra rb et => some (packWord 0x98000081 [(stl.toNat, 23), (rd.toNat, 18), (ra.toNat, 13), (rb.toNat, 8), (et.toNat, 5)])
  | .pmsend stl ra rb => some (packWord 0x98000002 [(stl.toNat, 23), (ra.toNat, 13), (rb.toNat, 8)])
  | .pmrecv stl rd rb => some (packWord 0x98000003 [(stl.toNat, 23), (rd.toNat, 18), (rb.toNat, 8)])
  | .sbind stl rd ra => some (packWord 0x9C000000 [(stl.toNat, 23), (rd.toNat, 18), (ra.toNat, 13)])
  | .sunbind stl rd => some (packWord 0x9C000001 [(stl.toNat, 23), (rd.toNat, 18)])
  | .sstat stl rd ra => some (packWord 0x9C000002 [(stl.toNat, 23), (rd.toNat, 18), (ra.toNat, 13)])
  | .sdrain stl rd => some (packWord 0x9C000003 [(stl.toNat, 23), (rd.toNat, 18)])
  | .sskip stl rd ra => some (packWord 0x9C000004 [(stl.toNat, 23), (rd.toNat, 18), (ra.toNat, 13)])
  | .spawn stl rd ra rb => some (packWord 0xA0000000 [(stl.toNat, 23), (rd.toNat, 18), (ra.toNat, 13), (rb.toNat, 8)])
  | .join stl rd ra => some (packWord 0xA0000001 [(stl.toNat, 23), (rd.toNat, 18), (ra.toNat, 13)])
  | .exit stl ra => some (packWord 0xA0000002 [(stl.toNat, 23), (ra.toNat, 13)])
  | .yield stl => some (packWord 0xA0000003 [(stl.toNat, 23)])
  | .prio stl ra => some (packWord 0xA0000004 [(stl.toNat, 23), (ra.toNat, 13)])
  | .tid stl rd => some (packWord 0xA0000005 [(stl.toNat, 23), (rd.toNat, 18)])
  | .detach stl ra => some (packWord 0xA0000006 [(stl.toNat, 23), (ra.toNat, 13)])
  | .kill stl ra => some (packWord 0xA0000007 [(stl.toNat, 23), (ra.toNat, 13)])
  | .cinit stl prv cue ra => some (packWord 0xA4000000 [(stl.toNat, 23), (prv.toNat, 19), (cue.toNat, 11), (ra.toNat, 6)])
  | .cwait stl prv cue ra => some (packWord 0xA4100000 [(stl.toNat, 23), (prv.toNat, 19), (cue.toNat, 11), (ra.toNat, 6)])
  | .csig stl prv cue ra => some (packWord 0xA4200000 [(stl.toNat, 23), (prv.toNat, 19), (cue.toNat, 11), (ra.toNat, 6)])
  | .cread stl prv cue rd => some (packWord 0xA4300000 [(stl.toNat, 23), (prv.toNat, 19), (cue.toNat, 11), (rd.toNat, 1)])
  | .ctry stl prv cue ra rd => some (packWord 0xA4400000 [(stl.toNat, 23), (prv.toNat, 19), (cue.toNat, 11), (ra.toNat, 6), (rd.toNat, 1)])
  | .cwaitt stl prv cue ra rd => some (packWord 0xA4500000 [(stl.toNat, 23), (prv.toNat, 19), (cue.toNat, 11), (ra.toNat, 6), (rd.toNat, 1)])
  | .csigr stl cue ra rd => some (packWord 0xA4600000 [(stl.toNat, 23), (cue.toNat, 11), (ra.toNat, 6), (rd.toNat, 1)])
  | .send stl ra rb => some (packWord 0xA8000000 [(stl.toNat, 23), (ra.toNat, 13), (rb.toNat, 8)])
  | .recv stl rd => some (packWord 0xA8000001 [(stl.toNat, 23), (rd.toNat, 18)])
  | .recvt stl rd ra => some (packWord 0xA8000002 [(stl.toNat, 23), (rd.toNat, 18), (ra.toNat, 13)])
  | .mclaim stl ra => some (packWord 0xAC000000 [(stl.toNat, 23), (ra.toNat, 10)])
  | .mrel stl ra => some (packWord 0xAC000001 [(stl.toNat, 23), (ra.toNat, 10)])
  | .mload stl tag ra rb => some (packWord 0xAC000002 [(stl.toNat, 23), (tag.toNat, 15), (ra.toNat, 10), (rb.toNat, 5)])
  | .mma stl tag ra rb => some (packWord 0xAC000003 [(stl.toNat, 23), (tag.toNat, 15), (ra.toNat, 10), (rb.toNat, 5)])
  | .mmas stl tag ra rb => some (packWord 0xAC000004 [(stl.toNat, 23), (tag.toNat, 15), (ra.toNat, 10), (rb.toNat, 5)])
  | .mgemm stl tag ra rb => some (packWord 0xAC000005 [(stl.toNat, 23), (tag.toNat, 15), (ra.toNat, 10), (rb.toNat, 5)])
  | .mdrain stl tag ra rb => some (packWord 0xAC000006 [(stl.toNat, 23), (tag.toNat, 15), (ra.toNat, 10), (rb.toNat, 5)])
  | .mzero stl tag ra => some (packWord 0xAC000007 [(stl.toNat, 23), (tag.toNat, 15), (ra.toNat, 10)])
  | .mtov stl tag ra => some (packWord 0xAC000008 [(stl.toNat, 23), (tag.toNat, 15), (ra.toNat, 10)])
  | .cpy stl tag ra rb => some (packWord 0xAC080000 [(stl.toNat, 23), (tag.toNat, 15), (ra.toNat, 10), (rb.toNat, 5)])
  | .cpys stl tag ra rb => some (packWord 0xAC080001 [(stl.toNat, 23), (tag.toNat, 15), (ra.toNat, 10), (rb.toNat, 5)])
  | .cpyg stl tag ra rb => some (packWord 0xAC080002 [(stl.toNat, 23), (tag.toNat, 15), (ra.toNat, 10), (rb.toNat, 5)])
  | .cpyx stl tag ra rb => some (packWord 0xAC080003 [(stl.toNat, 23), (tag.toNat, 15), (ra.toNat, 10), (rb.toNat, 5)])
  | .cpyf stl tag ra rb => some (packWord 0xAC080004 [(stl.toNat, 23), (tag.toNat, 15), (ra.toNat, 10), (rb.toNat, 5)])
  | .tqpost stl tag ra rb => some (packWord 0xAC100000 [(stl.toNat, 23), (tag.toNat, 15), (ra.toNat, 10), (rb.toNat, 5)])
  | .tqflush stl tag ra => some (packWord 0xAC100001 [(stl.toNat, 23), (tag.toNat, 15), (ra.toNat, 10)])
  | .swpin stl tag ra rb => some (packWord 0xAC180000 [(stl.toNat, 23), (tag.toNat, 15), (ra.toNat, 10), (rb.toNat, 5)])
  | .swpout stl tag ra rb => some (packWord 0xAC180001 [(stl.toNat, 23), (tag.toNat, 15), (ra.toNat, 10), (rb.toNat, 5)])
  | .swppull stl tag ra rb => some (packWord 0xAC180002 [(stl.toNat, 23), (tag.toNat, 15), (ra.toNat, 10), (rb.toNat, 5)])
  | .ewr stl ra rb n => some (packWord 0xB0000000 [(stl.toNat, 23), (ra.toNat, 10), (rb.toNat, 5), (n.toNat, 0)])
  | .erd stl rd n => some (packWord 0xB4000000 [(stl.toNat, 23), (rd.toNat, 18), (n.toNat, 0)])
  | .erdst stl rd port => some (packWord 0xB4000010 [(stl.toNat, 23), (rd.toNat, 18), (port.toNat, 0)])
  | .gopen stl rd ra => some (packWord 0xB8000000 [(stl.toNat, 23), (rd.toNat, 18), (ra.toNat, 13)])
  | .gclose stl ra => some (packWord 0xB8000001 [(stl.toNat, 23), (ra.toNat, 13)])
  | .gsig stl rd ra rb => some (packWord 0xB8000002 [(stl.toNat, 23), (rd.toNat, 18), (ra.toNat, 13), (rb.toNat, 8)])
  | .gwait stl rd ra rb => some (packWord 0xB8000003 [(stl.toNat, 23), (rd.toNat, 18), (ra.toNat, 13), (rb.toNat, 8)])
  | .gread stl rd ra => some (packWord 0xB8000004 [(stl.toNat, 23), (rd.toNat, 18), (ra.toNat, 13)])
  | .gpost stl rd ra rb => some (packWord 0xB8000005 [(stl.toNat, 23), (rd.toNat, 18), (ra.toNat, 13), (rb.toNat, 8)])
  | .gtake stl rd ra rb => some (packWord 0xB8000006 [(stl.toNat, 23), (rd.toNat, 18), (ra.toNat, 13), (rb.toNat, 8)])
  | .csrr stl rd csr => some (packWord 0xBC000000 [(stl.toNat, 23), (rd.toNat, 18), (csr.toNat, 0)])
  | .csrw stl rd ra csr => some (packWord 0xBC000200 [(stl.toNat, 23), (rd.toNat, 18), (ra.toNat, 13), (csr.toNat, 0)])
  | .csrs stl rd ra csr => some (packWord 0xBC000400 [(stl.toNat, 23), (rd.toNat, 18), (ra.toNat, 13), (csr.toNat, 0)])
  | .csrc stl rd ra csr => some (packWord 0xBC000600 [(stl.toNat, 23), (rd.toNat, 18), (ra.toNat, 13), (csr.toNat, 0)])
  | .trap stl code => some (packWord 0xBC000800 [(stl.toNat, 23), (code.toNat, 0)])
  | .tret stl => some (packWord 0xBC000A00 [(stl.toNat, 23)])
  | .brk stl => some (packWord 0xBC000C00 [(stl.toNat, 23)])
  | .repart stl rd ra => some (packWord 0xBC000E00 [(stl.toNat, 23), (rd.toNat, 18), (ra.toNat, 13)])
  | .roset stl ra pos => some (packWord 0xBC001000 [(stl.toNat, 23), (ra.toNat, 13), (pos.toNat, 0)])
  | .idle stl => some (packWord 0xBC001200 [(stl.toNat, 23)])
  | .curtain stl rd ra => some (packWord 0xBC001400 [(stl.toNat, 23), (rd.toNat, 18), (ra.toNat, 13)])
  | .migr stl rd ra => some (packWord 0xBC001600 [(stl.toNat, 23), (rd.toNat, 18), (ra.toNat, 13)])
  | .rld stl rd ra rb => some (packWord 0xC0000000 [(stl.toNat, 23), (rd.toNat, 18), (ra.toNat, 13), (rb.toNat, 8)])
  | .rst stl rd ra rb => some (packWord 0xC0000001 [(stl.toNat, 23), (rd.toNat, 18), (ra.toNat, 13), (rb.toNat, 8)])
  | .ramo stl rd ra rb => some (packWord 0xC0000002 [(stl.toNat, 23), (rd.toNat, 18), (ra.toNat, 13), (rb.toNat, 8)])
  | .spawnr stl rd ra rb => some (packWord 0xC0000003 [(stl.toNat, 23), (rd.toNat, 18), (ra.toNat, 13), (rb.toNat, 8)])
  | .csigrRank stl ra rb => some (packWord 0xC0000004 [(stl.toNat, 23), (ra.toNat, 13), (rb.toNat, 8)])
  | .stallExpiry _ _ => none
  | .prompterIssue _ => none
  | .rotationEnd _ => none
  | .rosetApply _ => none
  | .accessReply _ => none
  | .remotePortAccess _ => none
  | .postedAck _ => none
  | .secWriteback _ _ => none
  | .storeProbeReply _ => none
  | .viewDrop _ _ => none
  | .phaseComplete _ _ => none
  | .ifenceComplete _ _ => none
  | .sliceAccess _ => none
  | .sectorFill _ => none
  | .sectorWriteback _ => none
  | .memorySideAmo _ => none
  | .opAmo _ => none
  | .opCas2 _ => none
  | .opCas4 _ => none
  | .opLenq _ => none
  | .opLdeq _ => none
  | .opChase _ => none
  | .forwardedPageAccess _ => none
  | .remotePageFail _ => none
  | .xlInvpage _ => none
  | .xlRetire _ => none
  | .xlActivate _ => none
  | .xlHarvest _ => none
  | .stagehandAccept _ => none
  | .stagehandStart _ => none
  | .stagehandComplete _ _ => none
  | .matrixAccept _ => none
  | .matrixStart _ _ => none
  | .matrixComplete _ _ => none
  | .mclaimGrant _ _ => none
  | .mrelFree _ _ => none
  | .mgemmStep _ _ => none
  | .taskStart _ _ => none
  | .taskRetire _ _ => none
  | .swapAccept _ => none
  | .swapEntryDone _ => none
  | .flashUnitReply _ _ _ => none
  | .streamFetch _ _ _ => none
  | .streamWrite _ _ _ => none
  | .cueSignalArrival _ => none
  | .cwaittLimit _ _ => none
  | .recvtLimit _ _ => none
  | .messageDelivery _ => none
  | .eventDelivery _ => none
  | .pmxContribution _ => none
  | .pmsendArrival _ => none
  | .spawnrAdmission _ => none
  | .remoteRequest _ => none
  | .remoteReply _ => none
  | .requestTimeout _ => none
  | .flitReceive _ _ _ _ => none
  | .linkControlFlit _ _ => none
  | .linkReplay _ _ => none
  | .packetRoute _ => none
  | .linkRetrain _ => none
  | .linkFail _ => none
  | .timeSync _ => none
  | .refillTick => none
  | .wakeWrite _ _ => none
  | .vfMemoryRequest _ _ _ _ _ => none
  | .callSheetStart _ _ => none
  | .launch => none
  | .launchRelease _ => none
  | .launchEnd _ => none
  | .gateRequest _ => none
  | .gateCommit _ => none
  | .gateReply _ => none
  | .gateDeliveryAck _ => none
  | .gateWaitLimit _ _ => none
  | .gateCancel _ => none
  | .gateReturn _ => none
  | .thermalCheck _ _ => none
  | .displaceThread _ => none
  | .returnHome _ _ => none
  | .curtainStop _ => none
  | .curtainSave _ => none
  | .curtainResume _ => none
  | .curtainRestore _ => none
  | .curtainStart _ => none
  | .migrMove _ => none
  | .migrRetire _ => none
  | .forwardPacket _ => none
  | .tagcfgWrite _ _ => none
  | .trctlClear _ => none
  | .tquotaWrite _ _ => none
  | .registerWrite _ _ => none
  | .resetCold => none
  | .resetWarm => none
  | .powerUp => none
  | .hlaunch _ => none
  | .attestStart => none
  | .attestReport => none
  | .sensorAlarm _ => none
  | .thermalTrip _ _ => none
  | .telemetryRefresh _ => none
  | .illegalInstruction _ => none
  | .nodeTimeLost => none
  | .linkRetrained _ => none

/-- The word of an instruction, if it has one. -/
def encode (i : Instr) : Option IWord := (encodeNat i).map (BitVec.ofNat 32)

/-- The instruction the decoder reads from a table word of `nbits` bits (a word is 32 bits and
is laid out in memory little-endian, R37; bits above `nbits` are zero). -/
noncomputable def decodeTableWord (nbits w : Nat) : Option Instr :=
  match decodeBytes (Machine.natBytes 4 (w % 2 ^ nbits)) with
  | .ok (i, _) => some i
  | .error _ => none

end Sys2Proof
end

