-- ==== Sys2Proof/WellFormed.lean ====
section
/-! DEFINITION. Well-formed instructions: every field value is one the spec assigns (R42, R43, R50
to R53, R56). A word whose instruction is not well formed traps ILLEGAL. -/

namespace Sys2Proof

open Sys2Proof.Machine

/-- Whether every field of an instruction holds a value that the spec assigns. -/
def Instr.wf : Instr → Bool
  | .add _ _ _ _ => true
  | .sub _ _ _ _ => true
  | .and _ _ _ _ => true
  | .or _ _ _ _ => true
  | .xor _ _ _ _ => true
  | .andn _ _ _ _ => true
  | .orn _ _ _ _ => true
  | .sll _ _ _ _ => true
  | .srl _ _ _ _ => true
  | .sra _ _ _ _ => true
  | .rol _ _ _ _ => true
  | .ror _ _ _ _ => true
  | .slt _ _ _ _ => true
  | .sltu _ _ _ _ => true
  | .seq _ _ _ _ => true
  | .sne _ _ _ _ => true
  | .min _ _ _ _ => true
  | .max _ _ _ _ => true
  | .minu _ _ _ _ => true
  | .maxu _ _ _ _ => true
  | .clz _ _ _ => true
  | .ctz _ _ _ => true
  | .popc _ _ _ => true
  | .bswap _ _ _ => true
  | .sextb _ _ _ => true
  | .sexth _ _ _ => true
  | .sextw _ _ _ => true
  | .zextw _ _ _ => true
  | .addi _ _ _ _ => true
  | .andi _ _ _ _ => true
  | .ori _ _ _ _ => true
  | .xori _ _ _ _ => true
  | .slti _ _ _ _ => true
  | .sltiu _ _ _ _ => true
  | .slli _ _ _ _ => true
  | .srli _ _ _ _ => true
  | .srai _ _ _ _ => true
  | .rori _ _ _ _ => true
  | .lui _ _ _ => true
  | .auipc _ _ _ => true
  | .padd _ _ _ _ => true
  | .psub _ _ _ _ => true
  | .ptag _ _ _ _ => true
  | .pfmt _ _ _ _ => true
  | .pchk _ _ _ _ => true
  | .pspc _ _ _ _ => true
  | .paddi _ _ _ _ => true
  | .fadd _ _ _ _ _ => true
  | .fsub _ _ _ _ _ => true
  | .fmul _ _ _ _ _ => true
  | .fdiv _ _ _ _ _ => true
  | .fsqrt _ _ _ _ => true
  | .fmin _ _ _ _ _ => true
  | .fmax _ _ _ _ _ => true
  | .ffma _ _ _ _ _ => true
  | .ffms _ _ _ _ _ => true
  | .feq _ _ _ _ _ => true
  | .flt _ _ _ _ _ => true
  | .fle _ _ _ _ _ => true
  | .fclass _ _ _ _ => true
  | .fsgnj _ _ _ _ _ => true
  | .fsgnjn _ _ _ _ _ => true
  | .fsgnjx _ _ _ _ _ => true
  | .fcvtI _ _ _ _ => true
  | .fcvtIu _ _ _ _ => true
  | .fcvtF _ _ _ _ => true
  | .fcvtFu _ _ _ _ => true
  | .fcvtP _ _ _ _ _ => true
  | .mul _ _ _ _ => true
  | .mulh _ _ _ _ => true
  | .mulhu _ _ _ _ => true
  | .mulhsu _ _ _ _ => true
  | .div _ _ _ _ => true
  | .divu _ _ _ _ => true
  | .rem _ _ _ _ => true
  | .remu _ _ _ _ => true
  | .beq _ _ _ _ => true
  | .bne _ _ _ _ => true
  | .blt _ _ _ _ => true
  | .bge _ _ _ _ => true
  | .bltu _ _ _ _ => true
  | .bgeu _ _ _ _ => true
  | .j _ _ => true
  | .jal _ _ => true
  | .jalr _ _ _ _ => true
  | .lb _ _ _ _ => true
  | .lbu _ _ _ _ => true
  | .lh _ _ _ _ => true
  | .lhu _ _ _ _ => true
  | .lw _ _ _ _ => true
  | .lwu _ _ _ _ => true
  | .ld _ _ _ _ => true
  | .sb _ _ _ _ => true
  | .sh _ _ _ _ => true
  | .sw _ _ _ _ => true
  | .sd _ _ _ _ => true
  | .lbx _ _ _ _ _ => true
  | .lbux _ _ _ _ _ => true
  | .lhx _ _ _ _ _ => true
  | .lhux _ _ _ _ _ => true
  | .lwx _ _ _ _ _ => true
  | .lwux _ _ _ _ _ => true
  | .ldx _ _ _ _ _ => true
  | .sbx _ _ _ _ _ => true
  | .shx _ _ _ _ _ => true
  | .swx _ _ _ _ _ => true
  | .sdx _ _ _ _ _ => true
  | .amoadd _ _ _ _ _ => true
  | .amoand _ _ _ _ _ => true
  | .amoor _ _ _ _ _ => true
  | .amoxor _ _ _ _ _ => true
  | .amomin _ _ _ _ _ => true
  | .amomax _ _ _ _ _ => true
  | .amominu _ _ _ _ _ => true
  | .amomaxu _ _ _ _ _ => true
  | .amoswap _ _ _ _ _ => true
  | .amocas _ _ _ _ _ => true
  | .amofadd _ _ _ _ _ => true
  | .amofaddBf _ _ _ _ => true
  | .amofmin _ _ _ _ _ => true
  | .amofmax _ _ _ _ _ => true
  | .amold _ _ _ _ => true
  | .tlook _ _ _ => true
  | .tset _ _ _ => true
  | .tinv _ _ => true
  | .tvict _ _ _ => true
  | .tdirty _ _ _ => true
  | .fence _ _ _ scope => scopeOk scope
  | .phase _ _ _ scope => scopeOk scope
  | .ifence _ scope => scopeOk scope
  | .rep _ _ _ => true
  | .repReg _ _ _ => true
  | .vadd _ _ _ _ et => valuEtOk 0x00 et
  | .vsub _ _ _ _ et => valuEtOk 0x01 et
  | .vmul _ _ _ _ et => valuEtOk 0x02 et
  | .vfma _ _ _ _ et => valuEtOk 0x03 et
  | .vfms _ _ _ _ et => valuEtOk 0x04 et
  | .vmin _ _ _ _ et => valuEtOk 0x05 et
  | .vmax _ _ _ _ et => valuEtOk 0x06 et
  | .vabs _ _ _ et => valuEtOk 0x07 et
  | .vneg _ _ _ et => valuEtOk 0x08 et
  | .vand _ _ _ _ et => valuEtOk 0x09 et
  | .vor _ _ _ _ et => valuEtOk 0x0A et
  | .vxor _ _ _ _ et => valuEtOk 0x0B et
  | .vshl _ _ _ _ et => valuEtOk 0x0C et
  | .vshr _ _ _ _ et => valuEtOk 0x0D et
  | .vsra _ _ _ _ et => valuEtOk 0x0E et
  | .vceq _ _ _ _ et => valuEtOk 0x0F et
  | .vclt _ _ _ _ et => valuEtOk 0x10 et
  | .vcle _ _ _ _ et => valuEtOk 0x11 et
  | .vsel _ _ _ _ et => valuEtOk 0x12 et
  | .vadds _ _ _ _ et => valuEtOk 0x13 et
  | .vsubs _ _ _ _ et => valuEtOk 0x14 et
  | .vmov _ _ _ et => valuEtOk 0x15 et
  | .vdiv _ _ _ _ et => valuEtOk 0x16 et
  | .vmulhi _ _ _ _ et => valuEtOk 0x17 et
  | .vrcp _ _ _ _ _ => true
  | .vrsq _ _ _ _ _ => true
  | .vsqrt _ _ _ _ _ => true
  | .vexp2 _ _ _ _ _ => true
  | .vlog2 _ _ _ _ _ => true
  | .vtanh _ _ _ _ _ => true
  | .vsigm _ _ _ _ _ => true
  | .vcvt _ _ _ ct sf _ => vcvtOk ct sf
  | .vcvtf _ _ _ ct sf _ => vcvtOk ct sf
  | .vpack _ _ _ => true
  | .vunpack _ _ _ => true
  | .vscale _ _ _ _ sf _ => scaleSfOk sf
  | .vbscl _ _ _ _ sf => scaleSfOk sf
  | .vrsum _ _ _ _ => true
  | .vrmax _ _ _ _ => true
  | .vrmin _ _ _ _ => true
  | .vperm _ _ _ _ _ => true
  | .vrotx _ _ _ _ _ => true
  | .vbcast _ _ _ _ => true
  | .vext _ _ _ _ _ => true
  | .vins _ _ _ _ _ => true
  | .viota _ _ _ => true
  | .vld _ _ _ part _ => partOk part
  | .vst _ _ _ part _ => partOk part
  | .vldxW _ _ _ _ => true
  | .vldxD _ _ _ _ => true
  | .vstxW _ _ _ _ => true
  | .vstxD _ _ _ _ => true
  | .vmerge _ _ _ _ _ => true
  | .pmx _ _ _ _ _ => true
  | .pmsend _ _ _ => true
  | .pmrecv _ _ _ => true
  | .sbind _ rd _ => streamOk rd
  | .sunbind _ rd => streamOk rd
  | .sstat _ _ ra => streamOk ra
  | .sdrain _ rd => streamOk rd
  | .sskip _ rd _ => streamOk rd
  | .spawn _ _ _ _ => true
  | .join _ _ _ => true
  | .exit _ _ => true
  | .yield _ => true
  | .prio _ _ => true
  | .tid _ _ => true
  | .detach _ _ => true
  | .kill _ _ => true
  | .cinit _ prv cue _ => cueOk prv cue
  | .cwait _ prv cue _ => cueOk prv cue
  | .csig _ prv cue _ => cueOk prv cue
  | .cread _ prv cue _ => cueOk prv cue
  | .ctry _ prv cue _ _ => cueOk prv cue
  | .cwaitt _ prv cue _ _ => cueOk prv cue
  | .csigr _ _ _ _ => true
  | .send _ _ _ => true
  | .recv _ _ => true
  | .recvt _ _ _ => true
  | .mclaim _ _ => true
  | .mrel _ _ => true
  | .mload _ _ ra _ => slotOk ra
  | .mma _ _ ra rb => slotOk ra && slotOk rb
  | .mmas _ _ ra rb => slotOk ra && slotOk rb
  | .mgemm _ _ _ _ => true
  | .mdrain _ _ ra _ => accOk ra
  | .mzero _ _ ra => accOk ra
  | .mtov _ _ ra => accOk ra
  | .cpy _ _ _ _ => true
  | .cpys _ _ _ _ => true
  | .cpyg _ _ _ _ => true
  | .cpyx _ _ _ _ => true
  | .cpyf _ _ _ _ => true
  | .tqpost _ _ _ _ => true
  | .tqflush _ _ _ => true
  | .swpin _ _ _ _ => true
  | .swpout _ _ _ _ => true
  | .swppull _ _ _ _ => true
  | .ewr _ _ rb n => ewrOk n rb
  | .erd _ _ _ => true
  | .erdst _ _ _ => true
  | .gopen _ _ _ => true
  | .gclose _ _ => true
  | .gsig _ _ _ _ => true
  | .gwait _ _ _ _ => true
  | .gread _ _ _ => true
  | .gpost _ _ _ _ => true
  | .gtake _ _ _ _ => true
  | .csrr _ _ csr => csrReadOk csr
  | .csrw _ _ _ csr => csrWriteOk csr
  | .csrs _ _ ra csr => csrSetOk ra csr
  | .csrc _ _ ra csr => csrSetOk ra csr
  | .trap _ _ => true
  | .tret _ => true
  | .brk _ => true
  | .repart _ _ _ => true
  | .roset _ _ _ => true
  | .idle _ => true
  | .curtain _ _ _ => true
  | .migr _ _ _ => true
  | .rld _ _ _ _ => true
  | .rst _ _ _ _ => true
  | .ramo _ _ _ _ => true
  | .spawnr _ _ _ _ => true
  | .csigrRank _ _ _ => true
  | .stallExpiry _ _ => true
  | .prompterIssue _ => true
  | .rotationEnd _ => true
  | .rosetApply _ => true
  | .accessReply _ => true
  | .remotePortAccess _ => true
  | .postedAck _ => true
  | .secWriteback _ _ => true
  | .storeProbeReply _ => true
  | .viewDrop _ _ => true
  | .phaseComplete _ _ => true
  | .ifenceComplete _ _ => true
  | .sliceAccess _ => true
  | .sectorFill _ => true
  | .sectorWriteback _ => true
  | .memorySideAmo _ => true
  | .opAmo _ => true
  | .opCas2 _ => true
  | .opCas4 _ => true
  | .opLenq _ => true
  | .opLdeq _ => true
  | .opChase _ => true
  | .forwardedPageAccess _ => true
  | .remotePageFail _ => true
  | .xlInvpage _ => true
  | .xlRetire _ => true
  | .xlActivate _ => true
  | .xlHarvest _ => true
  | .stagehandAccept _ => true
  | .stagehandStart _ => true
  | .stagehandComplete _ _ => true
  | .matrixAccept _ => true
  | .matrixStart _ _ => true
  | .matrixComplete _ _ => true
  | .mclaimGrant _ _ => true
  | .mrelFree _ _ => true
  | .mgemmStep _ _ => true
  | .taskStart _ _ => true
  | .taskRetire _ _ => true
  | .swapAccept _ => true
  | .swapEntryDone _ => true
  | .flashUnitReply _ _ _ => true
  | .streamFetch _ _ _ => true
  | .streamWrite _ _ _ => true
  | .cueSignalArrival _ => true
  | .cwaittLimit _ _ => true
  | .recvtLimit _ _ => true
  | .messageDelivery _ => true
  | .eventDelivery _ => true
  | .pmxContribution _ => true
  | .pmsendArrival _ => true
  | .spawnrAdmission _ => true
  | .remoteRequest _ => true
  | .remoteReply _ => true
  | .requestTimeout _ => true
  | .flitReceive _ _ _ _ => true
  | .linkControlFlit _ _ => true
  | .linkReplay _ _ => true
  | .packetRoute _ => true
  | .linkRetrain _ => true
  | .linkFail _ => true
  | .timeSync _ => true
  | .refillTick => true
  | .wakeWrite _ _ => true
  | .vfMemoryRequest _ _ _ _ _ => true
  | .callSheetStart _ _ => true
  | .launch => true
  | .launchRelease _ => true
  | .launchEnd _ => true
  | .gateRequest _ => true
  | .gateCommit _ => true
  | .gateReply _ => true
  | .gateDeliveryAck _ => true
  | .gateWaitLimit _ _ => true
  | .gateCancel _ => true
  | .gateReturn _ => true
  | .thermalCheck _ _ => true
  | .displaceThread _ => true
  | .returnHome _ _ => true
  | .curtainStop _ => true
  | .curtainSave _ => true
  | .curtainResume _ => true
  | .curtainRestore _ => true
  | .curtainStart _ => true
  | .migrMove _ => true
  | .migrRetire _ => true
  | .forwardPacket _ => true
  | .tagcfgWrite _ _ => true
  | .trctlClear _ => true
  | .tquotaWrite _ _ => true
  | .registerWrite _ _ => true
  | .resetCold => true
  | .resetWarm => true
  | .powerUp => true
  | .hlaunch _ => true
  | .attestStart => true
  | .attestReport => true
  | .sensorAlarm _ => true
  | .thermalTrip _ _ => true
  | .telemetryRefresh _ => true
  | .illegalInstruction _ => true
  | .nodeTimeLost => true
  | .linkRetrained _ => true

end Sys2Proof
end

