-- ==== Sys2Proof/Machine/RepOps.lean ====
section
/-! DEFINITION. Instruction fetch (R170) and the repeat prefix (R55, R192 to R195). -/

namespace Sys2Proof.Machine

/-! ### Fetch -/

/-- The outcome of a fetch: a word, a failed access, an uncorrectable word, or a wait for a remote
page's owner. -/
inductive Fetched where
  | word (s : State) (w : IWord)
  | fail (s : State) (f : Failure)
  | bad (s : State)
  | wait (s : State)

/-- The key of a word in the instruction cache. -/
def icacheKey (asid : BitVec 16) (user : Bool) (off : Nat) : Nat :=
  (asid.toNat * 2 + (if user then 1 else 0)) * 2 ^ 50 + off / 4

/-- The client number of a thread's fetches. -/
def fetchClient (i : Tid) : Nat := 2 ^ 66 + i.tile * 512 + i.slot

/-- A word read through the slices, and kept in the tile's cache of 16,384 words (R170). -/
def fetchMiss (s : State) (i : Tid) (off key : Nat) : Fetched :=
  let th := thr s i
  match gRead s (threadAcc th false true (fetchClient i)) off 4 with
  | .fault s sub => .fail (fwdDone s (fetchClient i)) ⟨subCause sub, sub⟩
  | .wait s' => .wait (keepRequests s s')
  | .ok s v poison =>
    let s := fwdDone s (fetchClient i)
    if poison then .bad s
    else
      .word (updTile s i.tile fun tl =>
        let c := if tl.icache.length < 16384 then tl.icache else tl.icache.tail
        { tl with icache := smSet c key (BitVec.ofNat 32 v) }) (BitVec.ofNat 32 v)

/-- The word at an address for a thread (R170): a word the tile's cache holds is taken from there
or, as the device chooses, fetched again. -/
def fetchWord (s : State) (i : Tid) (pc : Word) : Fetched :=
  let off := pc.toNat
  if 2 ^ 52 ≤ off then .fail s ⟨.addr, 0⟩
  else
    let th := thr s i
    let key := icacheKey th.asid (th.priv == 0) off
    match smFind (tile s i.tile).icache key with
    | none => fetchMiss s i off key
    | some w =>
      let (c, s) := draw s
      if c % 2 = 0 then .word s w else fetchMiss s i off key

/-! ### Stepping (R194) -/

/-- What a register field of a body names, or that its format lacks it. -/
inductive StepKind where
  | lacks
  | scalar
  | vec
  | name
  deriving DecidableEq, Repr

/-- The kinds of the fields D, A and B of a body; none where R55 excludes the instruction. RB of fcvt holds
a precision code and no register: R55 does not say whether such a field may be stepped, and the model takes
it as a field that the body lacks (log 7 [DESIGN CHOICE]). -/
def stepKinds : Instr → Option (StepKind × StepKind × StepKind)
  | .add _ _ _ _ => some (.scalar, .scalar, .scalar)
  | .sub _ _ _ _ => some (.scalar, .scalar, .scalar)
  | .and _ _ _ _ => some (.scalar, .scalar, .scalar)
  | .or _ _ _ _ => some (.scalar, .scalar, .scalar)
  | .xor _ _ _ _ => some (.scalar, .scalar, .scalar)
  | .andn _ _ _ _ => some (.scalar, .scalar, .scalar)
  | .orn _ _ _ _ => some (.scalar, .scalar, .scalar)
  | .sll _ _ _ _ => some (.scalar, .scalar, .scalar)
  | .srl _ _ _ _ => some (.scalar, .scalar, .scalar)
  | .sra _ _ _ _ => some (.scalar, .scalar, .scalar)
  | .rol _ _ _ _ => some (.scalar, .scalar, .scalar)
  | .ror _ _ _ _ => some (.scalar, .scalar, .scalar)
  | .slt _ _ _ _ => some (.scalar, .scalar, .scalar)
  | .sltu _ _ _ _ => some (.scalar, .scalar, .scalar)
  | .seq _ _ _ _ => some (.scalar, .scalar, .scalar)
  | .sne _ _ _ _ => some (.scalar, .scalar, .scalar)
  | .min _ _ _ _ => some (.scalar, .scalar, .scalar)
  | .max _ _ _ _ => some (.scalar, .scalar, .scalar)
  | .minu _ _ _ _ => some (.scalar, .scalar, .scalar)
  | .maxu _ _ _ _ => some (.scalar, .scalar, .scalar)
  | .clz _ _ _ => some (.scalar, .scalar, .lacks)
  | .ctz _ _ _ => some (.scalar, .scalar, .lacks)
  | .popc _ _ _ => some (.scalar, .scalar, .lacks)
  | .bswap _ _ _ => some (.scalar, .scalar, .lacks)
  | .sextb _ _ _ => some (.scalar, .scalar, .lacks)
  | .sexth _ _ _ => some (.scalar, .scalar, .lacks)
  | .sextw _ _ _ => some (.scalar, .scalar, .lacks)
  | .zextw _ _ _ => some (.scalar, .scalar, .lacks)
  | .addi _ _ _ _ => some (.scalar, .scalar, .lacks)
  | .andi _ _ _ _ => some (.scalar, .scalar, .lacks)
  | .ori _ _ _ _ => some (.scalar, .scalar, .lacks)
  | .xori _ _ _ _ => some (.scalar, .scalar, .lacks)
  | .slti _ _ _ _ => some (.scalar, .scalar, .lacks)
  | .sltiu _ _ _ _ => some (.scalar, .scalar, .lacks)
  | .slli _ _ _ _ => some (.scalar, .scalar, .lacks)
  | .srli _ _ _ _ => some (.scalar, .scalar, .lacks)
  | .srai _ _ _ _ => some (.scalar, .scalar, .lacks)
  | .rori _ _ _ _ => some (.scalar, .scalar, .lacks)
  | .lui _ _ _ => some (.scalar, .lacks, .lacks)
  | .auipc _ _ _ => some (.scalar, .lacks, .lacks)
  | .padd _ _ _ _ => some (.scalar, .scalar, .scalar)
  | .psub _ _ _ _ => some (.scalar, .scalar, .scalar)
  | .ptag _ _ _ _ => some (.scalar, .scalar, .scalar)
  | .pfmt _ _ _ _ => some (.scalar, .scalar, .scalar)
  | .pchk _ _ _ _ => some (.scalar, .scalar, .scalar)
  | .pspc _ _ _ _ => some (.scalar, .scalar, .scalar)
  | .paddi _ _ _ _ => some (.scalar, .scalar, .lacks)
  | .fadd _ _ _ _ _ => some (.scalar, .scalar, .scalar)
  | .fsub _ _ _ _ _ => some (.scalar, .scalar, .scalar)
  | .fmul _ _ _ _ _ => some (.scalar, .scalar, .scalar)
  | .fdiv _ _ _ _ _ => some (.scalar, .scalar, .scalar)
  | .fsqrt _ _ _ _ => some (.scalar, .scalar, .lacks)
  | .fmin _ _ _ _ _ => some (.scalar, .scalar, .scalar)
  | .fmax _ _ _ _ _ => some (.scalar, .scalar, .scalar)
  | .ffma _ _ _ _ _ => some (.scalar, .scalar, .scalar)
  | .ffms _ _ _ _ _ => some (.scalar, .scalar, .scalar)
  | .feq _ _ _ _ _ => some (.scalar, .scalar, .scalar)
  | .flt _ _ _ _ _ => some (.scalar, .scalar, .scalar)
  | .fle _ _ _ _ _ => some (.scalar, .scalar, .scalar)
  | .fclass _ _ _ _ => some (.scalar, .scalar, .lacks)
  | .fsgnj _ _ _ _ _ => some (.scalar, .scalar, .scalar)
  | .fsgnjn _ _ _ _ _ => some (.scalar, .scalar, .scalar)
  | .fsgnjx _ _ _ _ _ => some (.scalar, .scalar, .scalar)
  | .fcvtI _ _ _ _ => some (.scalar, .scalar, .lacks)
  | .fcvtIu _ _ _ _ => some (.scalar, .scalar, .lacks)
  | .fcvtF _ _ _ _ => some (.scalar, .scalar, .lacks)
  | .fcvtFu _ _ _ _ => some (.scalar, .scalar, .lacks)
  | .fcvtP _ _ _ _ _ => some (.scalar, .scalar, .lacks)
  | .mul _ _ _ _ => some (.scalar, .scalar, .scalar)
  | .mulh _ _ _ _ => some (.scalar, .scalar, .scalar)
  | .mulhu _ _ _ _ => some (.scalar, .scalar, .scalar)
  | .mulhsu _ _ _ _ => some (.scalar, .scalar, .scalar)
  | .div _ _ _ _ => some (.scalar, .scalar, .scalar)
  | .divu _ _ _ _ => some (.scalar, .scalar, .scalar)
  | .rem _ _ _ _ => some (.scalar, .scalar, .scalar)
  | .remu _ _ _ _ => some (.scalar, .scalar, .scalar)
  | .beq _ _ _ _ => none
  | .bne _ _ _ _ => none
  | .blt _ _ _ _ => none
  | .bge _ _ _ _ => none
  | .bltu _ _ _ _ => none
  | .bgeu _ _ _ _ => none
  | .j _ _ => none
  | .jal _ _ => none
  | .jalr _ _ _ _ => none
  | .lb _ _ _ _ => some (.scalar, .scalar, .lacks)
  | .lbu _ _ _ _ => some (.scalar, .scalar, .lacks)
  | .lh _ _ _ _ => some (.scalar, .scalar, .lacks)
  | .lhu _ _ _ _ => some (.scalar, .scalar, .lacks)
  | .lw _ _ _ _ => some (.scalar, .scalar, .lacks)
  | .lwu _ _ _ _ => some (.scalar, .scalar, .lacks)
  | .ld _ _ _ _ => some (.scalar, .scalar, .lacks)
  | .sb _ _ _ _ => some (.scalar, .scalar, .lacks)
  | .sh _ _ _ _ => some (.scalar, .scalar, .lacks)
  | .sw _ _ _ _ => some (.scalar, .scalar, .lacks)
  | .sd _ _ _ _ => some (.scalar, .scalar, .lacks)
  | .lbx _ _ _ _ _ => some (.scalar, .scalar, .scalar)
  | .lbux _ _ _ _ _ => some (.scalar, .scalar, .scalar)
  | .lhx _ _ _ _ _ => some (.scalar, .scalar, .scalar)
  | .lhux _ _ _ _ _ => some (.scalar, .scalar, .scalar)
  | .lwx _ _ _ _ _ => some (.scalar, .scalar, .scalar)
  | .lwux _ _ _ _ _ => some (.scalar, .scalar, .scalar)
  | .ldx _ _ _ _ _ => some (.scalar, .scalar, .scalar)
  | .sbx _ _ _ _ _ => some (.scalar, .scalar, .scalar)
  | .shx _ _ _ _ _ => some (.scalar, .scalar, .scalar)
  | .swx _ _ _ _ _ => some (.scalar, .scalar, .scalar)
  | .sdx _ _ _ _ _ => some (.scalar, .scalar, .scalar)
  | .amoadd _ _ _ _ _ => some (.scalar, .scalar, .scalar)
  | .amoand _ _ _ _ _ => some (.scalar, .scalar, .scalar)
  | .amoor _ _ _ _ _ => some (.scalar, .scalar, .scalar)
  | .amoxor _ _ _ _ _ => some (.scalar, .scalar, .scalar)
  | .amomin _ _ _ _ _ => some (.scalar, .scalar, .scalar)
  | .amomax _ _ _ _ _ => some (.scalar, .scalar, .scalar)
  | .amominu _ _ _ _ _ => some (.scalar, .scalar, .scalar)
  | .amomaxu _ _ _ _ _ => some (.scalar, .scalar, .scalar)
  | .amoswap _ _ _ _ _ => some (.scalar, .scalar, .scalar)
  | .amocas _ _ _ _ _ => some (.scalar, .scalar, .scalar)
  | .amofadd _ _ _ _ _ => some (.scalar, .scalar, .scalar)
  | .amofaddBf _ _ _ _ => some (.scalar, .scalar, .scalar)
  | .amofmin _ _ _ _ _ => some (.scalar, .scalar, .scalar)
  | .amofmax _ _ _ _ _ => some (.scalar, .scalar, .scalar)
  | .amold _ _ _ _ => some (.scalar, .scalar, .lacks)
  | .tlook _ _ _ => some (.scalar, .scalar, .lacks)
  | .tset _ _ _ => some (.lacks, .scalar, .scalar)
  | .tinv _ _ => some (.lacks, .scalar, .lacks)
  | .tvict _ _ _ => some (.scalar, .scalar, .lacks)
  | .tdirty _ _ _ => some (.scalar, .scalar, .lacks)
  | .fence _ _ _ _ => none
  | .phase _ _ _ _ => none
  | .ifence _ _ => none
  | .rep _ _ _ => none
  | .repReg _ _ _ => none
  | .vadd _ _ _ _ _ => some (.vec, .vec, .vec)
  | .vsub _ _ _ _ _ => some (.vec, .vec, .vec)
  | .vmul _ _ _ _ _ => some (.vec, .vec, .vec)
  | .vfma _ _ _ _ _ => some (.vec, .vec, .vec)
  | .vfms _ _ _ _ _ => some (.vec, .vec, .vec)
  | .vmin _ _ _ _ _ => some (.vec, .vec, .vec)
  | .vmax _ _ _ _ _ => some (.vec, .vec, .vec)
  | .vabs _ _ _ _ => some (.vec, .vec, .lacks)
  | .vneg _ _ _ _ => some (.vec, .vec, .lacks)
  | .vand _ _ _ _ _ => some (.vec, .vec, .vec)
  | .vor _ _ _ _ _ => some (.vec, .vec, .vec)
  | .vxor _ _ _ _ _ => some (.vec, .vec, .vec)
  | .vshl _ _ _ _ _ => some (.vec, .vec, .vec)
  | .vshr _ _ _ _ _ => some (.vec, .vec, .vec)
  | .vsra _ _ _ _ _ => some (.vec, .vec, .vec)
  | .vceq _ _ _ _ _ => some (.vec, .vec, .vec)
  | .vclt _ _ _ _ _ => some (.vec, .vec, .vec)
  | .vcle _ _ _ _ _ => some (.vec, .vec, .vec)
  | .vsel _ _ _ _ _ => some (.vec, .vec, .vec)
  | .vadds _ _ _ _ _ => some (.vec, .vec, .vec)
  | .vsubs _ _ _ _ _ => some (.vec, .vec, .vec)
  | .vmov _ _ _ _ => some (.vec, .vec, .lacks)
  | .vdiv _ _ _ _ _ => some (.vec, .vec, .vec)
  | .vmulhi _ _ _ _ _ => some (.vec, .vec, .vec)
  | .vrcp _ _ _ _ _ => some (.vec, .vec, .lacks)
  | .vrsq _ _ _ _ _ => some (.vec, .vec, .lacks)
  | .vsqrt _ _ _ _ _ => some (.vec, .vec, .lacks)
  | .vexp2 _ _ _ _ _ => some (.vec, .vec, .lacks)
  | .vlog2 _ _ _ _ _ => some (.vec, .vec, .lacks)
  | .vtanh _ _ _ _ _ => some (.vec, .vec, .lacks)
  | .vsigm _ _ _ _ _ => some (.vec, .vec, .lacks)
  | .vcvt _ _ _ _ _ _ => some (.vec, .vec, .lacks)
  | .vcvtf _ _ _ _ _ _ => some (.vec, .vec, .lacks)
  | .vpack _ _ _ => some (.vec, .vec, .lacks)
  | .vunpack _ _ _ => some (.vec, .vec, .lacks)
  | .vscale _ _ _ _ _ _ => some (.vec, .vec, .lacks)
  | .vbscl _ _ _ _ _ => some (.vec, .vec, .lacks)
  | .vrsum _ _ _ _ => some (.vec, .vec, .lacks)
  | .vrmax _ _ _ _ => some (.vec, .vec, .lacks)
  | .vrmin _ _ _ _ => some (.vec, .vec, .lacks)
  | .vperm _ _ _ _ _ => some (.vec, .vec, .vec)
  | .vrotx _ _ _ _ _ => some (.vec, .vec, .scalar)
  | .vbcast _ _ _ _ => some (.vec, .scalar, .lacks)
  | .vext _ _ _ _ _ => some (.scalar, .vec, .scalar)
  | .vins _ _ _ _ _ => some (.vec, .scalar, .scalar)
  | .viota _ _ _ => some (.vec, .lacks, .lacks)
  | .vld _ _ _ _ _ => some (.vec, .scalar, .lacks)
  | .vst _ _ _ _ _ => some (.vec, .scalar, .lacks)
  | .vldxW _ _ _ _ => some (.vec, .scalar, .vec)
  | .vldxD _ _ _ _ => some (.vec, .scalar, .vec)
  | .vstxW _ _ _ _ => some (.vec, .scalar, .vec)
  | .vstxD _ _ _ _ => some (.vec, .scalar, .vec)
  | .vmerge _ _ _ _ _ => some (.vec, .vec, .vec)
  | .pmx _ _ _ _ _ => some (.vec, .vec, .scalar)
  | .pmsend _ _ _ => some (.lacks, .vec, .scalar)
  | .pmrecv _ _ _ => some (.vec, .lacks, .scalar)
  | .sbind _ _ _ => some (.name, .scalar, .lacks)
  | .sunbind _ _ => some (.name, .lacks, .lacks)
  | .sstat _ _ _ => some (.scalar, .name, .lacks)
  | .sdrain _ _ => some (.name, .lacks, .lacks)
  | .sskip _ _ _ => some (.name, .scalar, .lacks)
  | .spawn _ _ _ _ => none
  | .join _ _ _ => none
  | .exit _ _ => none
  | .yield _ => none
  | .prio _ _ => none
  | .tid _ _ => none
  | .detach _ _ => none
  | .kill _ _ => none
  | .cinit _ _ _ _ => none
  | .cwait _ _ _ _ => none
  | .csig _ _ _ _ => none
  | .cread _ _ _ _ => none
  | .ctry _ _ _ _ _ => none
  | .cwaitt _ _ _ _ _ => none
  | .csigr _ _ _ _ => none
  | .send _ _ _ => none
  | .recv _ _ => none
  | .recvt _ _ _ => none
  | .mclaim _ _ => some (.lacks, .scalar, .lacks)
  | .mrel _ _ => some (.lacks, .scalar, .lacks)
  | .mload _ _ _ _ => some (.lacks, .name, .scalar)
  | .mma _ _ _ _ => some (.lacks, .name, .name)
  | .mmas _ _ _ _ => some (.lacks, .name, .name)
  | .mgemm _ _ _ _ => some (.lacks, .scalar, .scalar)
  | .mdrain _ _ _ _ => some (.lacks, .name, .scalar)
  | .mzero _ _ _ => some (.lacks, .name, .lacks)
  | .mtov _ _ _ => some (.lacks, .name, .lacks)
  | .cpy _ _ _ _ => some (.lacks, .scalar, .scalar)
  | .cpys _ _ _ _ => some (.lacks, .scalar, .scalar)
  | .cpyg _ _ _ _ => some (.lacks, .scalar, .scalar)
  | .cpyx _ _ _ _ => some (.lacks, .scalar, .scalar)
  | .cpyf _ _ _ _ => some (.lacks, .scalar, .scalar)
  | .tqpost _ _ _ _ => some (.lacks, .scalar, .scalar)
  | .tqflush _ _ _ => some (.lacks, .scalar, .lacks)
  | .swpin _ _ _ _ => some (.lacks, .scalar, .scalar)
  | .swpout _ _ _ _ => some (.lacks, .scalar, .scalar)
  | .swppull _ _ _ _ => some (.lacks, .scalar, .scalar)
  | .ewr _ _ _ n => some (.lacks, .scalar, if n = 7 then .lacks else .scalar)
  | .erd _ _ _ => some (.scalar, .lacks, .lacks)
  | .erdst _ _ _ => some (.scalar, .lacks, .lacks)
  | .gopen _ _ _ => none
  | .gclose _ _ => none
  | .gsig _ _ _ _ => none
  | .gwait _ _ _ _ => none
  | .gread _ _ _ => none
  | .gpost _ _ _ _ => none
  | .gtake _ _ _ _ => none
  | .csrr _ _ _ => none
  | .csrw _ _ _ _ => none
  | .csrs _ _ _ _ => none
  | .csrc _ _ _ _ => none
  | .trap _ _ => none
  | .tret _ => none
  | .brk _ => none
  | .repart _ _ _ => none
  | .roset _ _ _ => none
  | .idle _ => none
  | .curtain _ _ _ => none
  | .migr _ _ _ => none
  | .rld _ _ _ _ => none
  | .rst _ _ _ _ => none
  | .ramo _ _ _ _ => none
  | .spawnr _ _ _ _ => none
  | .csigrRank _ _ _ => none
  | .stallExpiry _ _ => none
  | .prompterIssue _ => none
  | .rotationEnd _ => none
  | .rosetApply _ => none
  | .accessReply _ => none
  | .remotePortAccess _ => none
  | .postedAck _ => none
  | .secWriteback _ _ => none
  | .storeProbeReply _ => none
  | .viewDrop _ _ => none
  | .phaseComplete _ _ => none
  | .ifenceComplete _ _ => none
  | .sliceAccess _ => none
  | .sectorFill _ => none
  | .sectorWriteback _ => none
  | .memorySideAmo _ => none
  | .opAmo _ => none
  | .opCas2 _ => none
  | .opCas4 _ => none
  | .opLenq _ => none
  | .opLdeq _ => none
  | .opChase _ => none
  | .forwardedPageAccess _ => none
  | .remotePageFail _ => none
  | .xlInvpage _ => none
  | .xlRetire _ => none
  | .xlActivate _ => none
  | .xlHarvest _ => none
  | .stagehandAccept _ => none
  | .stagehandStart _ => none
  | .stagehandComplete _ _ => none
  | .matrixAccept _ => none
  | .matrixStart _ _ => none
  | .matrixComplete _ _ => none
  | .mclaimGrant _ _ => none
  | .mrelFree _ _ => none
  | .mgemmStep _ _ => none
  | .taskStart _ _ => none
  | .taskRetire _ _ => none
  | .swapAccept _ => none
  | .swapEntryDone _ => none
  | .flashUnitReply _ _ _ => none
  | .streamFetch _ _ _ => none
  | .streamWrite _ _ _ => none
  | .cueSignalArrival _ => none
  | .cwaittLimit _ _ => none
  | .recvtLimit _ _ => none
  | .messageDelivery _ => none
  | .eventDelivery _ => none
  | .pmxContribution _ => none
  | .pmsendArrival _ => none
  | .spawnrAdmission _ => none
  | .remoteRequest _ => none
  | .remoteReply _ => none
  | .requestTimeout _ => none
  | .flitReceive _ _ _ _ => none
  | .linkControlFlit _ _ => none
  | .linkReplay _ _ => none
  | .packetRoute _ => none
  | .linkRetrain _ => none
  | .linkFail _ => none
  | .timeSync _ => none
  | .refillTick => none
  | .wakeWrite _ _ => none
  | .vfMemoryRequest _ _ _ _ _ => none
  | .callSheetStart _ _ => none
  | .launch => none
  | .launchRelease _ => none
  | .launchEnd _ => none
  | .gateRequest _ => none
  | .gateCommit _ => none
  | .gateReply _ => none
  | .gateDeliveryAck _ => none
  | .gateWaitLimit _ _ => none
  | .gateCancel _ => none
  | .gateReturn _ => none
  | .thermalCheck _ _ => none
  | .displaceThread _ => none
  | .returnHome _ _ => none
  | .curtainStop _ => none
  | .curtainSave _ => none
  | .curtainResume _ => none
  | .curtainRestore _ => none
  | .curtainStart _ => none
  | .migrMove _ => none
  | .migrRetire _ => none
  | .forwardPacket _ => none
  | .tagcfgWrite _ _ => none
  | .trctlClear _ => none
  | .tquotaWrite _ _ => none
  | .registerWrite _ _ => none
  | .resetCold => none
  | .resetWarm => none
  | .powerUp => none
  | .hlaunch _ => none
  | .attestStart => none
  | .attestReport => none
  | .sensorAlarm _ => none
  | .thermalTrip _ _ => none
  | .telemetryRefresh _ => none
  | .illegalInstruction _ => none
  | .nodeTimeLost => none
  | .linkRetrained _ => none

/-- Whether the format has every field that STEP selects (R55, R194). -/
def steppable (k : StepKind × StepKind × StepKind) (sel : BitVec 5) : Bool :=
  (!sel.getLsbD 4 || k.1 != .lacks) && (!sel.getLsbD 3 || k.2.1 != .lacks)
    && (!sel.getLsbD 2 || k.2.2 != .lacks)

/-- A field's value at repetition k (R194): `add` is k times the step. -/
def stepField (k : StepKind) (vsize add v : Nat) : Except Cause Nat :=
  match k with
  | .vec => .ok (if v < 24 && v < vsize then (v + add) % vsize else v)
  | .scalar => if v + add > 31 then .error .reg else .ok (v + add)
  | _ => if v + add > 31 then .error .illegal else .ok (v + add)

/-- A 5-bit field of a word replaced. -/
def setField (w lo v : Nat) : Nat := w - w / 2 ^ lo % 32 * 2 ^ lo + v % 32 * 2 ^ lo

/-- Bit places of the fields D, A and B (R38): the C format of ECMD and EWR has A and B lower. -/
def fieldPlaces (w : Nat) : Nat × Nat × Nat :=
  if w / 2 ^ 26 = 0x2B || w / 2 ^ 26 = 0x2C then (18, 10, 5) else (18, 13, 8)

/-- The field kinds of a body that R55 allows; none for another word (the rows from `gopen` on are
GATE, SYS and REMOTE words). -/
def repKinds (w : IWord) : Option (StepKind × StepKind × StepKind) :=
  match decodeRow w.toNat with
  | .error _ => none
  | .ok row =>
    match instrLow row w.toNat with
    | none => none
    | some i => if i.wf then stepKinds i else none

/-- The fields of a body stepped one after the other: the word, with 0 for a field that leaves its
namespace, and the causes of those. -/
def stepFields (vsize add : Nat) : List (Bool × StepKind × Nat) → Nat → Nat × List Cause
  | [], w => (w, [])
  | (on, kind, lo) :: fs, w =>
    if on then
      match stepField kind vsize add (w / 2 ^ lo % 32) with
      | .ok v => stepFields vsize add fs (setField w lo v)
      | .error c =>
        let (w, cs) := stepFields vsize add fs (setField w lo 0)
        (w, c :: cs)
    else stepFields vsize add fs w

/-- The body stepped for repetition `k` (R194), or the trap its fields give, in the order of R57 on the
stepped word: a scalar field that leaves the registers traps REG where nothing in the word is ILLEGAL. -/
def stepBody (kinds : StepKind × StepKind × StepKind) (sel : BitVec 5) (vsize k w : Nat) :
    Except Cause Nat :=
  let add := k * 2 ^ (sel.toNat % 4)
  let (d, a, b) := fieldPlaces w
  let (w, cs) := stepFields vsize add [(sel.getLsbD 4, kinds.1, d), (sel.getLsbD 3, kinds.2.1, a),
    (sel.getLsbD 2, kinds.2.2, b)] w
  if cs.isEmpty then .ok w
  else if cs.contains .illegal || (repKinds (BitVec.ofNat 32 w)).isNone then .error .illegal
  else .error .reg

/-- Whether a word may be repeated with this stepping (R55). -/
def repBodyOk (w : IWord) (sel : BitVec 5) : Bool :=
  match repKinds w with
  | none => false
  | some k => steppable k sel

/-- The issue of a REP word whose count is `n` unless a repetition is in progress (R193): its body
becomes the thread's, or nothing is left to repeat. -/
def repStart (n : Nat) (sel : BitVec 5) (s : State) : Ret :=
  let th := me s
  match fetchWord s s.cur (th.pc + 4) with
  | .fail s f =>
    .trap f.cause (th.pc + 4)
      (if f.sub = 0 then s else updMe s fun th => { th with pfcause := BitVec.ofNat 8 f.sub })
  | .bad s => .park 4 s
  | .wait s => .stay s
  | .word s w =>
    if !repBodyOk w sel then .trap .illegal (s.ir.setWidth 64) s
    else
      let n := if repAct th then repCnt th else n
      let k := if repAct th then repNext th else 0
      if n ≤ k then
        .goto (th.pc + 8) (updMe s fun th => { th with repidx := 0, instret := th.instret - 1 })
      else .stay (updMe s fun th => { th with repBody := some (w, sel), repidx := repWord n true k })

/-- STEP and SSIZE as kept with a body. -/
def repSel (step : BitVec 3) (ssize : BitVec 2) : BitVec 5 := step ++ ssize

/-- rep with a count (R193). -/
def execRep (count : BitVec 6) (step : BitVec 3) (ssize : BitVec 2) (s : State) :
    Host.Outcome State Fault Refusal :=
  run 0 {} (repStart (if count = 0 then 64 else count.toNat) (repSel step ssize)) s

/-- rep with a count from a register, read as signed (R193). -/
def execRepReg (xreg : BitVec 5) (step : BitVec 3) (ssize : BitVec 2) (s : State) :
    Host.Outcome State Fault Refusal :=
  run 0 { xs := [xreg] } (fun s =>
    repStart (min 64 (max 1 (rx s xreg).toInt)).toNat (repSel step ssize) s) s

end Sys2Proof.Machine
end

