-- ==== Sys2Proof/Machine/TagTable.lean ====
section
/-! DEFINITION. The tag table (R140 to R144). -/

namespace Sys2Proof.Machine

/-- TAGCFG's fields (R140). -/
structure TagCfg where
  base : Nat
  lsh : Nat
  slog : Nat
  wlog : Nat
  en : Bool
  deriving DecidableEq, Repr

/-- The fields of a stored TAGCFG. -/
def tagCfg (w : Word) : TagCfg :=
  let n := w.toNat
  { base := field n 39 20, lsh := field n 15 12, slog := field n 11 8, wlog := field n 7 6,
    en := bitOf n 0 }

/-- What a write of TAGCFG stores (R140): EN only when every condition holds. -/
def tagCfgStore (w : Word) : Word :=
  let c := tagCfg w
  let ok := 6 ≤ c.lsh && c.lsh ≤ 12 && c.slog + c.wlog ≤ 10 && c.base % 2 ^ c.lsh == 0
    && c.base + 2 ^ (c.slog + c.wlog + c.lsh) ≤ 0xC0000
  let n := w.toNat
  w64 (field n 39 20 * 2 ^ 20 + field n 15 6 * 2 ^ 6 + (if c.en && ok then 1 else 0))

/-- An entry that holds nothing. -/
def Tag.none : Tag := ⟨false, false, 0, 0⟩

/-- The entry of a slot. -/
def tagAt (tl : Tile) (k : Nat) : Tag := smGet Tag.none tl.tags k

/-- The set of an address (R141). -/
def tagSet (c : TagCfg) (p : Word) : Nat := pOff p / 2 ^ c.lsh % 2 ^ c.slog

/-- Slots of a set, lowest way first. -/
def setSlots (c : TagCfg) (set : Nat) : List Nat :=
  (List.range (2 ^ c.wlog)).map (fun w => set * 2 ^ c.wlog + w)

/-- Whether an entry matches an address for an address space (R141). -/
def tagMatch (c : TagCfg) (t : Tag) (space : Nat) (p : Word) : Bool :=
  t.valid && t.line == pOff p / 2 ^ c.lsh && t.space == space

/-- The victim of a set (R141). -/
def tagVictim (tl : Tile) (c : TagCfg) (set : Nat) : Nat :=
  match (setSlots c set).find? (fun k => !(tagAt tl k).valid) with
  | some k => k
  | Option.none => set * 2 ^ c.wlog + smGet 0 tl.tagPtr set

/-- The slot that matches an address. -/
def tagFind (tl : Tile) (c : TagCfg) (space : Nat) (p : Word) : Option Nat :=
  (setSlots c (tagSet c p)).find? (fun k => tagMatch c (tagAt tl k) space p)

/-- The hit pointer (R142). -/
def tagHit (c : TagCfg) (p : Word) (k : Nat) : Word :=
  w64 (p.toNat / 2 ^ 54 * 2 ^ 54 + 2 ^ 53 + (c.base + k * 2 ^ c.lsh + pOff p % 2 ^ c.lsh))

/-- The miss code (R142). -/
def tagMiss (tl : Tile) (k : Nat) : Word :=
  let t := tagAt tl k
  w64 (0xFC00000000000000 + (if t.valid then 2 ^ 17 else 0) + (if t.dirty then 2 ^ 16 else 0) + k)

/-- The tag word (R141). -/
def tagWord (c : TagCfg) (t : Tag) : Word :=
  w64 ((if t.valid then 2 ^ 63 else 0) + (if t.dirty then 2 ^ 62 else 0) + t.space * 2 ^ 52
    + t.line * 2 ^ c.lsh)

/-- The home tile of the issuing thread. -/
def homeTile (s : State) : Tile := tile s (me s).home

/-- The home tile changed. -/
def updHome (s : State) (f : Tile → Tile) : State := updTile s (me s).home f

/-- ASID.SPACE of the issuing thread (R82). -/
def mySpace (s : State) : Nat := field (me s).asid.toNat 11 4

/-- A tag instruction: ILLEGAL while the table is off (R143). -/
def tagRun (stl : BitVec 3) (xs : List (BitVec 5)) (res : List (BitVec 5 × Nat))
    (f : TagCfg → State → Ret) (s : State) (pair : PairAt := .both) :
    Host.Outcome State Fault Refusal :=
  run stl { xs := xs, res := res, pair := pair } (fun s =>
    let c := tagCfg (homeTile s).tagcfg
    if c.en then f c s else .trap .illegal (trapWord s) s) s

/-- tlook and tdirty (R142). -/
def tagLook (dirty : Bool) (stl : BitVec 3) (rd ra : BitVec 5) (s : State) :
    Host.Outcome State Fault Refusal :=
  tagRun stl [rd, ra] [(ra, 0)] (fun c s =>
    let p := rx s ra
    if pSpace p ≠ 0 then .trap .addr p s
    else if pFmt p = 63 then .trap .format p s
    else
      let tl := homeTile s
      let done := fun v s => homeReply rd v (putX stl 4 rd v) s
      match tagFind tl c (mySpace s) p with
      | some k =>
        let mark := fun (t : Tile) => { t with tags := smSet t.tags k { tagAt t k with dirty := true } }
        done (tagHit c p k) (if dirty then updHome s mark else s)
      | Option.none => done (tagMiss tl (tagVictim tl c (tagSet c p))) s) s
    (if dirty then .both else .takes (some rd.toNat))

/-- tlook (R142). -/
def execTlook (stl : BitVec 3) (rd ra : BitVec 5) (s : State) :
    Host.Outcome State Fault Refusal :=
  tagLook false stl rd ra s

/-- tdirty (R142). -/
def execTdirty (stl : BitVec 3) (rd ra : BitVec 5) (s : State) :
    Host.Outcome State Fault Refusal :=
  tagLook true stl rd ra s

/-- The table after tset of a slot (R142). -/
def tagInstall (c : TagCfg) (space : Nat) (p : Word) (k : Nat) (tl : Tile) : Tile :=
  let set := tagSet c p
  let cleared := (setSlots c set).foldl (fun m j =>
    if j ≠ k && tagMatch c (tagAt tl j) space p then smSet m j { tagAt tl j with valid := false } else m) tl.tags
  { tl with
    tags := smSet cleared k ⟨true, false, space, pOff p / 2 ^ c.lsh⟩,
    tagPtr := smSet tl.tagPtr set ((k % 2 ^ c.wlog + 1) % 2 ^ c.wlog) }

/-- tset (R142, R143). -/
def execTset (stl : BitVec 3) (ra rb : BitVec 5) (s : State) :
    Host.Outcome State Fault Refusal :=
  tagRun stl [ra, rb] [(ra, 0)] (fun c s =>
    let p := rx s ra
    let k := (rx s rb).toNat % 1024
    if pSpace p ≠ 0 then .trap .addr p s
    else if k ≥ 2 ^ (c.slog + c.wlog) || k / 2 ^ c.wlog ≠ tagSet c p then .trap .addr (rx s rb) s
    else homeDone (updHome s (tagInstall c (mySpace s) p k))) s

/-- tinv (R142). -/
def execTinv (stl : BitVec 3) (ra : BitVec 5) (s : State) : Host.Outcome State Fault Refusal :=
  tagRun stl [ra] [(ra, 0)] (fun c s =>
    let p := rx s ra
    if pSpace p ≠ 0 then .trap .addr p s
    else
      match tagFind (homeTile s) c (mySpace s) p with
      | some k =>
        let off := fun (t : Tile) => { t with tags := smSet t.tags k { tagAt t k with valid := false } }
        homeDone (updHome s off)
      | Option.none => homeDone s) s

/-- tvict (R142). -/
def execTvict (stl : BitVec 3) (rd ra : BitVec 5) (s : State) :
    Host.Outcome State Fault Refusal :=
  tagRun stl [rd, ra] [(ra, 0)] (fun c s =>
    let k := (rx s ra).toNat % 1024
    if k ≥ 2 ^ (c.slog + c.wlog) then .trap .addr (rx s ra) s
    else
      let t := tagAt (homeTile s) k
      let out := fun (tl : Tile) =>
        { tl with tags := smSet tl.tags k { t with valid := false, dirty := false } }
      let w := tagWord c t
      homeReply rd w (putX stl 4 rd w) (updHome s out)) s

end Sys2Proof.Machine
end

