-- ==== Sys2Proof/Machine/Valu.lean ====
section
/-! DEFINITION. Lane-wise arithmetic (R176, R177). -/

namespace Sys2Proof.Machine

/-- The functions that round a float lane (R175, R176). -/
def valuRounds (fn et : Nat) : Bool := etFloat et && (fn ≤ 4 || fn == 0x16)

/-- An integer lane (R176); `w` bits. -/
def valuInt (fn w a b d : Nat) : Nat :=
  let m := 2 ^ w
  let sa := sgn w a
  let sb := sgn w b
  let top := 2 ^ (w - 1)
  let clamp := fun (v : Int) =>
    wrapInt w (if v ≥ (top : Int) then (top : Int) - 1 else if v < -(top : Int) then -(top : Int) else v)
  let mask := fun (c : Bool) => if c then m - 1 else 0
  match fn with
  | 0x00 => (a + b) % m
  | 0x01 => wrapInt w (sa - sb)
  | 0x02 => a * b % m
  | 0x03 => (d + a * b) % m
  | 0x04 => wrapInt w (sgn w d - sa * sb)
  | 0x05 => if sa ≤ sb then a else b
  | 0x06 => if sa ≤ sb then b else a
  | 0x07 => if sa < 0 then wrapInt w (-sa) else a
  | 0x08 => wrapInt w (-sa)
  | 0x09 => a &&& b
  | 0x0A => a ||| b
  | 0x0B => a ^^^ b
  | 0x0C => a * 2 ^ (b % w) % m
  | 0x0D => a / 2 ^ (b % w)
  | 0x0E => wrapInt w (sa / (2 ^ (b % w) : Nat))
  | 0x0F => mask (sa == sb)
  | 0x10 => mask (sa < sb)
  | 0x11 => mask (sa ≤ sb)
  | 0x12 => if d = m - 1 then a else b
  | 0x13 => clamp (sa + sb)
  | 0x14 => clamp (sa - sb)
  | 0x17 => wrapInt w (sa * sb / (m : Int))
  | _ => a

/-- A float lane (R176). -/
def valuFlt (fn : Nat) (f : FFmt) (mode : RMode) (u : BitVec 32) (a b d : Nat) : FRes :=
  let w := f.width
  let va := f.decode a
  let vb := f.decode b
  let vd := f.decode d
  let rnd := roundTo f mode u
  let raw := fun (v : Nat) => (⟨v, 0, false⟩ : FRes)
  let cmp := fun (k : Nat) =>
    let (c, fl) := cmpVal k va vb
    (⟨if c then 2 ^ w - 1 else 0, fl, false⟩ : FRes)
  let mm := fun (isMax : Bool) =>
    let (v, fl) := minmaxVal isMax va vb
    (⟨(f.encode ⟨⟨.rne, 0⟩, false, false⟩ v).1, fl, false⟩ : FRes)
  match fn with
  | 0x00 => rnd (addVal mode va vb)
  | 0x01 => rnd (addVal mode va vb.negate)
  | 0x02 => rnd (mulVal va vb)
  | 0x03 => rnd (fmaVal mode va vb vd)
  | 0x04 => rnd (fmaVal mode va.negate vb vd)
  | 0x05 => mm false
  | 0x06 => mm true
  | 0x07 => raw (a % 2 ^ (w - 1))
  | 0x08 => raw (a ^^^ 2 ^ (w - 1))
  | 0x0F => cmp 0
  | 0x10 => cmp 1
  | 0x11 => cmp 2
  | 0x12 => raw (if d = 2 ^ w - 1 then a else b)
  | 0x16 => rnd (divVal va vb)
  | _ => raw a

/-- One lane of R176. -/
def valuLane (fn et : Nat) (mode : RMode) (a b d : Nat) (u : BitVec 32) : FRes :=
  if etFloat et then valuFlt fn (etFmt et) mode u a b d else ⟨valuInt fn (etBits et) a b d, 0, false⟩

/-- Latencies of R177. -/
def valuLat (fn et : Nat) : Nat :=
  if !etFloat et then 8
  else if fn = 0x16 then (if et = 4 then 112 else if et = 5 then 64 else 48)
  else if et = 4 then 24 else 16

/-- Whether vD is a source. -/
def valuReadsD (fn : Nat) : Bool := fn == 0x03 || fn == 0x04 || fn == 0x12

/-- Every lane of R176 from the lanes of the operands. -/
def valuLanes (fn et : Nat) (mode : RMode) (u : BitVec 32) (a b d : VWord) :
    List Nat × FlagSet × BitVec 32 :=
  let w := etBits et
  runLanes (List.zipWith (fun (p : Nat × Nat) d => valuLane fn et mode p.1 p.2 d)
    ((lanes w a).zip (lanes w b)) (lanes w d)) u

/-- A VALU word: `srcs` are its source fields in the order of R113. -/
def valu (fn : Nat) (unary : Bool) (stl : BitVec 3) (rd ra rb : BitVec 5) (et : BitVec 3)
    (s : State) : Host.Outcome State Fault Refusal :=
  let e := et.toNat
  let srcs := if unary then [ra] else if valuReadsD fn then [ra, rb, rd] else [ra, rb]
  run stl { ok := valuEtOk fn et && (!valuRounds fn e || (frmMode (me s)).isSome),
            vs := rd :: srcs, form := if valuRounds fn e then some (valuEtOk fn et) else none }
    (withVecs srcs (some rd) fun vs s =>
      let g := fun i => vs.getD i 0
      let (l, fl, u) := valuLanes fn e ((frmMode (me s)).getD .rne) (me s).lfsr (g 0) (g 1) (g 2)
      vecDone stl (valuLat fn e) rd (ofLanes (etBits e) l) fl u s) s

/-- vadd (R176). -/
def execVadd (stl : BitVec 3) (rd ra rb : BitVec 5) (et : BitVec 3) (s : State) :
    Host.Outcome State Fault Refusal :=
  valu 0x00 false stl rd ra rb et s

/-- vsub (R176). -/
def execVsub (stl : BitVec 3) (rd ra rb : BitVec 5) (et : BitVec 3) (s : State) :
    Host.Outcome State Fault Refusal :=
  valu 0x01 false stl rd ra rb et s

/-- vmul (R176). -/
def execVmul (stl : BitVec 3) (rd ra rb : BitVec 5) (et : BitVec 3) (s : State) :
    Host.Outcome State Fault Refusal :=
  valu 0x02 false stl rd ra rb et s

/-- vfma (R176). -/
def execVfma (stl : BitVec 3) (rd ra rb : BitVec 5) (et : BitVec 3) (s : State) :
    Host.Outcome State Fault Refusal :=
  valu 0x03 false stl rd ra rb et s

/-- vfms (R176). -/
def execVfms (stl : BitVec 3) (rd ra rb : BitVec 5) (et : BitVec 3) (s : State) :
    Host.Outcome State Fault Refusal :=
  valu 0x04 false stl rd ra rb et s

/-- vmin (R176). -/
def execVmin (stl : BitVec 3) (rd ra rb : BitVec 5) (et : BitVec 3) (s : State) :
    Host.Outcome State Fault Refusal :=
  valu 0x05 false stl rd ra rb et s

/-- vmax (R176). -/
def execVmax (stl : BitVec 3) (rd ra rb : BitVec 5) (et : BitVec 3) (s : State) :
    Host.Outcome State Fault Refusal :=
  valu 0x06 false stl rd ra rb et s

/-- vabs (R176). -/
def execVabs (stl : BitVec 3) (rd ra : BitVec 5) (et : BitVec 3) (s : State) :
    Host.Outcome State Fault Refusal :=
  valu 0x07 true stl rd ra 0 et s

/-- vneg (R176). -/
def execVneg (stl : BitVec 3) (rd ra : BitVec 5) (et : BitVec 3) (s : State) :
    Host.Outcome State Fault Refusal :=
  valu 0x08 true stl rd ra 0 et s

/-- vand (R176). -/
def execVand (stl : BitVec 3) (rd ra rb : BitVec 5) (et : BitVec 3) (s : State) :
    Host.Outcome State Fault Refusal :=
  valu 0x09 false stl rd ra rb et s

/-- vor (R176). -/
def execVor (stl : BitVec 3) (rd ra rb : BitVec 5) (et : BitVec 3) (s : State) :
    Host.Outcome State Fault Refusal :=
  valu 0x0A false stl rd ra rb et s

/-- vxor (R176). -/
def execVxor (stl : BitVec 3) (rd ra rb : BitVec 5) (et : BitVec 3) (s : State) :
    Host.Outcome State Fault Refusal :=
  valu 0x0B false stl rd ra rb et s

/-- vshl (R176). -/
def execVshl (stl : BitVec 3) (rd ra rb : BitVec 5) (et : BitVec 3) (s : State) :
    Host.Outcome State Fault Refusal :=
  valu 0x0C false stl rd ra rb et s

/-- vshr (R176). -/
def execVshr (stl : BitVec 3) (rd ra rb : BitVec 5) (et : BitVec 3) (s : State) :
    Host.Outcome State Fault Refusal :=
  valu 0x0D false stl rd ra rb et s

/-- vsra (R176). -/
def execVsra (stl : BitVec 3) (rd ra rb : BitVec 5) (et : BitVec 3) (s : State) :
    Host.Outcome State Fault Refusal :=
  valu 0x0E false stl rd ra rb et s

/-- vceq (R176). -/
def execVceq (stl : BitVec 3) (rd ra rb : BitVec 5) (et : BitVec 3) (s : State) :
    Host.Outcome State Fault Refusal :=
  valu 0x0F false stl rd ra rb et s

/-- vclt (R176). -/
def execVclt (stl : BitVec 3) (rd ra rb : BitVec 5) (et : BitVec 3) (s : State) :
    Host.Outcome State Fault Refusal :=
  valu 0x10 false stl rd ra rb et s

/-- vcle (R176). -/
def execVcle (stl : BitVec 3) (rd ra rb : BitVec 5) (et : BitVec 3) (s : State) :
    Host.Outcome State Fault Refusal :=
  valu 0x11 false stl rd ra rb et s

/-- vsel (R176). -/
def execVsel (stl : BitVec 3) (rd ra rb : BitVec 5) (et : BitVec 3) (s : State) :
    Host.Outcome State Fault Refusal :=
  valu 0x12 false stl rd ra rb et s

/-- vadds (R176). -/
def execVadds (stl : BitVec 3) (rd ra rb : BitVec 5) (et : BitVec 3) (s : State) :
    Host.Outcome State Fault Refusal :=
  valu 0x13 false stl rd ra rb et s

/-- vsubs (R176). -/
def execVsubs (stl : BitVec 3) (rd ra rb : BitVec 5) (et : BitVec 3) (s : State) :
    Host.Outcome State Fault Refusal :=
  valu 0x14 false stl rd ra rb et s

/-- vmov (R176). -/
def execVmov (stl : BitVec 3) (rd ra : BitVec 5) (et : BitVec 3) (s : State) :
    Host.Outcome State Fault Refusal :=
  valu 0x15 true stl rd ra 0 et s

/-- vdiv (R176). -/
def execVdiv (stl : BitVec 3) (rd ra rb : BitVec 5) (et : BitVec 3) (s : State) :
    Host.Outcome State Fault Refusal :=
  valu 0x16 false stl rd ra rb et s

/-- vmulhi (R176). -/
def execVmulhi (stl : BitVec 3) (rd ra rb : BitVec 5) (et : BitVec 3) (s : State) :
    Host.Outcome State Fault Refusal :=
  valu 0x17 false stl rd ra rb et s

end Sys2Proof.Machine
end

