-- ==== Sys2Proof/Machine/Vmem.lean ====
section
/-! DEFINITION. Vector loads and stores, gathers and scatters (R184 to R187). -/

namespace Sys2Proof.Machine

/-- Bytes that PART selects (R184). -/
def partBytes (part : BitVec 3) : Nat := 512 / 2 ^ part.toNat

/-- The repetition's number under REP, else 0 (R184). -/
def repIndex (th : Thread) : Nat := if th.repBody.isSome then repNext th else 0

/-- The effective address of R184. -/
def vecAddr (s : State) (ra : BitVec 5) (part : BitVec 3) (off : BitVec 10) :
    Except (Cause × Word) Word :=
  let p := rx s ra
  let sz := partBytes part
  let o := (pOff p : Int) + off.toInt * 64 + (repIndex (me s) * sz : Nat)
  let ea := pWith p (o % 2 ^ 52).toNat
  if o < 0 || o + sz > 2 ^ 52 then .error (.addr, ea)
  else if o % 64 != 0 then .error (.misalign, ea)
  else .ok ea

/-- A vector load at an effective address (R184, R185). -/
def vloadAt (stl : BitVec 3) (rd : BitVec 5) (sz : Nat) (ea : Word) (s : State) : Ret :=
  match threadTarget s s.cur ea sz with
  | .error c => .trap c ea s
  | .ok (.here o) =>
    let s := hereAt o sz s
    let (v, bad) := spadRead s s.cur.tile o sz
    if bad then .park 1 (chargeSram s s.cur.tile 3) else .go (putVec stl 16 rd (BitVec.ofNat 4096 v) s)
  | .ok (.far pl o) =>
    .sleep (.vload rd.toNat sz ea)
      (send s s.cur pl (.port pl o (.load sz) (ltileOf s (me s).home) none))
  | .ok (.glob o) => .sleep (.vload rd.toNat sz ea) (globalLoad s o sz)

/-- vld (R184). -/
def execVld (stl : BitVec 3) (rd ra : BitVec 5) (part : BitVec 3) (off : BitVec 10) (s : State) :
    Host.Outcome State Fault Refusal :=
  run stl { ok := partOk part, xs := [ra], vs := [rd], res := [(ra, 0)], kind := 0,
            pair := takesVec rd }
    (withVecs [] (some rd) fun _ s =>
      match vecAddr s ra part off with
      | .error (c, v) => .trap c v s
      | .ok ea => vloadAt stl rd (partBytes part) ea s) s

/-- vst (R184). -/
def execVst (stl : BitVec 3) (rd ra : BitVec 5) (part : BitVec 3) (off : BitVec 10) (s : State) :
    Host.Outcome State Fault Refusal :=
  run stl { ok := partOk part, xs := [ra], vs := [rd], res := [(ra, 0)], kind := 0 }
    (withVecs [rd] none fun vs s =>
      match vecAddr s ra part off with
      | .error (c, v) => .trap c v s
      | .ok ea =>
        let sz := partBytes part
        storeAt sz ((vs.getD 0 0).toNat % 2 ^ (8 * sz)) ea s) s

/-! ### Gathers and scatters (R186, R187) -/

/-- The offsets of R186, or the failing check. -/
def vgsOffsets (b : Word) (sz : Nat) : List Nat → Except (Cause × Word) (List Nat)
  | [] => .ok []
  | k :: ks =>
    let o := pOff b + k * sz
    if o + sz > spadSize then .error (.addr, pWith b o)
    else (vgsOffsets b sz ks).map (o :: ·)

/-- The checks of R186 in order. -/
def vgsCheck (b : Word) (sz : Nat) (idx : VWord) : Except (Cause × Word) (List Nat) :=
  if pSpace b != 2 then .error (.addr, b)
  else if pOff b % sz != 0 then .error (.misalign, b)
  else vgsOffsets b sz (lanes (8 * sz) idx)

/-- A gather or scatter that has passed its checks: on the own scratchpad it moves its units in later
cycles, from elsewhere it goes to the home scratchpad's port (R187). -/
def gatherSend (sz : Nat) (vd : Option Nat) (v : VWord) (os : List Nat) (s : State) : Ret :=
  let op : GatherOp := { sz := sz, write := vd.isNone, els := (List.range os.length).zip os, v := v,
                         got := [], bad := false }
  let home := (me s).home
  if displaced s.cur (me s) then
    .sleep (match vd with
        | some d => .vector d
        | none => .done)
      (send s s.cur home (.port home 0 (.gather op) (ltileOf s home) none))
  else .sleep (.gather vd op s.cycle) (landOwn s)

/-- A gather (R186, R187). -/
def vgather (sz : Nat) (stl : BitVec 3) (rd ra rb : BitVec 5) (s : State) :
    Host.Outcome State Fault Refusal :=
  run stl { xs := [ra], vs := [rd, rb], res := [(ra, 0)], kind := 0, pair := takesVec rd }
    (withVecs [rb] (some rd) fun vs s =>
      match vgsCheck (rx s ra) sz (vs.getD 0 0) with
      | .error (c, v) => .trap c v s
      | .ok os => gatherSend sz (some rd.toNat) 0 os s) s

/-- A scatter (R186, R187). -/
def vscatter (sz : Nat) (stl : BitVec 3) (rd ra rb : BitVec 5) (s : State) :
    Host.Outcome State Fault Refusal :=
  run stl { xs := [ra], vs := [rd, rb], res := [(ra, 0)], kind := 0, va := [rb] }
    (withVecs [rb, rd] none fun vs s =>
      match vgsCheck (rx s ra) sz (vs.getD 0 0) with
      | .error (c, v) => .trap c v s
      | .ok os => gatherSend sz none (vs.getD 1 0) os s) s

/-! ### The cycles of a gather or scatter (R187) -/

/-- One cycle of a thread's gather or scatter: at each bank that no thread access has claimed, its next
unit. -/
def gatherCycle (s : State) (i : Tid) : State :=
  match (thr s i).st with
  | .waiting (.gather vd op at_) from_ =>
    if s.cycle ≤ at_ || op.els.isEmpty then s
    else
      let put := fun (s : State) (o v : Nat) => logOwn (spadStore s i.tile o op.sz v) i 4 o op.sz
      let step := fun (a : State × GatherOp) (b : Nat) =>
        if (tile a.1 i.tile).claimed.contains b then a
        else
          match a.2.next b with
          | none => a
          | some u =>
            let (s, op) := gatherMove i.tile u put a.2 a.1
            (updTile s i.tile fun tl => { tl with claimed := b :: tl.claimed }, op)
      let (s, op') := (List.range 32).foldl step (s, op)
      updThr s i fun th => { th with
        st := .waiting (.gather vd op' (if op'.els = op.els then at_ else s.cycle)) from_ }
  | _ => s

/-- The gathers and scatters of a tile in a cycle, after its thread accesses. -/
def gatherTile (s : State) (t : Nat) : State :=
  let tl := tile s t
  let gs := tl.threads.filter (fun e => e.2.gathers && !e.2.shadow)
  if tl.stopped || gs.isEmpty then s
  else updTile (gs.foldl (fun s e => gatherCycle s ⟨t, e.1⟩) s) t fun tl => { tl with claimed := [] }

/-- Whether a gather or scatter completes: eight cycles after its last unit (R187). -/
def gatherDone (now : Nat) (th : Thread) : Bool :=
  match th.wait? with
  | some (.gather _ op at_) => op.els.isEmpty && decide (at_ + 8 ≤ now) && !th.shadow
  | _ => false

/-- A gather or scatter completes: its vector is written, or its thread is parked (R187, R313). -/
def gatherEnd (s : State) (i : Tid) : State :=
  match (thr s i).wait? with
  | some (.gather vd op _) =>
    if op.bad then parkThread (chargeSram s i.tile 3) i 1
    else
      match vd with
      | some d => complete (vecLand s i d (BitVec.ofNat 4096 op.value)) i id
      | none => complete s i id
  | _ => s

/-- vldx.w (R186). -/
def execVldxW (stl : BitVec 3) (rd ra rb : BitVec 5) (s : State) :
    Host.Outcome State Fault Refusal :=
  vgather 4 stl rd ra rb s

/-- vldx.d (R186). -/
def execVldxD (stl : BitVec 3) (rd ra rb : BitVec 5) (s : State) :
    Host.Outcome State Fault Refusal :=
  vgather 8 stl rd ra rb s

/-- vstx.w (R186). -/
def execVstxW (stl : BitVec 3) (rd ra rb : BitVec 5) (s : State) :
    Host.Outcome State Fault Refusal :=
  vscatter 4 stl rd ra rb s

/-- vstx.d (R186). -/
def execVstxD (stl : BitVec 3) (rd ra rb : BitVec 5) (s : State) :
    Host.Outcome State Fault Refusal :=
  vscatter 8 stl rd ra rb s

end Sys2Proof.Machine
end

