-- ==== Sys2Proof/Machine/Vred.lean ====
section
/-! DEFINITION. Reductions and lane moves (R35, R183). -/

namespace Sys2Proof.Machine

/-- One stage of the tree of R35: lane i with lane i + h. -/
def treeStage (f : Nat → Nat → BitVec 32 → FRes) (l : List Nat) (u : BitVec 32) :
    List Nat × FlagSet × BitVec 32 :=
  let h := l.length / 2
  runLanes (List.zipWith f (l.take h) (l.drop h)) u

/-- The tree of R35 over 2^n lanes. -/
def treeFold (f : Nat → Nat → BitVec 32 → FRes) :
    Nat → List Nat → BitVec 32 → Nat × FlagSet × BitVec 32
  | 0, l, u => (l.headD 0, 0, u)
  | n + 1, l, u =>
    let (l', fl, u) := treeStage f l u
    let (r, fl', u) := treeFold f n l' u
    (r, fl ||| fl', u)

/-- A reduction: the VALU function whose lanes it folds (R183). -/
def vreduce (fn : Nat) (stl : BitVec 3) (rd ra : BitVec 5) (et : BitVec 3) (s : State) :
    Host.Outcome State Fault Refusal :=
  let e := et.toNat
  let w := etBits e
  run stl { ok := !valuRounds fn e || (frmMode (me s)).isSome, vs := [rd, ra],
            form := if valuRounds fn e then some true else none }
    (withVecs [ra] (some rd) fun vs s =>
      let m := (frmMode (me s)).getD .rne
      let (r, fl, u) := treeFold (fun a b => valuLane fn e m a b 0) (Nat.log2 (4096 / w))
        (lanes w (vs.getD 0 0)) (me s).lfsr
      vecDone stl (if w = 64 then 32 else 24) rd (ofLanes w [r]) fl u s) s

/-- vrsum (R183). -/
def execVrsum (stl : BitVec 3) (rd ra : BitVec 5) (et : BitVec 3) (s : State) :
    Host.Outcome State Fault Refusal :=
  vreduce 0x00 stl rd ra et s

/-- vrmax (R183). -/
def execVrmax (stl : BitVec 3) (rd ra : BitVec 5) (et : BitVec 3) (s : State) :
    Host.Outcome State Fault Refusal :=
  vreduce 0x06 stl rd ra et s

/-- vrmin (R183). -/
def execVrmin (stl : BitVec 3) (rd ra : BitVec 5) (et : BitVec 3) (s : State) :
    Host.Outcome State Fault Refusal :=
  vreduce 0x05 stl rd ra et s

/-- A lane move: sources, scalar fields, and the lanes of the result. -/
def vmove (stl : BitVec 3) (rd : BitVec 5) (srcs xs : List (BitVec 5))
    (f : List VWord → State → VWord) (s : State) : Host.Outcome State Fault Refusal :=
  run stl { xs := xs, vs := rd :: srcs }
    (withVecs srcs (some rd) fun vs s => .go (putVec stl 8 rd (f vs s) s)) s

/-- vperm (R183). -/
def execVperm (stl : BitVec 3) (rd ra rb : BitVec 5) (et : BitVec 3) (s : State) :
    Host.Outcome State Fault Refusal :=
  let w := etBits et.toNat
  vmove stl rd [ra, rb] [] (fun vs _ =>
    let a := lanes w (vs.getD 0 0)
    ofLanes w ((lanes w (vs.getD 1 0)).map (fun k => a.getD (k % (4096 / w)) 0))) s

/-- vrotx (R183). -/
def execVrotx (stl : BitVec 3) (rd ra rb : BitVec 5) (et : BitVec 3) (s : State) :
    Host.Outcome State Fault Refusal :=
  let w := etBits et.toNat
  vmove stl rd [ra] [rb] (fun vs s =>
    let a := lanes w (vs.getD 0 0)
    let k := (rx s rb).toNat % (4096 / w)
    ofLanes w (a.drop k ++ a.take k)) s

/-- vbcast (R183). -/
def execVbcast (stl : BitVec 3) (rd ra : BitVec 5) (et : BitVec 3) (s : State) :
    Host.Outcome State Fault Refusal :=
  let w := etBits et.toNat
  vmove stl rd [] [ra] (fun _ s => ofLanes w (List.replicate (4096 / w) (rx s ra).toNat)) s

/-- The register value of a lane (R165, R183). -/
def vextVal (et v : Nat) : Word := if et < 4 then BitVec.ofInt 64 (sgn (etBits et) v) else w64 v

/-- vext (R183). -/
def execVext (stl : BitVec 3) (rd ra rb : BitVec 5) (et : BitVec 3) (s : State) :
    Host.Outcome State Fault Refusal :=
  let e := et.toNat
  let w := etBits e
  run stl { xs := [rd, rb], vs := [ra] }
    (withVecs [ra] none fun vs s =>
      let v := (lanes w (vs.getD 0 0)).getD ((rx s rb).toNat % (4096 / w)) 0
      .go (putX stl 8 rd (vextVal e v) s)) s

/-- vins (R183). -/
def execVins (stl : BitVec 3) (rd ra rb : BitVec 5) (et : BitVec 3) (s : State) :
    Host.Outcome State Fault Refusal :=
  let w := etBits et.toNat
  vmove stl rd [rd] [ra, rb] (fun vs s =>
    ofLanes w ((lanes w (vs.getD 0 0)).set ((rx s rb).toNat % (4096 / w)) ((rx s ra).toNat % 2 ^ w))) s

/-- viota (R183). -/
def execViota (stl : BitVec 3) (rd : BitVec 5) (et : BitVec 3) (s : State) :
    Host.Outcome State Fault Refusal :=
  let e := et.toNat
  let w := etBits e
  let lane := fun (i : Nat) =>
    if etFloat e then ((etFmt e).encode ⟨⟨.rne, 0⟩, false, false⟩ (intVal i)).1 else i
  vmove stl rd [] [] (fun _ _ => ofLanes w ((List.range (4096 / w)).map lane)) s

end Sys2Proof.Machine
end

