-- ==== Sys2Proof/Machine/Dispatch.lean ====
section
/-! DEFINITION. The dispatch: one arm per constructor of `Instr`, each a direct call of the
instruction's meaning. -/

namespace Sys2Proof.Machine

/-- The effect of one instruction word of the thread `s.cur`, or of one device step. -/
def exec (i : Instr) (s : State) : Host.Outcome State Fault Refusal :=
  match i with
  | .add stl rd ra rb => Sys2Proof.Machine.execAdd stl rd ra rb s
  | .sub stl rd ra rb => Sys2Proof.Machine.execSub stl rd ra rb s
  | .and stl rd ra rb => Sys2Proof.Machine.execAnd stl rd ra rb s
  | .or stl rd ra rb => Sys2Proof.Machine.execOr stl rd ra rb s
  | .xor stl rd ra rb => Sys2Proof.Machine.execXor stl rd ra rb s
  | .andn stl rd ra rb => Sys2Proof.Machine.execAndn stl rd ra rb s
  | .orn stl rd ra rb => Sys2Proof.Machine.execOrn stl rd ra rb s
  | .sll stl rd ra rb => Sys2Proof.Machine.execSll stl rd ra rb s
  | .srl stl rd ra rb => Sys2Proof.Machine.execSrl stl rd ra rb s
  | .sra stl rd ra rb => Sys2Proof.Machine.execSra stl rd ra rb s
  | .rol stl rd ra rb => Sys2Proof.Machine.execRol stl rd ra rb s
  | .ror stl rd ra rb => Sys2Proof.Machine.execRor stl rd ra rb s
  | .slt stl rd ra rb => Sys2Proof.Machine.execSlt stl rd ra rb s
  | .sltu stl rd ra rb => Sys2Proof.Machine.execSltu stl rd ra rb s
  | .seq stl rd ra rb => Sys2Proof.Machine.execSeq stl rd ra rb s
  | .sne stl rd ra rb => Sys2Proof.Machine.execSne stl rd ra rb s
  | .min stl rd ra rb => Sys2Proof.Machine.execMin stl rd ra rb s
  | .max stl rd ra rb => Sys2Proof.Machine.execMax stl rd ra rb s
  | .minu stl rd ra rb => Sys2Proof.Machine.execMinu stl rd ra rb s
  | .maxu stl rd ra rb => Sys2Proof.Machine.execMaxu stl rd ra rb s
  | .clz stl rd ra => Sys2Proof.Machine.execClz stl rd ra s
  | .ctz stl rd ra => Sys2Proof.Machine.execCtz stl rd ra s
  | .popc stl rd ra => Sys2Proof.Machine.execPopc stl rd ra s
  | .bswap stl rd ra => Sys2Proof.Machine.execBswap stl rd ra s
  | .sextb stl rd ra => Sys2Proof.Machine.execSextb stl rd ra s
  | .sexth stl rd ra => Sys2Proof.Machine.execSexth stl rd ra s
  | .sextw stl rd ra => Sys2Proof.Machine.execSextw stl rd ra s
  | .zextw stl rd ra => Sys2Proof.Machine.execZextw stl rd ra s
  | .addi stl rd ra imm => Sys2Proof.Machine.execAddi stl rd ra imm s
  | .andi stl rd ra imm => Sys2Proof.Machine.execAndi stl rd ra imm s
  | .ori stl rd ra imm => Sys2Proof.Machine.execOri stl rd ra imm s
  | .xori stl rd ra imm => Sys2Proof.Machine.execXori stl rd ra imm s
  | .slti stl rd ra imm => Sys2Proof.Machine.execSlti stl rd ra imm s
  | .sltiu stl rd ra imm => Sys2Proof.Machine.execSltiu stl rd ra imm s
  | .slli stl rd ra amt => Sys2Proof.Machine.execSlli stl rd ra amt s
  | .srli stl rd ra amt => Sys2Proof.Machine.execSrli stl rd ra amt s
  | .srai stl rd ra amt => Sys2Proof.Machine.execSrai stl rd ra amt s
  | .rori stl rd ra amt => Sys2Proof.Machine.execRori stl rd ra amt s
  | .lui stl rd imm => Sys2Proof.Machine.execLui stl rd imm s
  | .auipc stl rd imm => Sys2Proof.Machine.execAuipc stl rd imm s
  | .padd stl rd ra rb => Sys2Proof.Machine.execPadd stl rd ra rb s
  | .psub stl rd ra rb => Sys2Proof.Machine.execPsub stl rd ra rb s
  | .ptag stl rd ra rb => Sys2Proof.Machine.execPtag stl rd ra rb s
  | .pfmt stl rd ra rb => Sys2Proof.Machine.execPfmt stl rd ra rb s
  | .pchk stl rd ra rb => Sys2Proof.Machine.execPchk stl rd ra rb s
  | .pspc stl rd ra rb => Sys2Proof.Machine.execPspc stl rd ra rb s
  | .paddi stl rd ra imm => Sys2Proof.Machine.execPaddi stl rd ra imm s
  | .fadd stl rd ra rb prec => Sys2Proof.Machine.execFadd stl rd ra rb prec s
  | .fsub stl rd ra rb prec => Sys2Proof.Machine.execFsub stl rd ra rb prec s
  | .fmul stl rd ra rb prec => Sys2Proof.Machine.execFmul stl rd ra rb prec s
  | .fdiv stl rd ra rb prec => Sys2Proof.Machine.execFdiv stl rd ra rb prec s
  | .fsqrt stl rd ra prec => Sys2Proof.Machine.execFsqrt stl rd ra prec s
  | .fmin stl rd ra rb prec => Sys2Proof.Machine.execFmin stl rd ra rb prec s
  | .fmax stl rd ra rb prec => Sys2Proof.Machine.execFmax stl rd ra rb prec s
  | .ffma stl rd ra rb prec => Sys2Proof.Machine.execFfma stl rd ra rb prec s
  | .ffms stl rd ra rb prec => Sys2Proof.Machine.execFfms stl rd ra rb prec s
  | .feq stl rd ra rb prec => Sys2Proof.Machine.execFeq stl rd ra rb prec s
  | .flt stl rd ra rb prec => Sys2Proof.Machine.execFlt stl rd ra rb prec s
  | .fle stl rd ra rb prec => Sys2Proof.Machine.execFle stl rd ra rb prec s
  | .fclass stl rd ra prec => Sys2Proof.Machine.execFclass stl rd ra prec s
  | .fsgnj stl rd ra rb prec => Sys2Proof.Machine.execFsgnj stl rd ra rb prec s
  | .fsgnjn stl rd ra rb prec => Sys2Proof.Machine.execFsgnjn stl rd ra rb prec s
  | .fsgnjx stl rd ra rb prec => Sys2Proof.Machine.execFsgnjx stl rd ra rb prec s
  | .fcvtI stl rd ra prec => Sys2Proof.Machine.execFcvtI stl rd ra prec s
  | .fcvtIu stl rd ra prec => Sys2Proof.Machine.execFcvtIu stl rd ra prec s
  | .fcvtF stl rd ra prec => Sys2Proof.Machine.execFcvtF stl rd ra prec s
  | .fcvtFu stl rd ra prec => Sys2Proof.Machine.execFcvtFu stl rd ra prec s
  | .fcvtP stl rd ra sprec prec => Sys2Proof.Machine.execFcvtP stl rd ra sprec prec s
  | .mul stl rd ra rb => Sys2Proof.Machine.execMul stl rd ra rb s
  | .mulh stl rd ra rb => Sys2Proof.Machine.execMulh stl rd ra rb s
  | .mulhu stl rd ra rb => Sys2Proof.Machine.execMulhu stl rd ra rb s
  | .mulhsu stl rd ra rb => Sys2Proof.Machine.execMulhsu stl rd ra rb s
  | .div stl rd ra rb => Sys2Proof.Machine.execDiv stl rd ra rb s
  | .divu stl rd ra rb => Sys2Proof.Machine.execDivu stl rd ra rb s
  | .rem stl rd ra rb => Sys2Proof.Machine.execRem stl rd ra rb s
  | .remu stl rd ra rb => Sys2Proof.Machine.execRemu stl rd ra rb s
  | .beq stl ra rb off => Sys2Proof.Machine.execBeq stl ra rb off s
  | .bne stl ra rb off => Sys2Proof.Machine.execBne stl ra rb off s
  | .blt stl ra rb off => Sys2Proof.Machine.execBlt stl ra rb off s
  | .bge stl ra rb off => Sys2Proof.Machine.execBge stl ra rb off s
  | .bltu stl ra rb off => Sys2Proof.Machine.execBltu stl ra rb off s
  | .bgeu stl ra rb off => Sys2Proof.Machine.execBgeu stl ra rb off s
  | .j stl off => Sys2Proof.Machine.execJ stl off s
  | .jal stl off => Sys2Proof.Machine.execJal stl off s
  | .jalr stl rd ra imm => Sys2Proof.Machine.execJalr stl rd ra imm s
  | .lb stl rd ra off => Sys2Proof.Machine.execLb stl rd ra off s
  | .lbu stl rd ra off => Sys2Proof.Machine.execLbu stl rd ra off s
  | .lh stl rd ra off => Sys2Proof.Machine.execLh stl rd ra off s
  | .lhu stl rd ra off => Sys2Proof.Machine.execLhu stl rd ra off s
  | .lw stl rd ra off => Sys2Proof.Machine.execLw stl rd ra off s
  | .lwu stl rd ra off => Sys2Proof.Machine.execLwu stl rd ra off s
  | .ld stl rd ra off => Sys2Proof.Machine.execLd stl rd ra off s
  | .sb stl rd ra off => Sys2Proof.Machine.execSb stl rd ra off s
  | .sh stl rd ra off => Sys2Proof.Machine.execSh stl rd ra off s
  | .sw stl rd ra off => Sys2Proof.Machine.execSw stl rd ra off s
  | .sd stl rd ra off => Sys2Proof.Machine.execSd stl rd ra off s
  | .lbx stl rd ra rb sh => Sys2Proof.Machine.execLbx stl rd ra rb sh s
  | .lbux stl rd ra rb sh => Sys2Proof.Machine.execLbux stl rd ra rb sh s
  | .lhx stl rd ra rb sh => Sys2Proof.Machine.execLhx stl rd ra rb sh s
  | .lhux stl rd ra rb sh => Sys2Proof.Machine.execLhux stl rd ra rb sh s
  | .lwx stl rd ra rb sh => Sys2Proof.Machine.execLwx stl rd ra rb sh s
  | .lwux stl rd ra rb sh => Sys2Proof.Machine.execLwux stl rd ra rb sh s
  | .ldx stl rd ra rb sh => Sys2Proof.Machine.execLdx stl rd ra rb sh s
  | .sbx stl rd ra rb sh => Sys2Proof.Machine.execSbx stl rd ra rb sh s
  | .shx stl rd ra rb sh => Sys2Proof.Machine.execShx stl rd ra rb sh s
  | .swx stl rd ra rb sh => Sys2Proof.Machine.execSwx stl rd ra rb sh s
  | .sdx stl rd ra rb sh => Sys2Proof.Machine.execSdx stl rd ra rb sh s
  | .amoadd stl rd ra rb w => Sys2Proof.Machine.execAmoadd stl rd ra rb w s
  | .amoand stl rd ra rb w => Sys2Proof.Machine.execAmoand stl rd ra rb w s
  | .amoor stl rd ra rb w => Sys2Proof.Machine.execAmoor stl rd ra rb w s
  | .amoxor stl rd ra rb w => Sys2Proof.Machine.execAmoxor stl rd ra rb w s
  | .amomin stl rd ra rb w => Sys2Proof.Machine.execAmomin stl rd ra rb w s
  | .amomax stl rd ra rb w => Sys2Proof.Machine.execAmomax stl rd ra rb w s
  | .amominu stl rd ra rb w => Sys2Proof.Machine.execAmominu stl rd ra rb w s
  | .amomaxu stl rd ra rb w => Sys2Proof.Machine.execAmomaxu stl rd ra rb w s
  | .amoswap stl rd ra rb w => Sys2Proof.Machine.execAmoswap stl rd ra rb w s
  | .amocas stl rd ra rb w => Sys2Proof.Machine.execAmocas stl rd ra rb w s
  | .amofadd stl rd ra rb w => Sys2Proof.Machine.execAmofadd stl rd ra rb w s
  | .amofaddBf stl rd ra rb => Sys2Proof.Machine.execAmofaddBf stl rd ra rb s
  | .amofmin stl rd ra rb w => Sys2Proof.Machine.execAmofmin stl rd ra rb w s
  | .amofmax stl rd ra rb w => Sys2Proof.Machine.execAmofmax stl rd ra rb w s
  | .amold stl rd ra w => Sys2Proof.Machine.execAmold stl rd ra w s
  | .tlook stl rd ra => Sys2Proof.Machine.execTlook stl rd ra s
  | .tset stl ra rb => Sys2Proof.Machine.execTset stl ra rb s
  | .tinv stl ra => Sys2Proof.Machine.execTinv stl ra s
  | .tvict stl rd ra => Sys2Proof.Machine.execTvict stl rd ra s
  | .tdirty stl rd ra => Sys2Proof.Machine.execTdirty stl rd ra s
  | .fence stl pred succ scope => Sys2Proof.Machine.execFence stl pred succ scope s
  | .phase stl pred succ scope => Sys2Proof.Machine.execPhase stl pred succ scope s
  | .ifence stl scope => Sys2Proof.Machine.execIfence stl scope s
  | .rep count step ssize => Sys2Proof.Machine.execRep count step ssize s
  | .repReg xreg step ssize => Sys2Proof.Machine.execRepReg xreg step ssize s
  | .vadd stl rd ra rb et => Sys2Proof.Machine.execVadd stl rd ra rb et s
  | .vsub stl rd ra rb et => Sys2Proof.Machine.execVsub stl rd ra rb et s
  | .vmul stl rd ra rb et => Sys2Proof.Machine.execVmul stl rd ra rb et s
  | .vfma stl rd ra rb et => Sys2Proof.Machine.execVfma stl rd ra rb et s
  | .vfms stl rd ra rb et => Sys2Proof.Machine.execVfms stl rd ra rb et s
  | .vmin stl rd ra rb et => Sys2Proof.Machine.execVmin stl rd ra rb et s
  | .vmax stl rd ra rb et => Sys2Proof.Machine.execVmax stl rd ra rb et s
  | .vabs stl rd ra et => Sys2Proof.Machine.execVabs stl rd ra et s
  | .vneg stl rd ra et => Sys2Proof.Machine.execVneg stl rd ra et s
  | .vand stl rd ra rb et => Sys2Proof.Machine.execVand stl rd ra rb et s
  | .vor stl rd ra rb et => Sys2Proof.Machine.execVor stl rd ra rb et s
  | .vxor stl rd ra rb et => Sys2Proof.Machine.execVxor stl rd ra rb et s
  | .vshl stl rd ra rb et => Sys2Proof.Machine.execVshl stl rd ra rb et s
  | .vshr stl rd ra rb et => Sys2Proof.Machine.execVshr stl rd ra rb et s
  | .vsra stl rd ra rb et => Sys2Proof.Machine.execVsra stl rd ra rb et s
  | .vceq stl rd ra rb et => Sys2Proof.Machine.execVceq stl rd ra rb et s
  | .vclt stl rd ra rb et => Sys2Proof.Machine.execVclt stl rd ra rb et s
  | .vcle stl rd ra rb et => Sys2Proof.Machine.execVcle stl rd ra rb et s
  | .vsel stl rd ra rb et => Sys2Proof.Machine.execVsel stl rd ra rb et s
  | .vadds stl rd ra rb et => Sys2Proof.Machine.execVadds stl rd ra rb et s
  | .vsubs stl rd ra rb et => Sys2Proof.Machine.execVsubs stl rd ra rb et s
  | .vmov stl rd ra et => Sys2Proof.Machine.execVmov stl rd ra et s
  | .vdiv stl rd ra rb et => Sys2Proof.Machine.execVdiv stl rd ra rb et s
  | .vmulhi stl rd ra rb et => Sys2Proof.Machine.execVmulhi stl rd ra rb et s
  | .vrcp stl rd ra ct rm => Sys2Proof.Machine.execVrcp stl rd ra ct rm s
  | .vrsq stl rd ra ct rm => Sys2Proof.Machine.execVrsq stl rd ra ct rm s
  | .vsqrt stl rd ra ct rm => Sys2Proof.Machine.execVsqrt stl rd ra ct rm s
  | .vexp2 stl rd ra ct rm => Sys2Proof.Machine.execVexp2 stl rd ra ct rm s
  | .vlog2 stl rd ra ct rm => Sys2Proof.Machine.execVlog2 stl rd ra ct rm s
  | .vtanh stl rd ra ct rm => Sys2Proof.Machine.execVtanh stl rd ra ct rm s
  | .vsigm stl rd ra ct rm => Sys2Proof.Machine.execVsigm stl rd ra ct rm s
  | .vcvt stl rd ra ct sf rm => Sys2Proof.Machine.execVcvt stl rd ra ct sf rm s
  | .vcvtf stl rd ra ct sf rm => Sys2Proof.Machine.execVcvtf stl rd ra ct sf rm s
  | .vpack stl rd ra => Sys2Proof.Machine.execVpack stl rd ra s
  | .vunpack stl rd ra => Sys2Proof.Machine.execVunpack stl rd ra s
  | .vscale stl rd ra ct sf rm => Sys2Proof.Machine.execVscale stl rd ra ct sf rm s
  | .vbscl stl rd ra ct sf => Sys2Proof.Machine.execVbscl stl rd ra ct sf s
  | .vrsum stl rd ra et => Sys2Proof.Machine.execVrsum stl rd ra et s
  | .vrmax stl rd ra et => Sys2Proof.Machine.execVrmax stl rd ra et s
  | .vrmin stl rd ra et => Sys2Proof.Machine.execVrmin stl rd ra et s
  | .vperm stl rd ra rb et => Sys2Proof.Machine.execVperm stl rd ra rb et s
  | .vrotx stl rd ra rb et => Sys2Proof.Machine.execVrotx stl rd ra rb et s
  | .vbcast stl rd ra et => Sys2Proof.Machine.execVbcast stl rd ra et s
  | .vext stl rd ra rb et => Sys2Proof.Machine.execVext stl rd ra rb et s
  | .vins stl rd ra rb et => Sys2Proof.Machine.execVins stl rd ra rb et s
  | .viota stl rd et => Sys2Proof.Machine.execViota stl rd et s
  | .vld stl rd ra part off => Sys2Proof.Machine.execVld stl rd ra part off s
  | .vst stl rd ra part off => Sys2Proof.Machine.execVst stl rd ra part off s
  | .vldxW stl rd ra rb => Sys2Proof.Machine.execVldxW stl rd ra rb s
  | .vldxD stl rd ra rb => Sys2Proof.Machine.execVldxD stl rd ra rb s
  | .vstxW stl rd ra rb => Sys2Proof.Machine.execVstxW stl rd ra rb s
  | .vstxD stl rd ra rb => Sys2Proof.Machine.execVstxD stl rd ra rb s
  | .vmerge stl rd ra rb et => Sys2Proof.Machine.execVmerge stl rd ra rb et s
  | .pmx stl rd ra rb et => Sys2Proof.Machine.execPmx stl rd ra rb et s
  | .pmsend stl ra rb => Sys2Proof.Machine.execPmsend stl ra rb s
  | .pmrecv stl rd rb => Sys2Proof.Machine.execPmrecv stl rd rb s
  | .sbind stl rd ra => Sys2Proof.Machine.execSbind stl rd ra s
  | .sunbind stl rd => Sys2Proof.Machine.execSunbind stl rd s
  | .sstat stl rd ra => Sys2Proof.Machine.execSstat stl rd ra s
  | .sdrain stl rd => Sys2Proof.Machine.execSdrain stl rd s
  | .sskip stl rd ra => Sys2Proof.Machine.execSskip stl rd ra s
  | .spawn stl rd ra rb => Sys2Proof.Machine.execSpawn stl rd ra rb s
  | .join stl rd ra => Sys2Proof.Machine.execJoin stl rd ra s
  | .exit stl ra => Sys2Proof.Machine.execExit stl ra s
  | .yield stl => Sys2Proof.Machine.execYield stl s
  | .prio stl ra => Sys2Proof.Machine.execPrio stl ra s
  | .tid stl rd => Sys2Proof.Machine.execTid stl rd s
  | .detach stl ra => Sys2Proof.Machine.execDetach stl ra s
  | .kill stl ra => Sys2Proof.Machine.execKill stl ra s
  | .cinit stl prv cue ra => Sys2Proof.Machine.execCinit stl prv cue ra s
  | .cwait stl prv cue ra => Sys2Proof.Machine.execCwait stl prv cue ra s
  | .csig stl prv cue ra => Sys2Proof.Machine.execCsig stl prv cue ra s
  | .cread stl prv cue rd => Sys2Proof.Machine.execCread stl prv cue rd s
  | .ctry stl prv cue ra rd => Sys2Proof.Machine.execCtry stl prv cue ra rd s
  | .cwaitt stl prv cue ra rd => Sys2Proof.Machine.execCwaitt stl prv cue ra rd s
  | .csigr stl cue ra rd => Sys2Proof.Machine.execCsigr stl cue ra rd s
  | .send stl ra rb => Sys2Proof.Machine.execSend stl ra rb s
  | .recv stl rd => Sys2Proof.Machine.execRecv stl rd s
  | .recvt stl rd ra => Sys2Proof.Machine.execRecvt stl rd ra s
  | .mclaim stl ra => Sys2Proof.Machine.execMclaim stl ra s
  | .mrel stl ra => Sys2Proof.Machine.execMrel stl ra s
  | .mload stl tag ra rb => Sys2Proof.Machine.execMload stl tag ra rb s
  | .mma stl tag ra rb => Sys2Proof.Machine.execMma stl tag ra rb s
  | .mmas stl tag ra rb => Sys2Proof.Machine.execMmas stl tag ra rb s
  | .mgemm stl tag ra rb => Sys2Proof.Machine.execMgemm stl tag ra rb s
  | .mdrain stl tag ra rb => Sys2Proof.Machine.execMdrain stl tag ra rb s
  | .mzero stl tag ra => Sys2Proof.Machine.execMzero stl tag ra s
  | .mtov stl tag ra => Sys2Proof.Machine.execMtov stl tag ra s
  | .cpy stl tag ra rb => Sys2Proof.Machine.execCpy stl tag ra rb s
  | .cpys stl tag ra rb => Sys2Proof.Machine.execCpys stl tag ra rb s
  | .cpyg stl tag ra rb => Sys2Proof.Machine.execCpyg stl tag ra rb s
  | .cpyx stl tag ra rb => Sys2Proof.Machine.execCpyx stl tag ra rb s
  | .cpyf stl tag ra rb => Sys2Proof.Machine.execCpyf stl tag ra rb s
  | .tqpost stl tag ra rb => Sys2Proof.Machine.execTqpost stl tag ra rb s
  | .tqflush stl tag ra => Sys2Proof.Machine.execTqflush stl tag ra s
  | .swpin stl tag ra rb => Sys2Proof.Machine.execSwpin stl tag ra rb s
  | .swpout stl tag ra rb => Sys2Proof.Machine.execSwpout stl tag ra rb s
  | .swppull stl tag ra rb => Sys2Proof.Machine.execSwppull stl tag ra rb s
  | .ewr stl ra rb n => Sys2Proof.Machine.execEwr stl ra rb n s
  | .erd stl rd n => Sys2Proof.Machine.execErd stl rd n s
  | .erdst stl rd port => Sys2Proof.Machine.execErdst stl rd port s
  | .gopen stl rd ra => Sys2Proof.Machine.execGopen stl rd ra s
  | .gclose stl ra => Sys2Proof.Machine.execGclose stl ra s
  | .gsig stl rd ra rb => Sys2Proof.Machine.execGsig stl rd ra rb s
  | .gwait stl rd ra rb => Sys2Proof.Machine.execGwait stl rd ra rb s
  | .gread stl rd ra => Sys2Proof.Machine.execGread stl rd ra s
  | .gpost stl rd ra rb => Sys2Proof.Machine.execGpost stl rd ra rb s
  | .gtake stl rd ra rb => Sys2Proof.Machine.execGtake stl rd ra rb s
  | .csrr stl rd csr => Sys2Proof.Machine.execCsrr stl rd csr s
  | .csrw stl rd ra csr => Sys2Proof.Machine.execCsrw stl rd ra csr s
  | .csrs stl rd ra csr => Sys2Proof.Machine.execCsrs stl rd ra csr s
  | .csrc stl rd ra csr => Sys2Proof.Machine.execCsrc stl rd ra csr s
  | .trap stl code => Sys2Proof.Machine.execTrap stl code s
  | .tret stl => Sys2Proof.Machine.execTret stl s
  | .brk stl => Sys2Proof.Machine.execBrk stl s
  | .repart stl rd ra => Sys2Proof.Machine.execRepart stl rd ra s
  | .roset stl ra pos => Sys2Proof.Machine.execRoset stl ra pos s
  | .idle stl => Sys2Proof.Machine.execIdle stl s
  | .curtain stl rd ra => Sys2Proof.Machine.execCurtain stl rd ra s
  | .migr stl rd ra => Sys2Proof.Machine.execMigr stl rd ra s
  | .rld stl rd ra rb => Sys2Proof.Machine.execRld stl rd ra rb s
  | .rst stl rd ra rb => Sys2Proof.Machine.execRst stl rd ra rb s
  | .ramo stl rd ra rb => Sys2Proof.Machine.execRamo stl rd ra rb s
  | .spawnr stl rd ra rb => Sys2Proof.Machine.execSpawnr stl rd ra rb s
  | .csigrRank stl ra rb => Sys2Proof.Machine.execCsigrRank stl ra rb s
  | .stallExpiry tile slot => Sys2Proof.Machine.execStallExpiry tile slot s
  | .prompterIssue tile => Sys2Proof.Machine.execPrompterIssue tile s
  | .rotationEnd tile => Sys2Proof.Machine.execRotationEnd tile s
  | .rosetApply tile => Sys2Proof.Machine.execRosetApply tile s
  | .accessReply id => Sys2Proof.Machine.execAccessReply id s
  | .remotePortAccess id => Sys2Proof.Machine.execRemotePortAccess id s
  | .postedAck id => Sys2Proof.Machine.execPostedAck id s
  | .secWriteback place word => Sys2Proof.Machine.execSecWriteback place word s
  | .storeProbeReply id => Sys2Proof.Machine.execStoreProbeReply id s
  | .viewDrop tile key => Sys2Proof.Machine.execViewDrop tile key s
  | .phaseComplete tile slot => Sys2Proof.Machine.execPhaseComplete tile slot s
  | .ifenceComplete tile slot => Sys2Proof.Machine.execIfenceComplete tile slot s
  | .sliceAccess id => Sys2Proof.Machine.execSliceAccess id s
  | .sectorFill id => Sys2Proof.Machine.execSectorFill id s
  | .sectorWriteback key => Sys2Proof.Machine.execSectorWriteback key s
  | .memorySideAmo id => Sys2Proof.Machine.execMemorySideAmo id s
  | .opAmo id => Sys2Proof.Machine.execOpAmo id s
  | .opCas2 id => Sys2Proof.Machine.execOpCas2 id s
  | .opCas4 id => Sys2Proof.Machine.execOpCas4 id s
  | .opLenq id => Sys2Proof.Machine.execOpLenq id s
  | .opLdeq id => Sys2Proof.Machine.execOpLdeq id s
  | .opChase id => Sys2Proof.Machine.execOpChase id s
  | .forwardedPageAccess id => Sys2Proof.Machine.execForwardedPageAccess id s
  | .remotePageFail id => Sys2Proof.Machine.execRemotePageFail id s
  | .xlInvpage id => Sys2Proof.Machine.execXlInvpage id s
  | .xlRetire id => Sys2Proof.Machine.execXlRetire id s
  | .xlActivate id => Sys2Proof.Machine.execXlActivate id s
  | .xlHarvest id => Sys2Proof.Machine.execXlHarvest id s
  | .stagehandAccept cluster => Sys2Proof.Machine.execStagehandAccept cluster s
  | .stagehandStart cluster => Sys2Proof.Machine.execStagehandStart cluster s
  | .stagehandComplete cluster id => Sys2Proof.Machine.execStagehandComplete cluster id s
  | .matrixAccept tile => Sys2Proof.Machine.execMatrixAccept tile s
  | .matrixStart tile id => Sys2Proof.Machine.execMatrixStart tile id s
  | .matrixComplete tile id => Sys2Proof.Machine.execMatrixComplete tile id s
  | .mclaimGrant tile id => Sys2Proof.Machine.execMclaimGrant tile id s
  | .mrelFree tile id => Sys2Proof.Machine.execMrelFree tile id s
  | .mgemmStep tile id => Sys2Proof.Machine.execMgemmStep tile id s
  | .taskStart cluster queue => Sys2Proof.Machine.execTaskStart cluster queue s
  | .taskRetire cluster id => Sys2Proof.Machine.execTaskRetire cluster id s
  | .swapAccept die => Sys2Proof.Machine.execSwapAccept die s
  | .swapEntryDone id => Sys2Proof.Machine.execSwapEntryDone id s
  | .flashUnitReply id err data => Sys2Proof.Machine.execFlashUnitReply id err data s
  | .streamFetch tile slot n => Sys2Proof.Machine.execStreamFetch tile slot n s
  | .streamWrite tile slot n => Sys2Proof.Machine.execStreamWrite tile slot n s
  | .cueSignalArrival id => Sys2Proof.Machine.execCueSignalArrival id s
  | .cwaittLimit tile slot => Sys2Proof.Machine.execCwaittLimit tile slot s
  | .recvtLimit tile slot => Sys2Proof.Machine.execRecvtLimit tile slot s
  | .messageDelivery id => Sys2Proof.Machine.execMessageDelivery id s
  | .eventDelivery place => Sys2Proof.Machine.execEventDelivery place s
  | .pmxContribution id => Sys2Proof.Machine.execPmxContribution id s
  | .pmsendArrival id => Sys2Proof.Machine.execPmsendArrival id s
  | .spawnrAdmission id => Sys2Proof.Machine.execSpawnrAdmission id s
  | .remoteRequest id => Sys2Proof.Machine.execRemoteRequest id s
  | .remoteReply id => Sys2Proof.Machine.execRemoteReply id s
  | .requestTimeout id => Sys2Proof.Machine.execRequestTimeout id s
  | .flitReceive port flit link crc => Sys2Proof.Machine.execFlitReceive port flit link crc s
  | .linkControlFlit port flit => Sys2Proof.Machine.execLinkControlFlit port flit s
  | .linkReplay port nakSeq => Sys2Proof.Machine.execLinkReplay port nakSeq s
  | .packetRoute id => Sys2Proof.Machine.execPacketRoute id s
  | .linkRetrain port => Sys2Proof.Machine.execLinkRetrain port s
  | .linkFail port => Sys2Proof.Machine.execLinkFail port s
  | .timeSync ns => Sys2Proof.Machine.execTimeSync ns s
  | .refillTick => Sys2Proof.Machine.execRefillTick s
  | .wakeWrite fn data => Sys2Proof.Machine.execWakeWrite fn data s
  | .vfMemoryRequest fn write off size data => Sys2Proof.Machine.execVfMemoryRequest fn write off size data s
  | .callSheetStart part entry => Sys2Proof.Machine.execCallSheetStart part entry s
  | .launch => Sys2Proof.Machine.execLaunch s
  | .launchRelease id => Sys2Proof.Machine.execLaunchRelease id s
  | .launchEnd id => Sys2Proof.Machine.execLaunchEnd id s
  | .gateRequest id => Sys2Proof.Machine.execGateRequest id s
  | .gateCommit id => Sys2Proof.Machine.execGateCommit id s
  | .gateReply id => Sys2Proof.Machine.execGateReply id s
  | .gateDeliveryAck id => Sys2Proof.Machine.execGateDeliveryAck id s
  | .gateWaitLimit tile slot => Sys2Proof.Machine.execGateWaitLimit tile slot s
  | .gateCancel id => Sys2Proof.Machine.execGateCancel id s
  | .gateReturn id => Sys2Proof.Machine.execGateReturn id s
  | .thermalCheck tile temp => Sys2Proof.Machine.execThermalCheck tile temp s
  | .displaceThread tile => Sys2Proof.Machine.execDisplaceThread tile s
  | .returnHome tile slot => Sys2Proof.Machine.execReturnHome tile slot s
  | .curtainStop part => Sys2Proof.Machine.execCurtainStop part s
  | .curtainSave part => Sys2Proof.Machine.execCurtainSave part s
  | .curtainResume part => Sys2Proof.Machine.execCurtainResume part s
  | .curtainRestore part => Sys2Proof.Machine.execCurtainRestore part s
  | .curtainStart part => Sys2Proof.Machine.execCurtainStart part s
  | .migrMove part => Sys2Proof.Machine.execMigrMove part s
  | .migrRetire part => Sys2Proof.Machine.execMigrRetire part s
  | .forwardPacket id => Sys2Proof.Machine.execForwardPacket id s
  | .tagcfgWrite tile v => Sys2Proof.Machine.execTagcfgWrite tile v s
  | .trctlClear tile => Sys2Proof.Machine.execTrctlClear tile s
  | .tquotaWrite tile v => Sys2Proof.Machine.execTquotaWrite tile v s
  | .registerWrite off v => Sys2Proof.Machine.execRegisterWrite off v s
  | .resetCold => Sys2Proof.Machine.execResetCold s
  | .resetWarm => Sys2Proof.Machine.execResetWarm s
  | .powerUp => Sys2Proof.Machine.execPowerUp s
  | .hlaunch v => Sys2Proof.Machine.execHlaunch v s
  | .attestStart => Sys2Proof.Machine.execAttestStart s
  | .attestReport => Sys2Proof.Machine.execAttestReport s
  | .sensorAlarm kind => Sys2Proof.Machine.execSensorAlarm kind s
  | .thermalTrip tile temp => Sys2Proof.Machine.execThermalTrip tile temp s
  | .telemetryRefresh words => Sys2Proof.Machine.execTelemetryRefresh words s
  | .illegalInstruction w => Sys2Proof.Machine.execIllegalInstruction w s
  | .nodeTimeLost => Sys2Proof.Machine.execNodeTimeLost s
  | .linkRetrained port => Sys2Proof.Machine.execLinkRetrained port s

end Sys2Proof.Machine
end

