-- ==== Sys2Proof/Machine/Upsets.lean ====
section
/-! DEFINITION. Errors that strike the package, and what they leave (R71, R126, R150, R280, R313, log 36
[DESIGN CHOICE]): the rules about an error act where an access finds it. -/

namespace Sys2Proof.Machine

/-- A word marked with an error; an uncorrectable one stays so. -/
def Marks.strike (m : Marks) (w : Nat) (bad : Bool) : Marks :=
  if m.bad.contains w then m
  else if bad then ⟨m.corr.filter (· != w), m.bad ++ [w]⟩
  else if m.corr.contains w then m
  else ⟨m.corr ++ [w], m.bad⟩

/-- A word of an SRAM marked, by the places of SEC_WRITEBACK. -/
def strikeSram (s : State) (place w : Nat) (bad : Bool) : State :=
  if place < 1024 then updTile s place fun tl => { tl with spadMarks := tl.spadMarks.strike w bad }
  else if place < vfilePlace then
    updCluster s (place - 1024) fun k => { k with shmMarks := k.shmMarks.strike w bad }
  else if place < opmemPlace then
    updTile s (place - vfilePlace) fun tl => { tl with vMarks := tl.vMarks.strike w bad }
  else updTile s (place - opmemPlace) fun tl => { tl with opMarks := tl.opMarks.strike w bad }

/-- Entry `k` of a FIFO uncorrectable. -/
def strikeEntry (q : List FifoEntry) (k : Nat) : List FifoEntry :=
  q.zipIdx.map (fun e => if e.2 = k then { e.1 with bad := true } else e.1)

/-- An entry of a stream's FIFO, or of the pipe it is an end of, uncorrectable. -/
def strikeFifo (s : State) (i : Tid) (n k : Nat) : State :=
  match smFind (thr s i).streams n with
  | none => s
  | some b =>
    if b.kind = 3 then
      updTile s i.tile fun tl => { tl with pipes := tl.pipes.map (fun p =>
        if p.troupe = (thr s i).troupe && p.key = b.key then { p with fifo := strikeEntry p.fifo k }
        else p) }
    else setStream s i n { b with fifo := strikeEntry b.fifo k }

/-- An error in a slice's line: one count in SHARED of the partition whose line it is (R280), and poison in
the sector when it is uncorrectable (R71). -/
def strikeLine (s : State) (key k : Nat) (bad : Bool) : State :=
  match smFind s.lines key with
  | none => s
  | some l =>
    let bit : BitVec 8 := BitVec.ofNat 8 (2 ^ (k % 8))
    let l := if bad then { l with poison := l.poison ||| (l.valid &&& bit) } else l
    chargePart { s with lines := smSet s.lines key l } (asidPart (BitVec.ofNat 16 (key / 2 ^ 44))) 4

/-- A stored scalar register of a live thread with another value and its old residue (R150). -/
def strikeReg (s : State) (i : Tid) (n : Nat) (v : Word) : State :=
  if n = 0 || !(thr s i).live then s
  else updThr s i fun th => { th with x := smSet th.x n ⟨v, (getXR th n).r⟩ }

/-- A pair-merge vector on its way uncorrectable. -/
def strikePmx (s : State) (id : Nat) : State :=
  match pktOf s id with
  | some ⟨_, _, _, .pmx t key base n idx dbl fin v _⟩ => setBody s id (.pmx t key base n idx dbl fin v true)
  | _ => s

/-- An error strikes. -/
def strike (s : State) : Upset → State
  | .reg i n v => strikeReg s i n v
  | .sram place w bad => strikeSram s place w bad
  | .fifo i n k => strikeFifo s i n k
  | .pm t k => updTile s t fun tl =>
      { tl with pmEntries := tl.pmEntries.zipIdx.map (fun e =>
          if e.2 = k then { e.1 with bad := true } else e.1) }
  | .pmx id => strikePmx s id
  | .hbm key b => { s with hbm := hbmPut s.hbm key [b.toNat] }
  | .line key k bad => strikeLine s key k bad
  | .path p => chargePart s (p % 16) 4
  | .torus p bad => chargePart s (p % 16) (if bad then 3 else 1)

/-- The oldest error that waits strikes. -/
def takeUpset (s : State) : State :=
  match s.upsets with
  | [] => s
  | u :: us => strike { s with upsets := us } u

end Sys2Proof.Machine
end

