-- ==== Sys2Proof/Machine/Agenda.lean ====
section
/-! DEFINITION. What happens next: the fetch and issue of an instruction word (R170, R193, R254), what
is due at a time (R251, R255, R264, R282, R287, R323, R342), and the device's own steps that may
happen now. Where the spec orders two of them by no rule, the choice is free (log 4 [DESIGN CHOICE]). -/

namespace Sys2Proof.Machine

/-! ### The issue of a word -/

/-- The word decoded and run by the thread `s.cur`; a word that is no instruction traps (R56). -/
noncomputable def runWord (w : IWord) (s : State) : Host.Outcome State Fault Refusal :=
  match decode w with
  | .ok i => exec i { s with ir := w }
  | .error _ => exec (.illegalInstruction w) { s with ir := w }

/-- One repetition of a REP body: its fields stepped, then the word that results (R194). -/
noncomputable def runBody (body : IWord) (sel : BitVec 5) (s : State) :
    Host.Outcome State Fault Refusal :=
  let th := me s
  match repKinds body with
  | none => exec (.illegalInstruction body) { s with ir := body }
  | some kinds =>
    match stepBody kinds sel th.vwSize (repNext th) body.toNat with
    | .error c => .next (trapPair (landUpTo s s.cur s.cycle) s.cur c (body.setWidth 64))
    | .ok w => runWord (BitVec.ofNat 32 w) s

/-- After a word: a REP that has taken up its body runs its next repetition at once (R193). -/
noncomputable def runRep (o : Host.Outcome State Fault Refusal) :
    Host.Outcome State Fault Refusal :=
  match o with
  | .next s =>
    match (me s).repBody with
    | some (w, sel) => if (me s).st == .ready then runBody w sel s else .next s
    | none => .next s
  | o => o

/-- Whether the issue at hand is that of the understudy of `s.cur` (R254). -/
def shadowTurn (s : State) : Bool :=
  (me s).leader && (match (me s).lvq with
    | e :: _ => decide (e.due ≤ s.cycle)
    | [] => false)

/-- The pair where the understudy's pc has parted from its leader's: each runs its own word, the
leader `w1` and the understudy the one at its own pc; an action of either, or a trap of one, is a
disagreement (R318, R319). -/
noncomputable def issueApart (s : State) (pc : Word) (w1 : IWord) : Host.Outcome State Fault Refusal :=
  let i := s.cur
  let j := shadowOf s
  let s := leaderPop s
  let alone := fun (s : State) => updMe s fun th => { th with leader := false, st := .ready }
  let base := outside s i j
  let trapped := fun (t : State) => match (thr t i).st with
    | .trapped _ => true
    | _ => false
  let quiet := fun (t : State) =>
    (thr t i).st != .free && outside { t with draws := s.draws, ir := s.ir } i j == updThr base i fun th =>
      { th with st := (thr t i).st, lvq := (thr t i).lvq, leader := false }
  match fetchWord s j (thr s j).pc with
  | .word s' w2 =>
    match runWord w1 (alone s), runWord w2 (alone (updMe { s' with cur := i } (ctxFrom (thr s j)))) with
    | .next t1, .next t2 =>
      if trapped t1 || trapped t2 then .next (redundancy s i j pc 4)
      else if quiet t1 && quiet t2 then
        let lead := fun t => updThr t i fun th => { th with leader := true }
        .next (mergeShadow (lead t1) (lead t2) i j)
      else .next (redundancy s i j pc 5)
    | _, _ => .next s
  | .fail s _ => .next (redundancy s i j pc 4)
  | .bad s => .next (parkThread s i 4)
  | .wait s => .next s

/-- The understudy of `s.cur` issues its copy of the oldest word in the queue (R316). -/
noncomputable def issueShadow (s : State) : Host.Outcome State Fault Refusal :=
  match (me s).lvq with
  | [] => .next s
  | e :: _ =>
    let u := thr s (shadowOf s)
    if u.pc == e.pc && u.repBody == (me s).repBody then runRep (runWord e.ir s)
    else issueApart s e.pc e.ir

/-- The thread `s.cur` issues: the word at its pc is fetched and run, or its REP goes on. A failed
fetch traps at the word (R170); an uncorrectable word parks the thread (R313); a fetch that waits
for another rank's page is made again later. -/
noncomputable def issueWord (s : State) : Host.Outcome State Fault Refusal :=
  let th := me s
  if shadowTurn s then issueShadow s
  else
  match th.repBody with
  | some (w, sel) => runBody w sel s
  | none =>
    match fetchWord s s.cur th.pc with
    | .word s w => runRep (runWord w s)
    | .fail s f =>
      .next (trapPair (setPfcause (landUpTo s s.cur s.cycle) s.cur f.sub) s.cur f.cause th.pc)
    | .bad s => .next (parkThread s s.cur 4)
    | .wait s => .next s

/-- The next cycle (R154). The time base runs 2 ns in 3 cycles of 1.5 GHz. -/
def nextCycle (s : State) : State :=
  { s with cycle := s.cycle + 1, turn := 0,
           timeNs := s.timeNs + (if s.cycle % 3 = 0 then 0 else 1),
           mgmt := if s.mgmt.attesting then { s.mgmt with attestAge := s.mgmt.attestAge + 1 }
             else s.mgmt }

/-- The next tile whose prompter has a thread to issue in this cycle. -/
def nextTile (s : State) : Option Nat :=
  (s.tiles.find? (fun e => decide (s.turn ≤ e.1)
    && ((shadowDue s e.1).isSome || (prompterPick s e.1).isSome))).map (·.1)

/-- The value of `turn` once every tile has issued in a cycle. -/
def issued : Nat := 1024

/-- The next issue of this cycle, one tile after the other (R253); after the last, the gathers and
scatters of the cycle (R187), and the device's own steps follow. -/
noncomputable def issue (s : State) : Host.Outcome State Fault Refusal :=
  match nextTile s with
  | none => .next ((smKeys s.tiles).foldl gatherTile { s with turn := issued })
  | some t =>
    match exec (.prompterIssue t) { s with turn := t + 1 } with
    | .next s => issueWord s
    | o => o

/-! ### The device's own steps -/

/-- A row's effect, where it has one. -/
noncomputable def doEvent (s : State) (e : Event) : State := nextOf s (exec e.toInstr s)

/-- Whether a row has an effect now. -/
noncomputable def acts (s : State) (e : Event) : Bool :=
  match exec e.toInstr s with
  | .next t => { t with draws := s.draws } != s
  | _ => true

/-- Whether a tile of a cluster is stopped. -/
def clusterStopped (s : State) (c : Nat) : Bool := placeStopped s (1024 + c)

/-- The steps that a packet may take by its body. -/
def bodyEvents (s : State) (k : Pkt) : List Event :=
  match k.body with
  | .gload _ _ _ _ [] _ _ _ _ => [.accessReply k.id]
  | .gload _ _ _ _ (_ :: _) true _ _ _ => [.sectorFill k.id]
  | .gload .. => [.sliceAccess k.id]
  | .probe .. => [.sliceAccess k.id]
  | .gamo _ _ _ _ _ _ _ none _ => [.sliceAccess k.id]
  | .gamo _ _ _ _ _ _ _ (some pa) gran =>
    if unitBusy s k.id gran pa then [] else [.memorySideAmo k.id]
  | .reply .. =>
    match (thr s k.src).wait? with
    | some (.probe ..) => [.storeProbeReply k.id]
    | _ => [.accessReply k.id]
  | .port .. => [.remotePortAccess k.id]
  | .ack .. => [.postedAck k.id]
  | .cueSig .. => [.cueSignalArrival k.id]
  | .msg .. => [.messageDelivery k.id]
  | .pmx .. => [.pmxContribution k.id]
  | .pmsend .. => [.pmsendArrival k.id]
  | .gateReq .. => [.gateRequest k.id]
  | .gateCommit .. => [.gateCommit k.id]
  | .gateReply .. => [.gateReply k.id]
  | .gateFault .. => [.gateReply k.id]
  | .gateAck .. => [.gateDeliveryAck k.id]
  | .gateCancel .. => [.gateCancel k.id]
  | .gateRet .. => [.gateReturn k.id]
  | .rreq _ _ _ q =>
    if q.kind = tyRamo then
      [.remoteRequest k.id, .opAmo k.id, .opCas2 k.id, .opCas4 k.id, .opLenq k.id, .opLdeq k.id,
       .opChase k.id]
    else [.remoteRequest k.id, .spawnrAdmission k.id]
  | .rrep .. => [.remoteReply k.id]
  | .route .. => [.packetRoute k.id]
  | .fwdHere .. => [.forwardedPageAccess k.id]
  | .fwdFail .. => [.remotePageFail k.id]
  | .vf .. => [.sliceAccess k.id]
  | .pullHere .. => [.forwardedPageAccess k.id]

/-- The steps that a packet may take: none while a stop holds it (R324), its forwarding where its
context has left (R330). -/
def pktEvents (s : State) (k : Pkt) : List Event :=
  if viaDue s k then [.forwardPacket k.id]
  else if pktHeld s k then []
  else if (savedGoal k).isSome then [.forwardPacket k.id]
  else
    match fwdTarget s k with
    | some i => if departed s i then [.forwardPacket k.id] else bodyEvents s k
    | none => bodyEvents s k

/-- The steps of a thread's streams and of a phase or ifence it waits at. -/
def threadEvents (t : Nat) (e : Nat × Thread) : List Event :=
  (match e.2.wait? with
    | some (.phase ..) => [.phaseComplete t e.1]
    | some (.ifence _) => [.ifenceComplete t e.1]
    | _ => [])
  ++ (e.2.streams.map (fun b => [.streamFetch t e.1 b.1, .streamWrite t e.1 b.1])).flatten

/-- The steps of a tile that is not stopped. -/
def tileEvents (t : Nat) (tl : Tile) : List Event :=
  if tl.stopped then []
  else
    (if tl.heldEvents.isEmpty then [] else [.eventDelivery t])
    ++ (if tl.mArrivals.isEmpty then [] else [.matrixAccept t])
    ++ (tl.mQueue.map (fun c =>
      [.matrixStart t c.id, .mgemmStep t c.id, .matrixComplete t c.id])).flatten
    ++ tl.claims.map (fun c => .mclaimGrant t c.id)
    ++ tl.releases.map (fun c => .mrelFree t c.id)
    ++ (smKeys tl.view).map (.viewDrop t)
    ++ tl.spadMarks.corr.map (.secWriteback t)
    ++ tl.vMarks.corr.map (.secWriteback (vfilePlace + t))
    ++ tl.opMarks.corr.map (.secWriteback (opmemPlace + t))
    ++ (tl.threads.map (threadEvents t)).flatten

/-- The steps of a cluster. -/
def clusterEvents (s : State) (c : Nat) (k : Cluster) : List Event :=
  (if k.shArrivals.isEmpty then [] else [.stagehandAccept c])
  ++ (if k.shQueue.isEmpty then [] else [.stagehandStart c])
  ++ (k.shRunning.filter (fun x => !(tile s x.snap.home).stopped)).map (fun x =>
    .stagehandComplete c x.id)
  ++ (if clusterStopped s c then []
    else (if k.waiting.isEmpty then [] else (List.range 4).map (.taskStart c))
      ++ k.running.map (fun x => .taskRetire c x.id) ++ k.shmMarks.corr.map (.secWriteback (1024 + c)))

/-- The step of a translation command. -/
def xlEvents (c : XlCmd) : List Event :=
  [.xlInvpage c.id, .xlRetire c.id, .xlActivate c.id, .xlHarvest c.id]

/-- The step of a partition's curtain or migration command. -/
def opEvent (p : Nat) (o : CurtainOp) : Event :=
  if o.migr then if o.op = 1 then .migrRetire p else .migrMove p
  else if o.op = cuSave then .curtainSave p
  else if o.op = cuResume then .curtainResume p
  else if o.op = cuRestore then .curtainRestore p
  else if o.op = cuStart then .curtainStart p
  else .curtainStop p

/-- The steps of a partition's command: a SAVE stops first. -/
def opEvents (s : State) (p : Nat) : List Event :=
  match (part s p).op with
  | none => []
  | some o =>
    if !o.migr && o.op == cuSave then [.curtainStop p, .curtainSave p] else [opEvent p o]

/-- The steps of the launch unit. -/
def launchEvents (s : State) : List Event :=
  (if s.launchQ.isEmpty && s.wakeQ.isEmpty then [] else [.launch])
  ++ (s.launches.filter (fun l => l.threads.isEmpty)).map (fun l => .launchEnd l.id)

/-- The steps of the torus ports and of the controller. -/
def edgeEvents (s : State) : List Event :=
  (s.ports.map (fun e => [.linkRetrain e.1, .linkFail e.1])).flatten
  ++ (if s.mgmt.attesting then [.attestReport] else [])

/-- The swap engines' steps. -/
def swapEvents (s : State) : List Event :=
  ((s.swapArrivals.filter (fun e => !(tile s e.2.snap.tid.tile).stopped)).map
    (fun e => .swapAccept e.1)) ++ s.swapEntries.map (fun e => .swapEntryDone e.id)

/-- Every step of the device that its state names, whether or not it has an effect now. -/
def ownEvents (s : State) : List Event :=
  (s.net.map (pktEvents s)).flatten
  ++ (s.tiles.map (fun e => tileEvents e.1 e.2)).flatten
  ++ (s.clusters.map (fun e => clusterEvents s e.1 e.2)).flatten
  ++ (s.xl.map xlEvents).flatten
  ++ swapEvents s
  ++ (s.lines.filter (fun e => e.2.dirty != 0)).map (fun e => .sectorWriteback e.1)
  ++ (smKeys s.parts).flatMap (opEvents s)
  ++ launchEvents s
  ++ edgeEvents s
  ++ (if s.hypEvents.isEmpty then [] else [.eventDelivery 1024])

/-! ### Steps within the rows (R8, R111, R122, R204, R216) -/

/-- A step of the device inside a row's work, where the spec lets the device choose the moment. -/
inductive Inner where
  /-- A write of an engine reaches its bank (R216). -/
  | lateLand (t k : Nat)
  /-- Thread stores to a unit are performed toward the engines' paths (R111, R204). -/
  | lagLand (t u : Nat)
  /-- A running copy moves some elements, or reads a unit ahead (R111). -/
  | copyMove (k id : Nat)
  | copyAhead (k id : Nat)
  /-- A running matrix command moves some rows, or reads a unit ahead (R204). -/
  | matrixMove (t id : Nat)
  | matrixAhead (t id : Nat)
  /-- A stream reads a unit of an entry to come (R122). -/
  | streamAhead (t slot n : Nat)
  /-- The publication that an ended thread's slot waits for is tried again (R240). -/
  | endAgain (t slot : Nat)
  /-- A gather or scatter completes (R187). -/
  | gathered (t slot : Nat)
  /-- A moving context reaches its slot (R274). -/
  | moveEnd (t slot : Nat)
  deriving DecidableEq, Repr

/-- An inner step, done. -/
def doInner (s : State) : Inner → State
  | .lateLand t k => landOneLate s t k
  | .lagLand t u => updTile s t fun tl => { tl with lag := smDel tl.lag u }
  | .copyMove k id => copyMove k id s
  | .copyAhead k id => copyAhead k id s
  | .matrixMove t id => matrixMove t id s
  | .matrixAhead t id => matrixAhead t id s
  | .streamAhead t slot n => streamAhead t slot n s
  | .endAgain t slot => endAgain s ⟨t, slot⟩
  | .gathered t slot => gatherEnd s ⟨t, slot⟩
  | .moveEnd t slot => moveEnd s ⟨t, slot⟩

/-- The inner steps of a thread of a tile. -/
def threadInner (t : Nat) (e : Nat × Thread) : List Inner :=
  (match e.2.wait? with
    | some (.ending _) => if e.2.shadow then [] else [.endAgain t e.1]
    | _ => [])
  ++ (match e.2.st with
    | .arriving _ => [.moveEnd t e.1]
    | _ => [])
  ++ (e.2.streams.filter (fun b => streamFetches b.2)).map (fun b => .streamAhead t e.1 b.1)

/-- The inner steps of a tile that is not stopped. -/
def tileInner (t : Nat) (tl : Tile) : List Inner :=
  if tl.stopped then []
  else
    ((List.range tl.late.length).filter (lateWhole tl)).map (.lateLand t)
    ++ (smKeys tl.lag).map (.lagLand t)
    ++ ((tl.mQueue.filter (·.started)).map (fun c => [.matrixMove t c.id, .matrixAhead t c.id])).flatten
    ++ (tl.threads.map (threadInner t)).flatten

/-- The inner steps of the package. -/
def innerSteps (s : State) : List Inner :=
  (s.tiles.map (fun e => tileInner e.1 e.2)).flatten
  ++ (s.clusters.map (fun e =>
      ((e.2.shRunning.filter (fun x => !(tile s x.snap.home).stopped)).map
        (fun x => [.copyMove e.1 x.id, .copyAhead e.1 x.id])).flatten)).flatten

/-! ### What is due -/

/-- A thread's step that its time has brought: a stall count that has passed (R251), the limit of a
timed wait (R264, R267, R298). -/
def threadDue (now t : Nat) (e : Nat × Thread) : Option Event :=
  match e.2.st with
  | .issued u => if u ≤ now then some (.stallExpiry t e.1) else none
  | _ =>
    match e.2.wait? with
    | some (.cueTimed _ _ 0) => some (.cwaittLimit t e.1)
    | some (.recvt _ 0) => some (.recvtLimit t e.1)
    | some (.gate _ _ _ token (some 0)) => if token = 0 then none else some (.gateWaitLimit t e.1)
    | _ => none

/-- The first thread's step that is due, on tiles that are not stopped. -/
def firstThreadDue (s : State) : Option Event :=
  s.tiles.findSome? fun e =>
    if e.2.stopped then none else e.2.threads.findSome? (threadDue s.cycle e.1)

/-- A gather or scatter whose last unit lies eight cycles back (R187). -/
def gatherDue (s : State) : Option Inner :=
  s.tiles.findSome? fun e =>
    if e.2.stopped then none
    else (e.2.threads.find? (fun x => gatherDone s.cycle x.2)).map (fun x => .gathered e.1 x.1)

/-- A command's step at its rotation boundary (R323). -/
noncomputable def opDue (s : State) : Option Event :=
  s.parts.findSome? fun e =>
    match e.2.op with
    | none => none
    | some o => if atBoundary s o then (opEvents s e.1).find? (acts s) else none

/-- An outstanding request whose time has passed (R342). -/
def timeoutDue (s : State) : Option Event :=
  (s.outst.find? (fun o => decide (o.sent + tmo ≤ s.cycle)
    && (decide (5 ≤ o.kind) || decide (o.tid.tile < savedBase)))).map (fun o => .requestTimeout o.id)

/-- The sector under S32, counted through the package's memory, that a storage key is a byte of (R67). -/
def keySector (k : Nat) : Nat :=
  let b := if k < 2 ^ 40 then k / 32 else (k - 2 ^ 40) / 8
  let f := b % 2 ^ 25 / 2
  2048 * f + 1024 * (b % 2) + (b / 2 ^ 25 + 1024 - f % 1024) % 1024

/-- The call-sheet entries of which storage lists a byte; every other reads as zeros and is not armed
(R275, R286). -/
def sheetsWritten (s : State) : List Nat :=
  s.hbm.filterMap fun c =>
    let o := (32 * keySector c.1 + 2 ^ 40 - tableBase s) % 2 ^ 40
    if sheetOff 0 0 ≤ o ∧ o < sheetOff 16 0 then some ((o - sheetOff 0 0) / 32) else none

/-- A start of a call sheet that is due (R287). -/
def sheetsDue (s : State) : Option Event :=
  let written := sheetsWritten s
  (List.range 1024).findSome? fun n =>
    if written.contains n then
      (sheetDue s (n / 64) (n % 64)).map (fun _ => .callSheetStart (n / 64) (n % 64))
    else none

/-- What the machine does next. -/
inductive Act where
  /-- In BOOT: the next step of a start (R352), or a cycle. -/
  | boot
  /-- In SAFE: the controller alone runs (R350). -/
  | rest
  /-- The end of a rotation on every tile. -/
  | boundary
  /-- A row of the device that is due. -/
  | due (e : Event)
  /-- An inner step that is due. -/
  | dueInner (i : Inner)
  /-- Every call sheet has been looked through up to now. -/
  | sheetsDone
  /-- Whichever may happen now. -/
  | free
  deriving DecidableEq, Repr

/-- The cycles within which the controller writes a report (R359). -/
def attestLimit : Nat := 1000000

/-- A trip on a sensor at or above TTRIP (R361). -/
def tripDue (s : State) : Option Event :=
  (s.mgmt.sensed.find? (fun e => decide (s.mgmt.cfg.ttrip ≤ e.2) && !harvested s e.1)).map
    (fun e => .thermalTrip e.1 e.2)

/-- The controller's own step that is due: a trip, or a report whose time has come (R359, R361). -/
def controllerDue (s : State) : Option Event :=
  let m := s.mgmt
  match tripDue s with
  | some e => some e
  | none => if m.attesting && decide (attestLimit ≤ m.attestAge + 1) then some .attestReport else none

/-- What comes first in a running package. -/
noncomputable def readyAct (s : State) : Act :=
  match controllerDue s with
  | some e => .due e
  | none =>
  if s.rotDone < s.cycle / 16 then .boundary
  else
    match opDue s with
    | some e => .due e
    | none =>
      match firstThreadDue s with
      | some e => .due e
      | none =>
        match gatherDue s with
        | some i => .dueInner i
        | none =>
        if s.ticks < s.timeNs / 65536 then .due .refillTick
        else
          match sheetsDue s with
          | some e => .due e
          | none =>
            if s.sheetTime < s.timeNs then .sheetsDone
            else
              match timeoutDue s with
              | some e => .due e
              | none => .free

/-- What comes first in a start: a trip, once the record of this start has given TTRIP (R352, R361), or its
next step. -/
def startAct (s : State) : Act :=
  if s.mgmt.step < 2 then .boot
  else
    match tripDue s with
    | some e => .due e
    | none => .boot

/-- What comes first. -/
noncomputable def nextAct (s : State) : Act :=
  if s.mgmt.state = stBoot then startAct s
  else if s.mgmt.state = stReady then readyAct s else .rest

/-- A thread's return home at a boundary (R274). -/
noncomputable def homeAt (s : State) (i : Tid) : State :=
  if goesHome s i then doEvent s (.returnHome i.tile i.slot) else s

/-- Every tile's temperature checked (R273), and the telemetry refreshed from what the sensors show
(R362). -/
noncomputable def refresh (s : State) : State :=
  let s := s.mgmt.sensed.foldl (fun s e => doEvent s (.thermalCheck e.1 e.2)) s
  doEvent s (.telemetryRefresh s.mgmt.sensors)

/-- The checks and the refresh that the controller makes every 4,096 rotations (R273, R362). -/
noncomputable def controllerChecks (s : State) : State :=
  if s.rotDone % 4096 = 0 then refresh s else s

/-- The end of a rotation: the controller's checks (R273), ageing and limits (R255, R326), running-order
entries (R271), displaced threads (R274), launches whose threads may enter ready (R293). -/
noncomputable def boundary (s : State) : State :=
  let s := controllerChecks { s with rotDone := s.cycle / 16 }
  let ts := smKeys s.tiles
  let s := ts.foldl (fun s t => doEvent (doEvent s (.rotationEnd t)) (.rosetApply t)) s
  let s := (ts.filter (fun t => !(tile s t).shedStack.isEmpty)).foldl
    (fun s t => doEvent s (.displaceThread t)) s
  let s := ((allThreads s).map (·.1)).foldl homeAt s
  (s.launches.filter (fun l => !l.released && (part s l.part).run == .running)).foldl
    (fun s l => doEvent s (.launchRelease l.id)) s

/-! ### Inputs -/

/-- Whether a row is an input from outside the package. -/
def external : Event → Bool
  | .flitReceive .. => true
  | .linkControlFlit .. => true
  | .linkRetrained .. => true
  | .timeSync .. => true
  | .nodeTimeLost => true
  | .wakeWrite .. => true
  | .vfMemoryRequest .. => true
  | .registerWrite .. => true
  | .resetCold => true
  | .resetWarm => true
  | .powerUp => true
  | .hlaunch .. => true
  | .attestStart => true
  | .sensorAlarm .. => true
  | .thermalCheck .. => true
  | .thermalTrip .. => true
  | .telemetryRefresh .. => true
  | .flashUnitReply .. => true
  | _ => false

/-- What a sensor shows, kept until the controller looks at it: a tile's temperature (R273, R361), or
measured words (R362); none for another event. -/
def sensorReading (m : Mgmt) : Event → Option Mgmt
  | .thermalCheck t temp => some { m with sensed := smSet m.sensed t temp }
  | .thermalTrip t temp => some { m with sensed := smSet m.sensed t temp }
  | .telemetryRefresh words =>
    some { m with sensors := words.foldl (fun w e => smSet w e.1 e.2) m.sensors }
  | _ => none

/-- The oldest input taken: a sensor's reading is kept, another input has its row's effect, and an event
that is no input is discarded (log 5 [DESIGN CHOICE]). -/
noncomputable def takeInput (s : State) : Host.Outcome State Fault Refusal :=
  match s.inputs with
  | [] => .next s
  | e :: rest =>
    let s := { s with inputs := rest }
    match sensorReading s.mgmt e with
    | some m => .next { s with mgmt := m }
    | none => if external e then exec e.toInstr s else .next s

/-! ### The step -/

/-- The device's steps that have an effect now. -/
noncomputable def enabled (s : State) : List Event := (ownEvents s).filter (acts s)

/-- One of the device's enabled steps or inner steps, or the next cycle, by a free choice (log 4 [DESIGN
CHOICE]). -/
noncomputable def freeStep (s : State) : Host.Outcome State Fault Refusal :=
  let es := enabled s
  let ns := innerSteps s
  if es.isEmpty && ns.isEmpty then .next (nextCycle s)
  else
    let (d, s) := draw s
    let c := d % (es.length + ns.length + 1)
    match es[c]?, ns[c - es.length]? with
    | some e, _ => exec e.toInstr s
    | none, some i => .next (doInner s i)
    | none, none => .next (nextCycle s)

/-- Within a cycle the tiles issue first, so that thread accesses and operations come before those of other
units in the same cycle (R125, R130, R264); then come the device's own steps, up to the next cycle. -/
noncomputable def cycleStep (s : State) : Host.Outcome State Fault Refusal :=
  if s.turn < issued then issue s else freeStep s

/-- A cycle in which no tile issues (R350): the time base goes on (R348), and in SAFE the telemetry. -/
noncomputable def idleCycle (s : State) : State :=
  let s := nextCycle s
  if s.mgmt.state = stSafe && s.cycle % 65536 = 0 then refresh s else s

/-- The next step of a start, or a cycle, by a free choice (log 4 [DESIGN CHOICE]). -/
noncomputable def bootAct (s : State) : State :=
  let (c, s) := draw s
  if c % 2 = 0 then bootStep s else idleCycle s

/-- The controller's step in SAFE: the report of an attestation, at the latest when it is due, or a
cycle (R350, R359). -/
noncomputable def safeAct (s : State) : State :=
  if s.mgmt.attesting then
    let (c, s) := draw s
    if c % 2 = 0 || decide (attestLimit ≤ s.mgmt.attestAge + 1) then doEvent s .attestReport
    else idleCycle s
  else idleCycle s

/-- What the machine does next, done. -/
noncomputable def doAct (s : State) : Act → Host.Outcome State Fault Refusal
  | .boot => .next (bootAct s)
  | .rest => .next (safeAct s)
  | .boundary => .next (boundary s)
  | .due e => exec e.toInstr s
  | .dueInner i => .next (doInner s i)
  | .sheetsDone => .next { s with sheetTime := s.timeNs }
  | .free => cycleStep s

/-- An input, where one waits and the free choice takes it, or what comes next (log 5 [DESIGN CHOICE]). -/
noncomputable def inputOrAct (s : State) : Host.Outcome State Fault Refusal :=
  match s.inputs with
  | [] => doAct s (nextAct s)
  | _ :: _ =>
    let (c, s) := draw s
    if c % 2 = 0 then takeInput s else doAct s (nextAct s)

/-- One step: an error that strikes, where one waits and the free choice takes it (log 36 [DESIGN
CHOICE]), an input, or what comes next. -/
noncomputable def agenda (s : State) : Host.Outcome State Fault Refusal :=
  match s.upsets with
  | [] => inputOrAct s
  | _ :: _ =>
    let (c, s) := draw s
    if c % 2 = 0 then .next (takeUpset s) else inputOrAct s

/-! ### A word placed -/

/-- Where a placed word stands. -/
def placedPc : Nat := 0x50000

/-- Memory in which space 0 of partition 0 maps its first 256 MB onto the first 256 MB of memory for
every privilege and access, under S32, with the tables at 0x4_0000. -/
def placeTables (h : Memory) (sptb : Nat) : Memory :=
  let h := physPut64 h sptb (2 ^ 63 + 0x40000)
  let h := physPut64 h 0x40000 (2 ^ 61 + 0x48000)
  physPut64 h 0x48000 (2 ^ 61 + 2 ^ 60 + 2 ^ 56 + 2 ^ 55 + 2 ^ 54)

/-- The thread that issues a placed word: of the hypervisor, ready. -/
def placedThread : Thread := { Thread.none with st := .ready, pc := w64 placedPc, priv := 2 }

/-- A word placed, with zeros after it, where the next step fetches it (log 23 [DESIGN CHOICE]): the
controller READY, the thread, its translation and the word's bytes in memory; the turn goes to tile 0. -/
def placeWord (s : State) (nbits w : Nat) : State :=
  let h := physPut64 (placeTables s.hbm (s.sptb.toNat % 2 ^ 40)) placedPc (w % 2 ^ min nbits 32)
  let m := { s.mgmt with state := stReady, step := 5 }
  setThr { s with hbm := h, turn := 0, mgmt := m } ⟨0, 0⟩ placedThread

end Sys2Proof.Machine
end

