-- ==== Sys2Proof/Machine/Step.lean ====
section
/-! DEFINITION. One step of the package, and the placing of an instruction word where the next step
fetches it. -/

namespace Sys2Proof.Machine

/-- One step: an input, what is due, a step of the device, or the issue of the next instruction. -/
noncomputable def step (s : State) : Host.Outcome State Fault Refusal := agenda s

/-- The state in which the next step issues a word from a hypervisor thread on tile 0 (log 23 [DESIGN CHOICE]). -/
def State.withFetchWord (s : State) (nbits w : Nat) : State := placeWord s nbits w

end Sys2Proof.Machine
end

