-- ==== Sys2Proof/Safety.lean ====
section
/-! DEFINITION. The terms in which claims are stated: an issue that nothing turns away, the three
ways an instruction leaves its thread, and what a thread's registers hold after a result. -/

namespace Sys2Proof.Machine

/-- An outcome that lets the machine go on. -/
def Goes (o : Host.Outcome State Fault Refusal) : Prop := ∃ t, o = .next t

/-- The state an issue works on: the thread's results that are due are written (R45). -/
def landed (s : State) : State := landUpTo s s.cur s.cycle

/-- Nothing turns the issue of an instruction away whose decode checks are `c` (R57, R150): its
fields are assigned, the thread may run it, its registers exist, are ready where TSTAT.CHKSTL asks,
and hold what was written. The thread leads no understudy. -/
structure Clear (c : Chk) (s : State) : Prop where
  place : s.cur.tile < 1024
  single : (me (landed s)).leader = false
  fields : c.ok = true
  priv : c.priv ≤ (me (landed s)).priv
  bank : (tile (landed s) s.cur.tile).wide = true ∨ ∀ x ∈ c.xs, x.toNat < 16
  window : ∀ v ∈ c.vs, v.toNat < 24 → v.toNat < (me (landed s)).vwSize
  ready : (me (landed s)).chkstl = true → notReady (landed s) c = false
  sound : ∀ e ∈ c.res, (getXR (me (landed s)) e.1.toNat).r
    = residue (getXR (me (landed s)) e.1.toNat).v

/-- The cycle from which the next instruction may issue: the stall count of R44, which of a word that
issues again counts from its first issue (R46). -/
def nextFrom (s : State) (stl : BitVec 3) : Nat :=
  match (me s).again with
  | none => s.cycle + 16 * (stl.toNat + 1)
  | some c => max c s.cycle

/-- The instruction is complete: the pc stands past it, or at the next repetition, INSTRET has
counted it, and the stall count runs (R44, R154, R193). -/
def went (stl : BitVec 3) (s : State) : State :=
  setThr s s.cur { advance (me s) with st := .issued (nextFrom s stl) }

/-- The instruction is complete and the one at `pc` follows. -/
def wentTo (stl : BitVec 3) (pc : Word) (s : State) : State :=
  setThr s s.cur { me s with pc := pc, instret := (me s).instret + 1, again := none,
                             st := .issued (nextFrom s stl) }

/-- The instruction has descheduled its thread, which waits for `w` (R46, R251); a word that waits to
issue for a stream sets no stall cycle (R113). -/
def slept (stl : BitVec 3) (w : Wait) (s : State) : State :=
  setThr s s.cur { me s with
    st := .waiting w (if w = .stream then s.cycle else nextFrom s stl), again := none }

/-- The context after a scalar result `v` with residue `r` of latency `lat`: written, where the
stall count covers the latency, else pending until its cycle (R44, R45, R149); x0 discards it. The
flags of a floating-point result are due with it (R157). -/
def withX (s : State) (stl : BitVec 3) (lat : Nat) (fp : Bool) (rd : BitVec 5) (v : Word)
    (r : BitVec 4) (th : Thread) : Thread :=
  let th := if fp then { th with flagsDue := max th.flagsDue (s.cycle + lat) } else th
  if rd = 0 then th
  else if lat ≤ 16 * (stl.toNat + 1) then
    { th with x := smSet th.x rd.toNat ⟨v, r⟩,
              pend := th.pend.filter (fun p => !(p.reg == rd.toNat && p.due ≤ s.cycle + lat)) }
  else
    let p : Pending := { reg := rd.toNat, val := v.setWidth 4096, res := r, due := s.cycle + lat,
                         fp := fp }
    { th with pend := pendInsert p th.pend }

/-- The issuing thread's context changed. -/
def onMe (s : State) (f : Thread → Thread) : State := setThr s s.cur (f (me s))

/-- The memory of two states is the same, byte for byte: HBM4E, every scratchpad, every cluster's
shared memory, the slices' lines, and the write buffer, phase log and view of every tile. -/
def SameMemory (s t : State) : Prop :=
  t.hbm = s.hbm ∧ t.lines = s.lines
  ∧ (∀ k, (tile t k).spad = (tile s k).spad)
  ∧ (∀ c, (cluster t c).shm = (cluster s c).shm)
  ∧ (∀ k, (tile t k).wbuf = (tile s k).wbuf ∧ (tile t k).plog = (tile s k).plog
      ∧ (tile t k).view = (tile s k).view)

end Sys2Proof.Machine
end

