-- ==== Sys2Proof/Certificates/Slice0/Obligations.lean ====
section
/-! DEFINITION. The statements for the provers. First the tables that say, per word, what the spec's
tables say; then one statement per obligation. -/

namespace Sys2Proof.Machine

/-! ### Integer words -/

/-- What an integer word computes: STL, the registers it names, its destination, latency, result and
stored residue. -/
structure IntRow where
  stl : BitVec 3
  regs : List (BitVec 5)
  rd : BitVec 5
  lat : Nat
  val : Word
  res : BitVec 4

/-- A row with a generated residue. -/
def intRow (stl : BitVec 3) (regs : List (BitVec 5)) (rd : BitVec 5) (lat : Nat) (v : Word) :
    Option IntRow := some ⟨stl, regs, rd, lat, v, residue v⟩

/-- 1 for a true condition, else 0. -/
def bitWord (p : Prop) [Decidable p] : Word := if p then 1 else 0

/-- The table of R158: a and b are the registers named, the shift amount is b[5:0]. -/
def aluTable (s : State) : Instr → Option IntRow
  | .add stl rd ra rb => some ⟨stl, [rd, ra, rb], rd, 4, rx s ra + rx s rb,
      resAdd (rx s ra) (rx s rb) (rr s ra) (rr s rb)⟩
  | .sub stl rd ra rb => some ⟨stl, [rd, ra, rb], rd, 4, rx s ra - rx s rb,
      resSub (rx s ra) (rx s rb) (rr s ra) (rr s rb)⟩
  | .and stl rd ra rb => intRow stl [rd, ra, rb] rd 4 (rx s ra &&& rx s rb)
  | .or stl rd ra rb => intRow stl [rd, ra, rb] rd 4 (rx s ra ||| rx s rb)
  | .xor stl rd ra rb => intRow stl [rd, ra, rb] rd 4 (rx s ra ^^^ rx s rb)
  | .andn stl rd ra rb => intRow stl [rd, ra, rb] rd 4 (rx s ra &&& ~~~ rx s rb)
  | .orn stl rd ra rb => intRow stl [rd, ra, rb] rd 4 (rx s ra ||| ~~~ rx s rb)
  | .sll stl rd ra rb => intRow stl [rd, ra, rb] rd 4 (rx s ra <<< ((rx s rb).toNat % 64))
  | .srl stl rd ra rb => intRow stl [rd, ra, rb] rd 4 (rx s ra >>> ((rx s rb).toNat % 64))
  | .sra stl rd ra rb =>
    intRow stl [rd, ra, rb] rd 4 (BitVec.ofInt 64 ((rx s ra).toInt / 2 ^ ((rx s rb).toNat % 64)))
  | .rol stl rd ra rb => intRow stl [rd, ra, rb] rd 4
      (rx s ra <<< ((rx s rb).toNat % 64) ||| rx s ra >>> (64 - (rx s rb).toNat % 64))
  | .ror stl rd ra rb => intRow stl [rd, ra, rb] rd 4
      (rx s ra >>> ((rx s rb).toNat % 64) ||| rx s ra <<< (64 - (rx s rb).toNat % 64))
  | .slt stl rd ra rb => intRow stl [rd, ra, rb] rd 4 (bitWord ((rx s ra).toInt < (rx s rb).toInt))
  | .sltu stl rd ra rb =>
    intRow stl [rd, ra, rb] rd 4 (bitWord ((rx s ra).toNat < (rx s rb).toNat))
  | .seq stl rd ra rb => intRow stl [rd, ra, rb] rd 4 (bitWord (rx s ra = rx s rb))
  | .sne stl rd ra rb => intRow stl [rd, ra, rb] rd 4 (bitWord (rx s ra ≠ rx s rb))
  | .min stl rd ra rb => intRow stl [rd, ra, rb] rd 4
      (BitVec.ofInt 64 (min (rx s ra).toInt (rx s rb).toInt))
  | .max stl rd ra rb => intRow stl [rd, ra, rb] rd 4
      (BitVec.ofInt 64 (max (rx s ra).toInt (rx s rb).toInt))
  | .minu stl rd ra rb => intRow stl [rd, ra, rb] rd 4
      (BitVec.ofNat 64 (min (rx s ra).toNat (rx s rb).toNat))
  | .maxu stl rd ra rb => intRow stl [rd, ra, rb] rd 4
      (BitVec.ofNat 64 (max (rx s ra).toNat (rx s rb).toNat))
  | .clz stl rd ra => intRow stl [rd, ra] rd 4
      (BitVec.ofNat 64 (if rx s ra = 0 then 64 else 63 - Nat.log2 (rx s ra).toNat))
  | .ctz stl rd ra => intRow stl [rd, ra] rd 4
      (BitVec.ofNat 64 (((List.range 64).find? (fun k => (rx s ra).getLsbD k)).getD 64))
  | .popc stl rd ra => intRow stl [rd, ra] rd 4
      (BitVec.ofNat 64 ((List.range 64).filter (fun k => (rx s ra).getLsbD k)).length)
  | .bswap stl rd ra => intRow stl [rd, ra] rd 4
      (BitVec.ofNat 64 (bytesNat (natBytes 8 (rx s ra).toNat).reverse))
  | .sextb stl rd ra => intRow stl [rd, ra] rd 4 (((rx s ra).setWidth 8).signExtend 64)
  | .sexth stl rd ra => intRow stl [rd, ra] rd 4 (((rx s ra).setWidth 16).signExtend 64)
  | .sextw stl rd ra => intRow stl [rd, ra] rd 4 (((rx s ra).setWidth 32).signExtend 64)
  | .zextw stl rd ra => intRow stl [rd, ra] rd 4 (((rx s ra).setWidth 32).setWidth 64)
  | _ => none

/-- The tables of R159 and R160: the immediate is sign-extended from 13 bits, a shift amount stands
in 6; lui and auipc take imm18 times 2^13. -/
def immTable (s : State) : Instr → Option IntRow
  | .addi stl rd ra imm => some ⟨stl, [rd, ra], rd, 4, rx s ra + imm.signExtend 64,
      resAdd (rx s ra) (imm.signExtend 64) (rr s ra) (residue (imm.signExtend 64))⟩
  | .andi stl rd ra imm => intRow stl [rd, ra] rd 4 (rx s ra &&& imm.signExtend 64)
  | .ori stl rd ra imm => intRow stl [rd, ra] rd 4 (rx s ra ||| imm.signExtend 64)
  | .xori stl rd ra imm => intRow stl [rd, ra] rd 4 (rx s ra ^^^ imm.signExtend 64)
  | .slti stl rd ra imm => intRow stl [rd, ra] rd 4 (bitWord ((rx s ra).toInt < imm.toInt))
  | .sltiu stl rd ra imm =>
    intRow stl [rd, ra] rd 4 (bitWord ((rx s ra).toNat < (imm.signExtend 64).toNat))
  | .slli stl rd ra n => intRow stl [rd, ra] rd 4 (rx s ra <<< n.toNat)
  | .srli stl rd ra n => intRow stl [rd, ra] rd 4 (rx s ra >>> n.toNat)
  | .srai stl rd ra n => intRow stl [rd, ra] rd 4 (BitVec.ofInt 64 ((rx s ra).toInt / 2 ^ n.toNat))
  | .rori stl rd ra n =>
    intRow stl [rd, ra] rd 4 (rx s ra >>> n.toNat ||| rx s ra <<< (64 - n.toNat))
  | .lui stl rd imm => intRow stl [rd] rd 4 (BitVec.ofInt 64 (imm.toInt * 2 ^ 13))
  | .auipc stl rd imm =>
    intRow stl [rd] rd 4 (wordPc (me s) + BitVec.ofInt 64 (imm.toInt * 2 ^ 13))
  | _ => none

/-- The table of R161, quotients truncated toward zero and then saturated. -/
def mulDivTable (s : State) : Instr → Option IntRow
  | .mul stl rd ra rb => some ⟨stl, [rd, ra, rb], rd, 20, rx s ra * rx s rb,
      resMul (rx s ra) (rx s rb) (rr s ra) (rr s rb)⟩
  | .mulh stl rd ra rb => intRow stl [rd, ra, rb] rd 20
      (BitVec.ofInt 64 ((rx s ra).toInt * (rx s rb).toInt / 2 ^ 64))
  | .mulhu stl rd ra rb => intRow stl [rd, ra, rb] rd 20
      (BitVec.ofNat 64 ((rx s ra).toNat * (rx s rb).toNat / 2 ^ 64))
  | .mulhsu stl rd ra rb => intRow stl [rd, ra, rb] rd 20
      (BitVec.ofInt 64 ((rx s ra).toInt * (rx s rb).toNat / 2 ^ 64))
  | .div stl rd ra rb => intRow stl [rd, ra, rb] rd 72
      (let a := (rx s ra).toInt
       let b := (rx s rb).toInt
       if b = 0 then BitVec.ofInt 64 (if a < 0 then -2 ^ 63 else 2 ^ 63 - 1)
       else if a = -2 ^ 63 ∧ b = -1 then BitVec.ofInt 64 (2 ^ 63 - 1)
       else BitVec.ofInt 64 (a.tdiv b))
  | .divu stl rd ra rb => intRow stl [rd, ra, rb] rd 72
      (if rx s rb = 0 then BitVec.allOnes 64
       else BitVec.ofNat 64 ((rx s ra).toNat / (rx s rb).toNat))
  | .rem stl rd ra rb => intRow stl [rd, ra, rb] rd 72
      (if rx s rb = 0 then rx s ra else BitVec.ofInt 64 ((rx s ra).toInt.tmod (rx s rb).toInt))
  | .remu stl rd ra rb => intRow stl [rd, ra, rb] rd 72
      (if rx s rb = 0 then rx s ra else BitVec.ofNat 64 ((rx s ra).toNat % (rx s rb).toNat))
  | _ => none

/-- A clear issue of a word in a table leaves its row's result, and nothing else changed. -/
def IntHolds (table : State → Instr → Option IntRow) : Prop :=
  ∀ (s : State) (i : Instr) (r : IntRow), table (landed s) i = some r →
    Clear { xs := r.regs } s →
    exec i s = .next (went r.stl
      (onMe (landed s) (withX (landed s) r.stl r.lat false r.rd r.val r.res)))

/-! ### Floating-point and pointer words -/

/-- What a floating-point word computes: STL, destination, sources, whether it takes its mode from
FRM, latency, and its result for a mode. -/
structure FpRow where
  stl : BitVec 3
  rd : BitVec 5
  xs : List (BitVec 5)
  rounds : Bool
  lat : Nat
  res : RMode → FRes

/-- The operands of precision P are the low bits of their registers (R165). -/
def fpOp (s : State) (prec : BitVec 2) (r : BitVec 5) : FVal :=
  (precFmt prec.toNat).decode ((rx s r).toNat % 2 ^ (precFmt prec.toNat).width)

/-- An exact value rounded once by a mode: the flags of the operation and of the rounding; a
stochastic rounding that is not exact draws once (R31, R166). -/
def fpRound (s : State) (prec : BitVec 2) (m : RMode) (v : FVal × FlagSet) : FRes :=
  let e := (precFmt prec.toNat).encode ⟨⟨m, (me s).lfsr⟩, false, false⟩ v.1
  ⟨e.1, v.2 ||| e.2, m == .stoch && v.1.draws⟩

/-- 12 cycles, 20 in double precision (R169). -/
def fpTime (prec : BitVec 2) : Nat := if prec = 1 then 20 else 12

/-- Divisions and square roots: 56, 104 and 40 cycles in single, double and 16-bit precisions. -/
def fpLongTime (prec : BitVec 2) : Nat := if prec = 1 then 104 else if prec = 0 then 56 else 40

/-- The sign operation's result: a's magnitude under the given sign (R167). -/
def fpSigned (s : State) (prec : BitVec 2) (ra : BitVec 5) (neg : Bool) : FRes :=
  let w := (precFmt prec.toNat).width
  ⟨(rx s ra).toNat % 2 ^ (w - 1) + (if neg then 2 ^ (w - 1) else 0), 0, false⟩

/-- The sign bit of an operand. -/
def fpNeg (s : State) (prec : BitVec 2) (r : BitVec 5) : Bool :=
  bitOf (rx s r).toNat ((precFmt prec.toNat).width - 1)

/-- A comparison or minimum as R167 states it, exact. -/
def fpPick (prec : BitVec 2) (isMax : Bool) (a b : FVal) : FRes :=
  let v := minmaxVal isMax a b
  ⟨((precFmt prec.toNat).encode ⟨⟨.rne, 0⟩, false, false⟩ v.1).1, v.2, false⟩

/-- A comparison's result: 1 or 0, and its flag. -/
def fpTruth (v : Bool × FlagSet) : FRes := ⟨if v.1 then 1 else 0, v.2, false⟩

/-- The tables of R166 to R168. -/
def fpTable (s : State) : Instr → Option FpRow
  | .fadd stl rd ra rb p => some ⟨stl, rd, [ra, rb], true, fpTime p, fun m =>
      fpRound s p m (addVal m (fpOp s p ra) (fpOp s p rb))⟩
  | .fsub stl rd ra rb p => some ⟨stl, rd, [ra, rb], true, fpTime p, fun m =>
      fpRound s p m (addVal m (fpOp s p ra) (fpOp s p rb).negate)⟩
  | .fmul stl rd ra rb p => some ⟨stl, rd, [ra, rb], true, fpTime p, fun m =>
      fpRound s p m (mulVal (fpOp s p ra) (fpOp s p rb))⟩
  | .fdiv stl rd ra rb p => some ⟨stl, rd, [ra, rb], true, fpLongTime p, fun m =>
      fpRound s p m (divVal (fpOp s p ra) (fpOp s p rb))⟩
  | .fsqrt stl rd ra p => some ⟨stl, rd, [ra], true, fpLongTime p, fun m =>
      fpRound s p m (sqrtVal (fpOp s p ra))⟩
  | .ffma stl rd ra rb p => some ⟨stl, rd, [ra, rb], true, fpTime p, fun m =>
      fpRound s p m (fmaVal m (fpOp s p ra) (fpOp s p rb) (fpOp s p rd))⟩
  | .ffms stl rd ra rb p => some ⟨stl, rd, [ra, rb], true, fpTime p, fun m =>
      fpRound s p m (fmaVal m (fpOp s p ra).negate (fpOp s p rb) (fpOp s p rd))⟩
  | .fmin stl rd ra rb p => some ⟨stl, rd, [ra, rb], false, 4, fun _ =>
      fpPick p false (fpOp s p ra) (fpOp s p rb)⟩
  | .fmax stl rd ra rb p => some ⟨stl, rd, [ra, rb], false, 4, fun _ =>
      fpPick p true (fpOp s p ra) (fpOp s p rb)⟩
  | .feq stl rd ra rb p => some ⟨stl, rd, [ra, rb], false, 4, fun _ =>
      fpTruth (cmpVal 0 (fpOp s p ra) (fpOp s p rb))⟩
  | .flt stl rd ra rb p => some ⟨stl, rd, [ra, rb], false, 4, fun _ =>
      fpTruth (cmpVal 1 (fpOp s p ra) (fpOp s p rb))⟩
  | .fle stl rd ra rb p => some ⟨stl, rd, [ra, rb], false, 4, fun _ =>
      fpTruth (cmpVal 2 (fpOp s p ra) (fpOp s p rb))⟩
  | .fclass stl rd ra p => some ⟨stl, rd, [ra], false, 4, fun _ =>
      ⟨(precFmt p.toNat).classOf ((rx s ra).toNat % 2 ^ (precFmt p.toNat).width), 0, false⟩⟩
  | .fsgnj stl rd ra rb p => some ⟨stl, rd, [ra, rb], false, 4, fun _ =>
      fpSigned s p ra (fpNeg s p rb)⟩
  | .fsgnjn stl rd ra rb p => some ⟨stl, rd, [ra, rb], false, 4, fun _ =>
      fpSigned s p ra (!fpNeg s p rb)⟩
  | .fsgnjx stl rd ra rb p => some ⟨stl, rd, [ra, rb], false, 4, fun _ =>
      fpSigned s p ra (fpNeg s p ra != fpNeg s p rb)⟩
  | .fcvtI stl rd ra p => some ⟨stl, rd, [ra], true, 12, fun m =>
      let e := toInt64 true ⟨m, (me s).lfsr⟩ (fpOp s p ra)
      ⟨e.1, e.2, m == .stoch && (fpOp s p ra).draws⟩⟩
  | .fcvtIu stl rd ra p => some ⟨stl, rd, [ra], true, 12, fun m =>
      let e := toInt64 false ⟨m, (me s).lfsr⟩ (fpOp s p ra)
      ⟨e.1, e.2, m == .stoch && (fpOp s p ra).draws⟩⟩
  | .fcvtF stl rd ra p => some ⟨stl, rd, [ra], true, 12, fun m =>
      fpRound s p m (intVal (rx s ra).toInt, 0)⟩
  | .fcvtFu stl rd ra p => some ⟨stl, rd, [ra], true, 12, fun m =>
      fpRound s p m (intVal (rx s ra).toNat, 0)⟩
  | .fcvtP stl rd ra sp p =>
    let dst := precFmt p.toNat
    let exact := holdsAll (.flt dst) (.flt (precFmt sp.toNat))
    some ⟨stl, rd, [ra], !exact, 12, fun m =>
      let e := dst.encode ⟨⟨if exact then .rne else m, (me s).lfsr⟩, !exact && dst.width == 16,
        frmSat (me s)⟩ (fpOp s sp ra)
      ⟨e.1, e.2, !exact && m == .stoch && (fpOp s sp ra).draws⟩⟩
  | _ => none

/-- The decode checks of a floating-point word. -/
def FpRow.chk (s : State) (r : FpRow) : Chk :=
  { ok := !r.rounds || (frmMode (me s)).isSome, xs := r.rd :: r.xs }

/-- The mode a word rounds by: FRM.RMODE (R30). -/
def theMode (s : State) : RMode := (frmMode (me s)).getD .rne

/-- The context after a result's flags have accrued and its draw was taken (R31, R152). -/
def withFp (r : FRes) (th : Thread) : Thread :=
  let th := { th with fflags := th.fflags ||| r.fl.setWidth 13 }
  if r.drew then { th with lfsr := lfsrNext th.lfsr } else th

/-- Whether a raised set holds a flag whose trap is enabled (R152). -/
def traps (fl : FlagSet) (th : Thread) : Bool := fl &&& BitVec.ofNat 5 (th.fflags.toNat / 256) != 0

/-- The pointer words that give a result whatever their operands are (R162, R163). -/
def ptrTable (s : State) : Instr → Option IntRow
  | .psub stl rd ra rb =>
    intRow stl [rd, ra, rb] rd 4 (BitVec.ofInt 64 ((pOff (rx s ra) : Int) - pOff (rx s rb)))
  | .ptag stl rd ra rb => intRow stl [rd, ra, rb] rd 4 (pWith (rx s rb) (pOff (rx s ra)))
  | .pfmt stl rd ra rb => intRow stl [rd, ra, rb] rd 4
      ((rx s rb).extractLsb' 0 6 ++ (rx s rb).extractLsb' 6 4 ++ (rx s ra).setWidth 54)
  | .pspc stl rd ra rb => intRow stl [rd, ra, rb] rd 4
      (let sp := (rx s rb).extractLsb' 12 2
       if sp = 1 ∨ sp = 3 then
         (rx s ra).extractLsb' 54 10 ++ sp ++ (rx s rb).setWidth 12 ++ (rx s ra).setWidth 40
       else (rx s ra).extractLsb' 54 10 ++ sp ++ (rx s ra).setWidth 52)
  | .pchk stl rd ra rb => intRow stl [rd, ra, rb] rd 12
      (BitVec.ofNat 64 (pchkVal s (standing s (me s).home (me s).asid) (rx s ra) (rx s rb).toNat))
  | _ => none

/-- padd and paddi: STL, registers, destination, the pointer and the signed amount (R162, R164). -/
def paddTable (s : State) : Instr → Option (BitVec 3 × List (BitVec 5) × BitVec 5 × Word × Int)
  | .padd stl rd ra rb => some (stl, [rd, ra, rb], rd, rx s ra, (rx s rb).toInt)
  | .paddi stl rd ra imm => some (stl, [rd, ra], rd, rx s ra, imm.toInt)
  | _ => none

/-! ### Branches and jumps -/

/-- A branch: STL, operands, whether it is taken, its offset (R171). -/
def branchTable (s : State) :
    Instr → Option (BitVec 3 × BitVec 5 × BitVec 5 × Bool × BitVec 13)
  | .beq stl ra rb off => some (stl, ra, rb, decide (rx s ra = rx s rb), off)
  | .bne stl ra rb off => some (stl, ra, rb, decide (rx s ra ≠ rx s rb), off)
  | .blt stl ra rb off => some (stl, ra, rb, decide ((rx s ra).toInt < (rx s rb).toInt), off)
  | .bge stl ra rb off => some (stl, ra, rb, decide ((rx s rb).toInt ≤ (rx s ra).toInt), off)
  | .bltu stl ra rb off => some (stl, ra, rb, decide ((rx s ra).toNat < (rx s rb).toNat), off)
  | .bgeu stl ra rb off => some (stl, ra, rb, decide ((rx s rb).toNat ≤ (rx s ra).toNat), off)
  | _ => none

/-- A target `n` words from the instruction at `pc` (R170). -/
def wordsFrom (pc : Word) (n : Int) : Word := pc + BitVec.ofInt 64 (4 * n)

/-- A jump: STL, registers it names, its checks by residue, target, link register if any
(R172). -/
def jumpTable (s : State) : Instr → Option (BitVec 3 × Chk × Word × BitVec 5)
  | .j stl off => some (stl, {}, wordsFrom (me s).pc off.toInt, 0)
  | .jal stl off => some (stl, { xs := [1] }, wordsFrom (me s).pc off.toInt, 1)
  | .jalr stl rd ra imm => some (stl, { xs := [rd, ra], res := [(ra, 0)] },
      wordsFrom (rx s ra / 4 * 4) imm.toInt, rd)
  | _ => none

/-! ### Vector words -/

/-- What a vector word computes: STL, scalar fields, sources in the order of R113, destination,
whether its form is assigned and its mode not reserved, latency, and its result from the values of
its sources and the state of the generator, with the flags raised and the generator afterwards. -/
structure VecRow where
  stl : BitVec 3
  xs : List (BitVec 5)
  srcs : List (BitVec 5)
  rd : BitVec 5
  ok : Bool
  lat : Nat
  val : List VWord → BitVec 32 → VWord × FlagSet × BitVec 32

/-- A lane-wise operation of R176 on the three operands. -/
def laneOp (s : State) (fn : Nat) (et : BitVec 3) (vs : List VWord) (u : BitVec 32) :
    VWord × FlagSet × BitVec 32 :=
  let w := etBits et.toNat
  let ls := List.zipWith (fun (p : Nat × Nat) d => valuLane fn et.toNat (theMode s) p.1 p.2 d)
    ((lanes w (vs.getD 0 0)).zip (lanes w (vs.getD 1 0))) (lanes w (vs.getD 2 0))
  let r := runLanes ls u
  (ofLanes w r.1, r.2)

/-- A row of R176: integer operations take 8 cycles, float ones 16 or 24, divisions 48, 64 or 112
(R177). -/
def laneRow (s : State) (fn : Nat) (stl : BitVec 3) (rd : BitVec 5) (srcs : List (BitVec 5))
    (et : BitVec 3) : Option VecRow :=
  let lat := if et.toNat < 4 then 8
    else if fn = 0x16 then (if et = 4 then 112 else if et = 5 then 64 else 48)
    else if et = 4 then 24 else 16
  some ⟨stl, [], srcs, rd,
    valuEtOk fn et && (!valuRounds fn et.toNat || (frmMode (me s)).isSome), lat, laneOp s fn et⟩

/-- The table of R176; vfma, vfms and vsel read vD too. -/
def valuTable (s : State) : Instr → Option VecRow
  | .vadd stl rd ra rb et => laneRow s 0x00 stl rd [ra, rb] et
  | .vsub stl rd ra rb et => laneRow s 0x01 stl rd [ra, rb] et
  | .vmul stl rd ra rb et => laneRow s 0x02 stl rd [ra, rb] et
  | .vfma stl rd ra rb et => laneRow s 0x03 stl rd [ra, rb, rd] et
  | .vfms stl rd ra rb et => laneRow s 0x04 stl rd [ra, rb, rd] et
  | .vmin stl rd ra rb et => laneRow s 0x05 stl rd [ra, rb] et
  | .vmax stl rd ra rb et => laneRow s 0x06 stl rd [ra, rb] et
  | .vabs stl rd ra et => laneRow s 0x07 stl rd [ra] et
  | .vneg stl rd ra et => laneRow s 0x08 stl rd [ra] et
  | .vand stl rd ra rb et => laneRow s 0x09 stl rd [ra, rb] et
  | .vor stl rd ra rb et => laneRow s 0x0A stl rd [ra, rb] et
  | .vxor stl rd ra rb et => laneRow s 0x0B stl rd [ra, rb] et
  | .vshl stl rd ra rb et => laneRow s 0x0C stl rd [ra, rb] et
  | .vshr stl rd ra rb et => laneRow s 0x0D stl rd [ra, rb] et
  | .vsra stl rd ra rb et => laneRow s 0x0E stl rd [ra, rb] et
  | .vceq stl rd ra rb et => laneRow s 0x0F stl rd [ra, rb] et
  | .vclt stl rd ra rb et => laneRow s 0x10 stl rd [ra, rb] et
  | .vcle stl rd ra rb et => laneRow s 0x11 stl rd [ra, rb] et
  | .vsel stl rd ra rb et => laneRow s 0x12 stl rd [ra, rb, rd] et
  | .vadds stl rd ra rb et => laneRow s 0x13 stl rd [ra, rb] et
  | .vsubs stl rd ra rb et => laneRow s 0x14 stl rd [ra, rb] et
  | .vmov stl rd ra et => laneRow s 0x15 stl rd [ra] et
  | .vdiv stl rd ra rb et => laneRow s 0x16 stl rd [ra, rb] et
  | .vmulhi stl rd ra rb et => laneRow s 0x17 stl rd [ra, rb] et
  | _ => none

/-- A special function: each lane of the correctly rounded function (R178). -/
def specialRow (s : State) (k : Nat) (stl : BitVec 3) (rd ra : BitVec 5) (ct rm : BitVec 2) :
    Option VecRow :=
  let f := ctFmt ct.toNat
  some ⟨stl, [], [ra], rd, (rmMode (me s) rm).isSome, if ct = 0 then 64 else 32, fun vs u =>
    let r := runLanes ((lanes f.width (vs.getD 0 0)).map fun a u =>
      roundTo f ((rmMode (me s) rm).getD .rne) u (specialVal k (f.decode a))) u
    (ofLanes f.width r.1, r.2)⟩

/-- The tables of R178 to R181, but for vunpack. -/
def vfnTable (s : State) : Instr → Option VecRow
  | .vrcp stl rd ra ct rm => specialRow s 0 stl rd ra ct rm
  | .vrsq stl rd ra ct rm => specialRow s 1 stl rd ra ct rm
  | .vsqrt stl rd ra ct rm => specialRow s 2 stl rd ra ct rm
  | .vexp2 stl rd ra ct rm => specialRow s 3 stl rd ra ct rm
  | .vlog2 stl rd ra ct rm => specialRow s 4 stl rd ra ct rm
  | .vtanh stl rd ra ct rm => specialRow s 5 stl rd ra ct rm
  | .vsigm stl rd ra ct rm => specialRow s 6 stl rd ra ct rm
  | .vcvt stl rd ra ct sf rm =>
    let f := ctFmt ct.toNat
    let dst := efmtOf (sf.toNat + 1)
    let exact := holdsAll dst (.flt f)
    some ⟨stl, [], [ra], rd, vcvtOk ct sf && (exact || (rmMode (me s) rm).isSome), 16, fun vs u =>
      let r := runLanes ((lanes f.width (vs.getD 0 0)).map (cvtElem (.flt f) dst
        (decide (2 ≤ sf.toNat)) (frmSat (me s)) exact ((rmMode (me s) rm).getD .rne))) u
      (ofLanes dst.width r.1, r.2)⟩
  | .vcvtf stl rd ra ct sf rm =>
    let f := ctFmt ct.toNat
    let src := efmtOf (sf.toNat + 1)
    let exact := holdsAll (.flt f) src
    some ⟨stl, [], [ra], rd, vcvtOk ct sf && (exact || (rmMode (me s) rm).isSome), 16, fun vs u =>
      let r := runLanes ((chunks src.width (4096 / f.width) (vs.getD 0 0).toNat).map
        (cvtfElem src f (frmSat (me s)) exact ((rmMode (me s) rm).getD .rne))) u
      (ofLanes f.width r.1, r.2)⟩
  | .vbscl stl rd ra ct sf =>
    let f := ctFmt ct.toNat
    some ⟨stl, [], [ra], rd, scaleSfOk sf, 16, fun vs u =>
      let r := (groupsOf 32 (4096 / f.width / 32) ((lanes f.width (vs.getD 0 0)).map f.decode)).map
        (blockScale (fmtLimit (efmtOf (sf.toNat + 1))))
      (ofLanes 8 (r.map (·.1)), r.foldl (fun fl e => fl ||| e.2) 0, u)⟩
  | .vscale stl rd ra ct sf rm =>
    let f := ctFmt ct.toNat
    some ⟨stl, [], [ra, rd], rd, scaleSfOk sf && (rmMode (me s) rm).isSome, 16, fun vs u =>
      let sc := lanes 8 (vs.getD 0 0)
      let r := runLanes ((lanes f.width (vs.getD 1 0)).zipIdx.map fun e =>
        scaleLane f ((rmMode (me s) rm).getD .rne) (sc.getD (e.2 / 32) 0) e.1) u
      (ofLanes f.width r.1, r.2)⟩
  | .vpack stl rd ra =>
    some ⟨stl, [], [ra], rd, true, 32, fun vs u => (vpackVal (vs.getD 0 0), 0, u)⟩
  | _ => none

/-- A reduction over the tree of R35. -/
def reduceRow (s : State) (fn : Nat) (stl : BitVec 3) (rd ra : BitVec 5) (et : BitVec 3) :
    Option VecRow :=
  let w := etBits et.toNat
  some ⟨stl, [], [ra], rd, !valuRounds fn et.toNat || (frmMode (me s)).isSome,
    if w = 64 then 32 else 24, fun vs u =>
      let r := treeFold (fun a b => valuLane fn et.toNat (theMode s) a b 0) (Nat.log2 (4096 / w))
        (lanes w (vs.getD 0 0)) u
      (ofLanes w [r.1], r.2)⟩

/-- A lane move: no flags, no draw, 8 cycles. -/
def moveRow (stl : BitVec 3) (xs srcs : List (BitVec 5)) (rd : BitVec 5)
    (f : List VWord → VWord) : Option VecRow :=
  some ⟨stl, xs, srcs, rd, true, 8, fun vs u => (f vs, 0, u)⟩

/-- The table of R183, but for vext, and vmerge (R188). -/
def vredTable (s : State) : Instr → Option VecRow
  | .vrsum stl rd ra et => reduceRow s 0x00 stl rd ra et
  | .vrmax stl rd ra et => reduceRow s 0x06 stl rd ra et
  | .vrmin stl rd ra et => reduceRow s 0x05 stl rd ra et
  | .vperm stl rd ra rb et => moveRow stl [] [ra, rb] rd fun vs =>
      let w := etBits et.toNat
      ofLanes w ((lanes w (vs.getD 1 0)).map fun k =>
        (lanes w (vs.getD 0 0)).getD (k % (4096 / w)) 0)
  | .vrotx stl rd ra rb et => moveRow stl [rb] [ra] rd fun vs =>
      let w := etBits et.toNat
      let k := (rx s rb).toNat % (4096 / w)
      ofLanes w ((lanes w (vs.getD 0 0)).drop k ++ (lanes w (vs.getD 0 0)).take k)
  | .vbcast stl rd ra et => moveRow stl [ra] [] rd fun _ =>
      let w := etBits et.toNat
      ofLanes w (List.replicate (4096 / w) (rx s ra).toNat)
  | .vins stl rd ra rb et => moveRow stl [ra, rb] [rd] rd fun vs =>
      let w := etBits et.toNat
      ofLanes w ((lanes w (vs.getD 0 0)).set ((rx s rb).toNat % (4096 / w))
        ((rx s ra).toNat % 2 ^ w))
  | .viota stl rd et => moveRow stl [] [] rd fun _ =>
      let w := etBits et.toNat
      ofLanes w ((List.range (4096 / w)).map fun (i : Nat) =>
        if 4 ≤ et.toNat then ((etFmt et.toNat).encode ⟨⟨.rne, 0⟩, false, false⟩ (intVal i)).1 else i)
  | .vmerge stl rd ra rb et =>
    some ⟨stl, [], [ra, rb], rd, (frmMode (me s)).isSome, if et = 0 then 72 else 40, fun vs u =>
      mergeVec (et == 0) (theMode s) (vs.getD 0 0) (vs.getD 1 0) u⟩
  | _ => none

/-- The operands of a vector word are there: every source is popped or read as `vs` with `s'` after
the pops, nothing has to wait, nothing read or popped is uncorrectable, and the destination, if it
is a stream, has room (R112, R113, R121). -/
structure Operands (s : State) (srcs : List (BitVec 5)) (dst : Option (BitVec 5)) (vs : List VWord)
    (s' : State) : Prop where
  pops : popAll s.cur srcs s = .ok { wait := false, vs := vs, bad := none, s := s' }
  room : ∀ f ∈ dst, isStream f = true → ∃ t v, streamPush s s.cur (f.toNat - 24) 0 = .ok t v

/-- After a word that names a stream, the tile's threads that wait for a pipe look again. -/
def lookAgain (fs : List (BitVec 5)) (s : State) : State :=
  if fs.any isStream then retryTile s s.cur.tile else s

/-- The streams that a word has popped as they were, when it does not complete (R113). -/
def backOut (fs : List (BitVec 5)) (s0 s : State) : State :=
  if fs.any isStream then undoPops s0 s else s

/-- The flags have accrued and the generator holds `u` (R152, R175). -/
def withVec (fl : FlagSet) (u : BitVec 32) (th : Thread) : Thread :=
  { th with fflags := th.fflags ||| fl.setWidth 13, lfsr := u }

/-- A clear issue of a vector word whose operands are there leaves its row's result in its
destination, with the flags it raises, when none of them traps. -/
def VecHolds (table : State → Instr → Option VecRow) : Prop :=
  ∀ (s : State) (i : Instr) (r : VecRow) (vs : List VWord) (s' : State),
    table (landed s) i = some r →
    Clear { ok := r.ok, xs := r.xs, vs := r.rd :: r.srcs } s →
    Operands (landed s) r.srcs (some r.rd) vs s' →
    traps (r.val vs (me s').lfsr).2.1 (me s') = false →
    exec i s = .next (went r.stl (lookAgain (r.srcs ++ [r.rd])
      (putVec r.stl r.lat r.rd (r.val vs (me s').lfsr).1
        (onMe s' (withVec (r.val vs (me s').lfsr).2.1 (r.val vs (me s').lfsr).2.2)))))

/-! ### Loads, stores and atomics -/

/-- A scalar access: STL, the register loaded or stored, checks, pointer, offset, bytes, and whether
a load extends its sign (R131, R134). -/
structure MemRow where
  stl : BitVec 3
  rd : BitVec 5
  chk : Chk
  ptr : Word
  off : Int
  size : Nat
  signed : Bool := false

/-- With the displacement of R131, a multiple of the size. -/
def dispRow (s : State) (res : List (BitVec 5 × Nat)) (stl : BitVec 3) (rd ra : BitVec 5)
    (off : BitVec 10) (size : Nat) (signed : Bool) : Option MemRow :=
  some ⟨stl, rd, { xs := [rd, ra], res := (ra, 0) :: res, kind := 0 }, rx s ra,
    (pOff (rx s ra) : Int) + off.toInt * size, size, signed⟩

/-- With the index of R134, shifted left by SH. -/
def indexRow (s : State) (res : List (BitVec 5 × Nat)) (stl : BitVec 3) (rd ra rb : BitVec 5)
    (sh : BitVec 2) (size : Nat) (signed : Bool) : Option MemRow :=
  some ⟨stl, rd, { xs := [rd, ra, rb], res := (ra, 0) :: (rb, 1) :: res, kind := 0 }, rx s ra,
    (pOff (rx s ra) : Int) + (rx s rb).toInt * 2 ^ sh.toNat, size, signed⟩

/-- The loads of R131 and R134. -/
def loadTable (s : State) : Instr → Option MemRow
  | .lb stl rd ra off => dispRow s [] stl rd ra off 1 true
  | .lbu stl rd ra off => dispRow s [] stl rd ra off 1 false
  | .lh stl rd ra off => dispRow s [] stl rd ra off 2 true
  | .lhu stl rd ra off => dispRow s [] stl rd ra off 2 false
  | .lw stl rd ra off => dispRow s [] stl rd ra off 4 true
  | .lwu stl rd ra off => dispRow s [] stl rd ra off 4 false
  | .ld stl rd ra off => dispRow s [] stl rd ra off 8 false
  | .lbx stl rd ra rb sh => indexRow s [] stl rd ra rb sh 1 true
  | .lbux stl rd ra rb sh => indexRow s [] stl rd ra rb sh 1 false
  | .lhx stl rd ra rb sh => indexRow s [] stl rd ra rb sh 2 true
  | .lhux stl rd ra rb sh => indexRow s [] stl rd ra rb sh 2 false
  | .lwx stl rd ra rb sh => indexRow s [] stl rd ra rb sh 4 true
  | .lwux stl rd ra rb sh => indexRow s [] stl rd ra rb sh 4 false
  | .ldx stl rd ra rb sh => indexRow s [] stl rd ra rb sh 8 false
  | _ => none

/-- The stores of R131 and R134: x[rd] is the data. -/
def storeTable (s : State) : Instr → Option MemRow
  | .sb stl rd ra off => dispRow s [(rd, 2)] stl rd ra off 1 false
  | .sh stl rd ra off => dispRow s [(rd, 2)] stl rd ra off 2 false
  | .sw stl rd ra off => dispRow s [(rd, 2)] stl rd ra off 4 false
  | .sd stl rd ra off => dispRow s [(rd, 2)] stl rd ra off 8 false
  | .sbx stl rd ra rb sh => indexRow s [(rd, 2)] stl rd ra rb sh 1 false
  | .shx stl rd ra rb sh => indexRow s [(rd, 2)] stl rd ra rb sh 2 false
  | .swx stl rd ra rb sh => indexRow s [(rd, 2)] stl rd ra rb sh 4 false
  | .sdx stl rd ra rb sh => indexRow s [(rd, 2)] stl rd ra rb sh 8 false
  | _ => none

/-- The effective address of an access: the pointer with its offset replaced (R131). -/
def MemRow.ea (r : MemRow) : Word := pWith r.ptr r.off.toNat

/-- The offset stays within 52 bits and is a multiple of the size (R131). -/
def MemRow.fits (r : MemRow) : Prop :=
  0 ≤ r.off ∧ r.off < 2 ^ 52 ∧ r.off.toNat % r.size = 0

/-- The value a load returns from the number its bytes make (R131). -/
def MemRow.value (r : MemRow) (v : Nat) : Word :=
  if r.signed then BitVec.ofInt 64 (Int.bmod v (2 ^ (8 * r.size))) else BitVec.ofNat 64 v

/-- An atomic: STL, destination, checks, pointer, operand, expected value, operation, bytes
(R136, R137). -/
structure AmoRow where
  stl : BitVec 3
  rd : BitVec 5
  chk : Chk
  ptr : Word
  b : Word
  c : Word
  op : Nat
  size : Nat

/-- A row of R137: .w works on 4 bytes, .d on 8. -/
def amoRow (s : State) (op : Nat) (stl : BitVec 3) (rd ra rb : BitVec 5) (size : Nat) :
    Option AmoRow :=
  some ⟨stl, rd, { xs := [rd, ra, rb], res := [(ra, 0), (rb, 3)], kind := 0 }, rx s ra, rx s rb,
    rx s rd, op, size⟩

/-- Bytes by the W field. -/
def widthOf (w : BitVec 1) : Nat := if w = 1 then 8 else 4

/-- The atomics of R137, numbered by FN. -/
def amoTable (s : State) : Instr → Option AmoRow
  | .amoadd stl rd ra rb w => amoRow s 0x00 stl rd ra rb (widthOf w)
  | .amoand stl rd ra rb w => amoRow s 0x01 stl rd ra rb (widthOf w)
  | .amoor stl rd ra rb w => amoRow s 0x02 stl rd ra rb (widthOf w)
  | .amoxor stl rd ra rb w => amoRow s 0x03 stl rd ra rb (widthOf w)
  | .amomin stl rd ra rb w => amoRow s 0x04 stl rd ra rb (widthOf w)
  | .amomax stl rd ra rb w => amoRow s 0x05 stl rd ra rb (widthOf w)
  | .amominu stl rd ra rb w => amoRow s 0x06 stl rd ra rb (widthOf w)
  | .amomaxu stl rd ra rb w => amoRow s 0x07 stl rd ra rb (widthOf w)
  | .amoswap stl rd ra rb w => amoRow s 0x08 stl rd ra rb (widthOf w)
  | .amocas stl rd ra rb w =>
    some ⟨stl, rd, { xs := [rd, ra, rb], res := [(ra, 0), (rb, 3), (rd, 4)], kind := 0 }, rx s ra,
      rx s rb, rx s rd, 0x09, widthOf w⟩
  | .amofadd stl rd ra rb w => amoRow s 0x0A stl rd ra rb (widthOf w)
  | .amofaddBf stl rd ra rb => amoRow s 0x0B stl rd ra rb 4
  | .amofmin stl rd ra rb w => amoRow s 0x0C stl rd ra rb (widthOf w)
  | .amofmax stl rd ra rb w => amoRow s 0x0D stl rd ra rb (widthOf w)
  | .amold stl rd ra w => amoRow s 0x0E stl rd ra 0 (widthOf w)
  | _ => none

/-- The new value of an integer atomic, or none when it writes nothing (R137); the floating-point
ones are `amoNew`'s. -/
def amoWrites (op size old b c : Nat) : Option Nat :=
  let m := 2 ^ (8 * size)
  let old := old % m
  let neg := fun (v : Nat) => Int.bmod v m
  match op with
  | 0x00 => some ((old + b) % m)
  | 0x01 => some (Nat.land old (b % m))
  | 0x02 => some (Nat.lor old (b % m))
  | 0x03 => some (Nat.xor old (b % m))
  | 0x04 => some (if neg old ≤ neg (b % m) then old else b % m)
  | 0x05 => some (if neg old ≤ neg (b % m) then b % m else old)
  | 0x06 => some (min old (b % m))
  | 0x07 => some (max old (b % m))
  | 0x08 => some (b % m)
  | 0x09 => if old = c % m then some (b % m) else none
  | 0x0E => none
  | _ => amoNew op size old b c

/-- A state in which `n` bytes of the issuing thread's own scratchpad hold `v`: logged, where
TRCTL.LOCAL is set, with the given kind (R126, R147). -/
def ownStore (s : State) (kind off n v : Nat) : State :=
  logLocal (spadStore s s.cur.tile off n v) kind off n

/-! ### Operations at other places -/

/-- A scalar result of the issuing thread, with the residue of its value. -/
def giveX (stl : BitVec 3) (lat : Nat) (rd : BitVec 5) (v : Word) (s : State) : State :=
  onMe s (withX s stl lat false rd v (residue v))

/-- An operation without a result is done: at once, or, at another tile than the thread runs on,
with the reply for which the thread waits. -/
def doneAt (far : Bool) (stl : BitVec 3) (s : State) : State :=
  if far then slept stl .done (send s s.cur 0 (.reply 0 none none)) else went stl s

/-- An operation with a result is done. -/
def valueAt (far : Bool) (stl : BitVec 3) (rd : BitVec 5) (v : Word) (s : State) : State :=
  if far then slept stl (.value rd.toNat) (send s s.cur 0 (.reply v.toNat none none))
  else went stl (giveX stl 4 rd v s)

/-- The issuing thread runs away from its home tile (R19). -/
def away (s : State) : Bool := (me s).home != s.cur.tile

/-- The cue a K-format word names: a private cue, or a tile cue of the home tile (R42, R263). -/
def namedCue (s : State) (prv : BitVec 1) (cue : BitVec 8) : CueRef :=
  if prv = 1 then .priv s.cur cue.toNat else .tile (me s).home cue.toNat

/-- n of a cue instruction: x[ra][31:0], or 1 when RA = 0 (R264). -/
def countOf (s : State) (ra : BitVec 5) : Nat := if ra = 0 then 1 else (rx s ra).toNat % 2 ^ 32

/-- A cue with n counts taken. -/
def takeCount (c : Cue) (n : Nat) : Cue := { c with value := BitVec.ofNat 32 (c.value.toNat - n) }

/-- Whether a wait for n is served at issue: n = 0, or nobody waits and the value is there
(R264). -/
def servedNow (c : Cue) (n : Nat) : Prop := n = 0 ∨ (c.waiters = [] ∧ n ≤ c.value.toNat)

/-! ### Engine commands -/

/-- The command of an engine word: its operands and the snapshots of its thread (R101, R202). -/
def commandOf (s : State) (port cmd : Nat) (tag : BitVec 4) (a b : Word) : Command :=
  { id := s.fresh, port := port, cmd := cmd, a := a, b := b, snap := takeSnap s tag, done := 0,
    started := false, srcA := 0, srcB := 0, scales := none, seen := [] }

/-- A matrix word: STL, tag, whether its numbers are assigned, scalar fields, CMD, operands
(R199 to R212). -/
structure MatrixRow where
  stl : BitVec 3
  tag : BitVec 4
  ok : Bool
  xs : List (BitVec 5)
  cmd : Nat
  a : Word
  b : Word

/-- The port-0 commands. -/
def matrixTable (s : State) : Instr → Option MatrixRow
  | .mload stl tag ra rb =>
    some ⟨stl, tag, slotOk ra, [rb], 2, BitVec.ofNat 64 ra.toNat, rx s rb⟩
  | .mma stl tag ra rb => some ⟨stl, tag, slotOk ra && slotOk rb, [], 3,
      BitVec.ofNat 64 ra.toNat, BitVec.ofNat 64 rb.toNat⟩
  | .mmas stl tag ra rb => some ⟨stl, tag, slotOk ra && slotOk rb, [], 4,
      BitVec.ofNat 64 ra.toNat, BitVec.ofNat 64 rb.toNat⟩
  | .mgemm stl tag ra rb => some ⟨stl, tag, true, [ra, rb], 5, rx s ra, rx s rb⟩
  | .mdrain stl tag ra rb => some ⟨stl, tag, accOk ra, [rb], 6, BitVec.ofNat 64 ra.toNat, rx s rb⟩
  | .mzero stl tag ra => some ⟨stl, tag, accOk ra, [], 7, BitVec.ofNat 64 ra.toNat, 0⟩
  | .mtov stl tag ra => some ⟨stl, tag, accOk ra, [], 8, BitVec.ofNat 64 ra.toNat, 0⟩
  | _ => none

/-- A copy or swap word: STL, tag, operands, port, CMD. -/
structure UnitRow where
  stl : BitVec 3
  tag : BitVec 4
  ra : BitVec 5
  rb : BitVec 5
  cmd : Nat

/-- The port-1 commands (R108). -/
def copyTable : Instr → Option UnitRow
  | .cpy stl tag ra rb => some ⟨stl, tag, ra, rb, 0⟩
  | .cpys stl tag ra rb => some ⟨stl, tag, ra, rb, 1⟩
  | .cpyg stl tag ra rb => some ⟨stl, tag, ra, rb, 2⟩
  | .cpyx stl tag ra rb => some ⟨stl, tag, ra, rb, 3⟩
  | .cpyf stl tag ra rb => some ⟨stl, tag, ra, rb, 4⟩
  | _ => none

/-- The offset of vld and vst, before it is cut to 52 bits (R184). -/
def vecOffset (s : State) (ra : BitVec 5) (pt : BitVec 3) (off : BitVec 10) : Int :=
  let k := if (me s).repBody.isSome then repNext (me s) else 0
  (pOff (rx s ra) : Int) + off.toInt * 64 + ((k * (512 / 2 ^ pt.toNat) : Nat) : Int)


/-! ### Frames -/

/-- From `s0`, the state an issue works on, to `t` nothing has changed but the scalar register `rd` of
the issuing thread (x0 none), its pending results, the cycle by which its last flags are due, pc,
INSTRET, state (with the cycle that a first issue has set) and repetition, its flags and its
generator. -/
def OnlyRegisterOf (s0 t : State) (rd : BitVec 5) : Prop :=
  SameMemory s0 t ∧ (∀ j, j ≠ s0.cur → thr t j = thr s0 j)
  ∧ (∀ n, n ≠ rd.toNat → getXR (me t) n = getXR (me s0) n)
  ∧ t = setThr s0 s0.cur
      { me s0 with
        x := (me t).x, pend := (me t).pend, flagsDue := (me t).flagsDue, pc := (me t).pc,
        instret := (me t).instret, st := (me t).st, repidx := (me t).repidx,
        repBody := (me t).repBody, again := (me t).again, fflags := (me t).fflags,
        lfsr := (me t).lfsr }

/-- The same from `s`, once the thread's results that were due are written. -/
def OnlyRegister (s t : State) (rd : BitVec 5) : Prop :=
  SameMemory s t ∧ (∀ j, j ≠ s.cur → thr t j = thr s j) ∧ OnlyRegisterOf (landed s) t rd

/-- No flag and no step of the generator. -/
def NoFlag (s t : State) : Prop :=
  (me t).fflags = (me s).fflags ∧ (me t).lfsr = (me s).lfsr

end Sys2Proof.Machine

open Sys2Proof Sys2Proof.Machine

/-- Words printed in the spec decode to their instructions. The words that the chapters print for
ld, add, jalr, fmul.d, cwait, vadd.f32, gsig and rld decode to these instructions with these fields. -/
def Obligations.PrintedWordsDecode : Prop :=
  decode 0x64289800 = .ok (.ld 0 10 4 0)
  ∧ decode 0x04294B00 = .ok (.add 0 10 10 11)
  ∧ decode 0x60002000 = .ok (.jalr 0 0 1 0)
  ∧ decode 0x35316B42 = .ok (.fmul 2 12 11 11 1)
  ∧ decode 0xA4181000 = .ok (.cwait 0 1 2 0)
  ∧ decode 0x801008A0 = .ok (.vadd 0 4 0 8 5)
  ∧ decode 0xB8316002 = .ok (.gsig 0 12 11 0)
  ∧ decode 0xC0296C00 = .ok (.rld 0 10 11 12)

/-- Decoding an encoded instruction gives it back. For every instruction that has a word, with every
field at every value, the decoder reads from its word that instruction with those fields: no bit of
an encoding is dropped and no row reads as another. -/
def Obligations.DecodeAfterEncode : Prop :=
  ∀ (i : Instr) (w : IWord), encode i = some w → decode w = .ok i

/-- A step whose turn is an issue runs the decoded instruction. With no input and no error waiting,
nothing due and the issues of this cycle not over, a step offers the issue to the next tile that has
a thread; when the prompter has chosen its thread and the word at its pc is fetched and decodes to
i, the step is exec i with that word as the issued one (and, where i is a REP that has taken up its
body, its next repetition at once). Where the issue is that of an understudy whose place in the
program is its leader's, the step runs the word that the leader issued a rotation before. That the
tiles issue first in a cycle, one after the other, is the choice of log entry 4. -/
def Obligations.StepRunsDecodedInstruction : Prop :=
  ∀ (s s1 s2 : State) (t : Nat) (w : IWord) (i : Instr),
    s.inputs = [] → s.upsets = [] → nextAct s = .free → s.turn < issued → nextTile s = some t →
    exec (.prompterIssue t) { s with turn := t + 1 } = .next s1 →
    (shadowTurn s1 = false → (me s1).repBody = none →
      fetchWord s1 s1.cur (me s1).pc = .word s2 w → decode w = .ok i →
      step s = runRep (exec i { s2 with ir := w })
      ∧ ((∀ u, exec i { s2 with ir := w } = .next u → (me u).repBody = none) →
        step s = exec i { s2 with ir := w }))
    ∧ (∀ e q, shadowTurn s1 = true → (me s1).lvq = e :: q → e.ir = w → decode w = .ok i →
      (thr s1 (shadowOf s1)).pc = e.pc → (thr s1 (shadowOf s1)).repBody = (me s1).repBody →
      step s = runRep (exec i { s1 with ir := w }))

/-- The decode checks trap in the order of R57. An issue whose checks fail traps before any effect,
with TVAL the issued word: a word that the decoder refuses or an unassigned field ILLEGAL, else a
privilege below the least one PRIV, else a register above x15 in narrow mode REG, else a window
register beyond the window VWIN, else (with TSTAT.CHKSTL) a register whose result is not ready
STALL_SHORT. Stated for every word over the shared issue operation that all word meanings call. -/
def Obligations.DecodeChecksInOrder : Prop :=
  (∀ (s : State) (w : IWord) (e : DecodeError), decode w = .error e →
    (me (landed s)).leader = false → (me (landed s)).repBody = none →
    runWord w s = .next (trapThread (landed { s with ir := w }) s.cur .illegal (w.setWidth 64))
    ∧ exec (.illegalInstruction w) s
      = .next (trapThread (landed { s with ir := w }) s.cur .illegal (w.setWidth 64)))
  ∧ ∀ (stl : BitVec 3) (c : Chk) (body : State → Ret) (s : State),
    (me (landed s)).leader = false → (me (landed s)).repBody = none →
    let s0 := landed s
    let trap := fun (k : Cause) => run stl c body s = .next (trapThread s0 s.cur k (s.ir.setWidth 64))
    let bank := (tile s0 s.cur.tile).wide = true ∨ ∀ x ∈ c.xs, x.toNat < 16
    let window := ∀ v ∈ c.vs, v.toNat < 24 → v.toNat < (me s0).vwSize
    (c.ok = false → trap .illegal)
    ∧ (c.ok = true → (me s0).priv < c.priv → trap .priv)
    ∧ (c.ok = true → c.priv ≤ (me s0).priv → ¬ bank → trap .reg)
    ∧ (c.ok = true → c.priv ≤ (me s0).priv → bank → ¬ window → trap .vwin)
    ∧ (c.ok = true → c.priv ≤ (me s0).priv → bank → window → (me s0).chkstl = true →
        notReady s0 c = true → trap .stallShort)

/-- What taking a trap saves, and where it goes. A trap of a thread with INH 0 whose vector is
enabled: TCAUSE, TVAL and TPC hold the cause, the value and the pc, PPRIV the privilege; INH is 1;
the privilege is the hypervisor's for a trap of the hypervisor or a SHADOW fault, else at least the
supervisor's; the pc is the handler's address, which the thread enters at the next rotation
boundary; the registers hold the results that were pending, and nothing of another thread changes.
Where the vector is not enabled the trap registers are written and the thread stops in its place;
with INH set it stops and keeps the first trap. In these two cases a thread that is no understudy
raises the event TRAPPED with its slot, whether INH was set, and the cause; an understudy raises
none. The event reaches the troupe's event slot as a message of kind 1 when the vector names a live
thread of the troupe that has room and for which no event is held or lost, and nobody when it names
none. -/
def Obligations.TrapEntry : Prop :=
  (∀ (s : State) (c : Cause) (v : Word) (i : Tid), i.tile < 1024 →
    let s0 := landAll s i
    let th := thr s0 i
    let hyp := th.priv == 2 || (c == .prot && th.pfcause.toNat == 11)
    let t := trapThread s i c v
    let u := thr t i
    let first := setThr s0 i { th with
      tcause := BitVec.ofNat 8 c.code, tval := v, tpc := th.pc, st := .trapped none,
      repBody := none, lvq := [] }
    let again := setThr s0 i { th with st := .trapped none, repBody := none, lvq := [] }
    (th.inh = false → (trapVector s0 i hyp).en = true →
      u.tcause = BitVec.ofNat 8 c.code ∧ u.tval = v ∧ u.tpc = th.pc ∧ u.ppriv = th.priv
      ∧ u.inh = true ∧ u.priv = (if hyp then 2 else max th.priv 1)
      ∧ u.pc = BitVec.ofNat 64 (4 * (trapVector s0 i hyp).handler) ∧ u.st = .trapped (some 0)
      ∧ u.x = th.x ∧ u.fflags = th.fflags ∧ u.frm = th.frm ∧ u.repidx = th.repidx
      ∧ t = setThr s0 i u)
    ∧ (th.inh = false → (trapVector s0 i hyp).en = false →
      (th.shadow = true → t = first)
      ∧ (th.shadow = false →
        t = raiseSup first i.tile th.troupe 0x01 (i.slot * 2 ^ 32 + c.code)))
    ∧ (th.inh = true →
      (th.shadow = true → t = again)
      ∧ (th.shadow = false →
        t = raiseSup again i.tile th.troupe 0x01 (i.slot * 2 ^ 32 + 256 + c.code))))
  ∧ (∀ (s : State) (t troupe kind detail : Nat),
    let tv := (smGet Troupe.zero (tile s t).troupes troupe).tvec.toNat
    let j : Tid := ⟨t, field tv 60 52⟩
    (bitOf tv 63 = true → mailLive s j = true → (thr s j).troupe = troupe →
      (thr s j).mailbox.length < 8 → (∀ h ∈ (tile s t).heldEvents, h.1 ≠ j) →
      j.slot ∉ (tile s t).loss → raiseSup s t troupe kind detail
        = mailPut s j (BitVec.ofNat 64 (kind * 2 ^ 56 + detail % 2 ^ 55)))
    ∧ (bitOf tv 63 = false ∨ mailLive s j = false ∨ (thr s j).troupe ≠ troupe →
      raiseSup s t troupe kind detail = s))

/-- trap and break enter the handler, tret returns from it. trap takes SWTRAP with TVAL its 9-bit
code, and break takes BREAK with TVAL 0, each with the pc of the word saved and delivered at the
next rotation boundary. With INH set, tret makes TPC the pc, clears INH and lowers the privilege to
PPRIV, never above its own, and the next instruction issues by the STL of tret; without INH it traps
ILLEGAL with TVAL the word. None of the three is a body of REP, and a word of them with a field set
that must be zero is no instruction. -/
def Obligations.TrapWordsTakeTheirTrap : Prop :=
  (∀ (s : State) (stl : BitVec 3) (code : BitVec 9), Clear {} s →
    let s0 := landed s
    let th := me s0
    exec (.trap stl code) s = .next (trapThread s0 s.cur .swtrap (code.setWidth 64))
    ∧ exec (.brk stl) s = .next (trapThread s0 s.cur .brk 0)
    ∧ (th.inh = false → (trapVector (landAll s0 s.cur) s.cur (th.priv == 2)).en = true →
      (∀ t, exec (.trap stl code) s = .next t → (thr t s.cur).tpc = th.pc
        ∧ (thr t s.cur).tval = code.setWidth 64 ∧ (thr t s.cur).st = .trapped (some 0))
      ∧ (∀ t, exec (.brk stl) s = .next t → (thr t s.cur).tpc = th.pc
        ∧ (thr t s.cur).tval = 0 ∧ (thr t s.cur).st = .trapped (some 0)))
    ∧ (th.inh = true → exec (.tret stl) s = .next (setThr s0 s.cur
        { th with priv := min th.ppriv th.priv, inh := false, pc := th.tpc, repBody := none,
                  instret := th.instret + 1, again := none, st := .issued (nextFrom s0 stl) }))
    ∧ (th.inh = false →
        exec (.tret stl) s = .next (trapThread s0 s.cur .illegal (s.ir.setWidth 64))))
  ∧ (∀ (stl : BitVec 3) (code : BitVec 9) (w : IWord) (st : BitVec 5),
    decode w = .ok (.trap stl code) ∨ decode w = .ok (.brk stl) ∨ decode w = .ok (.tret stl) →
    repBodyOk w st = false)
  ∧ (∀ (stl : BitVec 3) (rd ra : BitVec 5) (csr : BitVec 9) (fn : BitVec 4),
    let w : IWord := 0x2F#6 ++ stl ++ rd ++ ra ++ fn ++ csr
    (fn = 4 → (rd ≠ 0 ∨ ra ≠ 0) → ∃ e, decode w = .error e)
    ∧ ((fn = 5 ∨ fn = 6) → (rd ≠ 0 ∨ ra ≠ 0 ∨ csr ≠ 0) → ∃ e, decode w = .error e))

/-- Each ALU and immediate word leaves the result of its row. Each ALU word (add, sub, and, or, xor,
andn, orn, sll, srl, sra, rol, ror, slt, sltu, seq, sne, min, max, minu, maxu, clz, ctz, popc,
bswap, sextb, sexth, sextw, zextw) and each of addi, andi, ori, xori, slti, sltiu, slli, srli, srai,
rori, lui and auipc that passes its decode checks completes: x[rd] holds the result of R158 to R160
with its residue, x0 discards it, the pc passes the word, INSTRET counts it, and nothing else
changes. -/
def Obligations.AluResults : Prop :=
  IntHolds aluTable ∧ IntHolds immTable

/-- Multiplication and division leave the result of their row. mul, mulh, mulhu and mulhsu give the
low or high half of the exact product after 20 cycles; div, divu, rem and remu give the saturated
quotient or the remainder after 72; a result that the stall count does not cover is pending until
its cycle; nothing else changes. -/
def Obligations.MulDivResults : Prop :=
  IntHolds mulDivTable

/-- The predicted residue of a sum, difference or product is that of its value. When both operands'
residues are those of their values, the residue predicted for a + b, a - b and the low half of a × b
is the residue of the 64-bit result. -/
def Obligations.PredictedResiduesAreRight : Prop :=
  ∀ a b : Word, resAdd a b (residue a) (residue b) = residue (a + b)
    ∧ resSub a b (residue a) (residue b) = residue (a - b)
    ∧ resMul a b (residue a) (residue b) = residue (a * b)

/-- Each floating-point word leaves the result of its row and accrues its flags. fadd, fsub, fmul,
fdiv, fsqrt, ffma, ffms (the exact result rounded once by FRM.RMODE), fmin, fmax, feq, flt, fle,
fclass, fsgnj, fsgnjn, fsgnjx and the conversions fcvt.i, fcvt.iu, fcvt.f, fcvt.fu and fcvt.p
complete with their result in x[rd] at its latency, FFLAGS ORed with the flags raised and the
generator stepped where a stochastic rounding drew, when no raised flag's trap is enabled; nothing
else changes. That the flags accrue at the issue and not with the result is the model's reading of
R152 and R157 (log 32, DEDUCED), and so is what draws nothing from the generator (log 12, DEDUCED).
-/
def Obligations.FpResults : Prop :=
  ∀ (s : State) (i : Instr) (r : FpRow), fpTable (landed s) i = some r →
    Clear (r.chk (landed s)) s → traps (r.res (theMode (landed s))).fl (me (landed s)) = false →
    let f := r.res (theMode (landed s))
    exec i s = .next (went r.stl (onMe (landed s) fun th => withX (landed s) r.stl r.lat true r.rd
      (BitVec.ofNat 64 f.bits) (residue (BitVec.ofNat 64 f.bits)) (withFp f th)))

/-- A raised flag whose trap is enabled traps FP and nothing is written. A floating-point word that
raises a flag whose FFLAGS.TE bit is 1 traps FP with the raised set in TVAL; it writes no register,
accrues no flag and steps no generator. -/
def Obligations.FpFlagTraps : Prop :=
  ∀ (s : State) (i : Instr) (r : FpRow), fpTable (landed s) i = some r →
    Clear (r.chk (landed s)) s → traps (r.res (theMode (landed s))).fl (me (landed s)) = true →
    exec i s = .next (trapThread (landed s) s.cur .fp
      ((r.res (theMode (landed s))).fl.setWidth 64))

/-- Each pointer word leaves the result of its row. psub, ptag, pfmt and pspc give the words of R162
and pchk the code of check; padd and paddi move the offset by a signed amount when it stays within
52 bits, and otherwise trap PTR_OVF (0x08) with TVAL the pointer, where x[rd] and every other
register keep their value. -/
def Obligations.PointerResults : Prop :=
  IntHolds ptrTable
  ∧ (∀ (s : State) (i : Instr) (stl : BitVec 3) (xs : List (BitVec 5)) (rd : BitVec 5) (p : Word)
      (q : Int), paddTable (landed s) i = some (stl, xs, rd, p, q) → Clear { xs := xs } s →
      let o := (pOff p : Int) + q
      (0 ≤ o → o < 2 ^ 52 →
        exec i s = .next (went stl (giveX stl 4 rd (pWith p o.toNat) (landed s))))
      ∧ (o < 0 ∨ 2 ^ 52 ≤ o → exec i s = .next (trapThread (landed s) s.cur .ptrOvf p)
        ∧ (thr (trapThread (landed s) s.cur .ptrOvf p) s.cur).x = (me (landAll (landed s) s.cur)).x))
  ∧ Cause.ptrOvf.code = 0x08

/-- A branch goes to its target when its condition holds, else past itself. beq, bne, blt, bge, bltu
and bgeu: when the comparison holds, the pc becomes pc + 4 × OFF13, or ADDR is trapped with TVAL the
target and TPC the branch when it leaves 52 bits; otherwise the pc passes the word. Nothing but pc,
INSTRET and the stall count changes, and the next instruction may issue by the STL. A register
beyond the mode traps REG, and a branch is no body of REP. -/
def Obligations.BranchesGoOrPass : Prop :=
  (∀ (s : State) (i : Instr) (stl : BitVec 3) (ra rb : BitVec 5) (taken : Bool) (off : BitVec 13),
    branchTable (landed s) i = some (stl, ra, rb, taken, off) → Clear { xs := [ra, rb] } s →
    let goal := wordsFrom (me (landed s)).pc off.toInt
    (taken = false → exec i s = .next (went stl (landed s)))
    ∧ (taken = true → goal.toNat < 2 ^ 52 → exec i s = .next (wentTo stl goal (landed s)))
    ∧ (taken = true → 2 ^ 52 ≤ goal.toNat →
        exec i s = .next (trapThread (landed s) s.cur .addr goal)))
  ∧ (∀ (s : State) (i : Instr) (stl : BitVec 3) (ra rb : BitVec 5) (taken : Bool) (off : BitVec 13),
    branchTable (landed s) i = some (stl, ra, rb, taken, off) → s.cur.tile < 1024 →
    (me (landed s)).leader = false → (me (landed s)).repBody = none →
    (tile (landed s) s.cur.tile).wide = false → (16 ≤ ra.toNat ∨ 16 ≤ rb.toNat) →
    exec i s = .next (trapThread (landed s) s.cur .reg (s.ir.setWidth 64)))
  ∧ (∀ (s : State) (i : Instr) (r : BitVec 3 × BitVec 5 × BitVec 5 × Bool × BitVec 13) (w : IWord)
      (st : BitVec 5), branchTable s i = some r → decode w = .ok i → repBodyOk w st = false)

/-- j, jal and jalr go to their target and link. j, jal and jalr make the target the pc; jal writes
pc + 4 to x1 and jalr to x[rd], whose x[ra] was read before; x0 discards the link; a target beyond
52 bits traps ADDR with TVAL the target and writes nothing. -/
def Obligations.JumpsGoAndLink : Prop :=
  ∀ (s : State) (i : Instr) (stl : BitVec 3) (c : Chk) (goal : Word) (rd : BitVec 5),
    jumpTable (landed s) i = some (stl, c, goal, rd) → Clear c s →
    (goal.toNat < 2 ^ 52 →
      exec i s = .next (wentTo stl goal (giveX stl 4 rd ((me (landed s)).pc + 4) (landed s))))
    ∧ (2 ^ 52 ≤ goal.toNat → exec i s = .next (trapThread (landed s) s.cur .addr goal))

/-- A load reads the bytes at its effective address. lb, lbu, lh, lhu, lw, lwu, ld and the indexed
lbx, lbux, lhx, lhux, lwx, lwux and ldx: when the effective address fits, is aligned and reaches the
scratchpad of the thread's tile at o, and no word read is uncorrectable, x[rd] holds the little-
endian bytes there, sign- or zero-extended, after 12 cycles, read after the thread's own earlier
stores to that scratchpad; an uncorrectable word parks the thread with source 1. The parking is that
of R313 and R314, and the charge of UEOWN at the read is the model's reading of R280 (log 36,
DEDUCED). -/
def Obligations.LoadsReadOwnScratchpad : Prop :=
  ∀ (s : State) (i : Instr) (r : MemRow) (o : Nat), loadTable (landed s) i = some r →
    Clear r.chk s → r.fits → threadTarget (landed s) s.cur r.ea r.size = .ok (.here o) →
    let s1 := hereAt o r.size (landed s)
    ((spadRead s1 s.cur.tile o r.size).2 = false →
      exec i s = .next (went r.stl (giveX r.stl 12 r.rd
        (r.value (readLE (tile s1 s.cur.tile).spad o r.size)) s1)))
    ∧ ((spadRead s1 s.cur.tile o r.size).2 = true →
      exec i s = .next (parkThread (chargeSram s1 s.cur.tile 3) s.cur 1))

/-- A load or store of another place or of global memory is sent. The loads where the address
reaches the scratchpad of another tile or a shared memory send one load to that place, and where it
reaches global memory one global load; the thread waits for the reply. The stores: at another place
the bytes are posted when fewer than 64 of the tile are outstanding, and the thread goes on, and
otherwise it waits; to global memory they enter the tile's write buffer when its pages have been
probed, and the thread remembers their units for its fences, or traps PHASE_LOG_FULL when the buffer
and the log have no room; with a page not probed the probe is sent and the thread waits. Of both, an
offset outside 52 bits traps ADDR, a misaligned one MISALIGN, and a pointer that reaches nothing its
cause, each with TVAL the effective address. The effective address of an offset outside 52 bits is
the pointer with its offset modulo 2^52, the model's reading (log 7, DEDUCED). -/
def Obligations.AccessesElsewhereAreSent : Prop :=
  (∀ (s : State) (i : Instr) (r : MemRow), loadTable (landed s) i = some r → Clear r.chk s →
    let s0 := landed s
    let wait := Wait.load r.rd.toNat r.size r.signed r.ea
    (r.fits → ∀ pl o, threadTarget s0 s.cur r.ea r.size = .ok (.far pl o) →
      exec i s = .next (slept r.stl wait
        (send s0 s.cur pl (.port pl o (.load r.size) (ltileOf s0 (me s0).home) none))))
    ∧ (r.fits → ∀ o, threadTarget s0 s.cur r.ea r.size = .ok (.glob o) →
      exec i s = .next (slept r.stl wait (globalLoad s0 o r.size)))
    ∧ (r.fits → ∀ c, threadTarget s0 s.cur r.ea r.size = .error c →
      exec i s = .next (trapThread s0 s.cur c r.ea))
    ∧ (r.off < 0 ∨ 2 ^ 52 ≤ r.off →
      exec i s = .next (trapThread s0 s.cur .addr (pWith r.ptr (r.off % 2 ^ 52).toNat)))
    ∧ (0 ≤ r.off → r.off < 2 ^ 52 → r.off.toNat % r.size ≠ 0 →
      exec i s = .next (trapThread s0 s.cur .misalign r.ea)))
  ∧ (∀ (s : State) (i : Instr) (r : MemRow), storeTable (landed s) i = some r → Clear r.chk s →
    let s0 := landed s
    let v := (rx s0 r.rd).toNat
    let known := (spanPages (pOff r.ea) r.size).all fun o =>
      (tile s0 s.cur.tile).probed.contains (pageKey (me s0).asid o)
    (r.fits → ∀ pl o, threadTarget s0 s.cur r.ea r.size = .ok (.far pl o) →
      ((tile s0 s.cur.tile).posted < 64 → exec i s = .next (went r.stl (onMe
        (updTile (send s0 s.cur pl (.port pl o (.store (natBytes r.size v))
            (ltileOf s0 (me s0).home) (some (s.cur.tile, r.ea)))) s.cur.tile
          fun tl => { tl with posted := tl.posted + 1 })
        fun th => { th with postedW := th.postedW + 1 })))
      ∧ (64 ≤ (tile s0 s.cur.tile).posted → exec i s = .next (slept r.stl .retry s0)))
    ∧ (r.fits → threadTarget s0 s.cur r.ea r.size = .ok (.glob (pOff r.ea)) → known = true →
      (∀ t, storeSpan s0 s.cur.tile (me s0).asid (pOff r.ea) r.size v = some t →
        exec i s = .next (went r.stl (noteStores t t.cur (unitKeys (me s0).asid (pOff r.ea) r.size))))
      ∧ (storeSpan s0 s.cur.tile (me s0).asid (pOff r.ea) r.size v = none →
        exec i s = .next (trapThread s0 s.cur .phaseLogFull r.ea)))
    ∧ (r.fits → threadTarget s0 s.cur r.ea r.size = .ok (.glob (pOff r.ea)) → known = false →
      exec i s = .next (slept r.stl (.probe r.ea (natBytes r.size v) [])
        (send s0 s.cur 0 (.probe (pOff r.ea) r.size (me s0).asid (me s0).priv))))
    ∧ (r.fits → ∀ c, threadTarget s0 s.cur r.ea r.size = .error c →
      exec i s = .next (trapThread s0 s.cur c r.ea))
    ∧ (r.off < 0 ∨ 2 ^ 52 ≤ r.off →
      exec i s = .next (trapThread s0 s.cur .addr (pWith r.ptr (r.off % 2 ^ 52).toNat)))
    ∧ (0 ≤ r.off → r.off < 2 ^ 52 → r.off.toNat % r.size ≠ 0 →
      exec i s = .next (trapThread s0 s.cur .misalign r.ea)))

/-- A store writes its bytes at its effective address. sb, sh, sw, sd, sbx, shx, swx and sdx: when
the effective address fits, is aligned and reaches the scratchpad of the thread's tile at o, the low
bytes of x[rd] stand there little-endian in the next state, over the thread's own earlier stores to
that scratchpad, the write is traced where TRCTL.LOCAL asks, and the instruction is complete. -/
def Obligations.StoresWriteOwnScratchpad : Prop :=
  ∀ (s : State) (i : Instr) (r : MemRow) (o : Nat), storeTable (landed s) i = some r →
    Clear r.chk s → r.fits → threadTarget (landed s) s.cur r.ea r.size = .ok (.here o) →
    exec i s = .next (went r.stl (ownStore (hereAt o r.size (landed s)) 4 o r.size
      (rx (landed s) r.rd).toNat))
    ∧ ((tile (hereAt o r.size (landed s)) s.cur.tile).spad.wf = true →
      ∃ t, exec i s = .next t ∧ ∀ k < r.size, memRead (tile t s.cur.tile).spad (o + k)
        = BitVec.ofNat 8 ((rx (landed s) r.rd).toNat / 256 ^ k))

/-- A store changes no byte but those at its effective address. For sb, sh, sw, sd, sbx, shx, swx
and sdx, clear of traps: when the address computed from the operands reaches the own scratchpad at
o, every byte of every scratchpad outside the size bytes from o is as the thread's own earlier
stores to it have left it, and all of HBM4E, the slices' lines, the shared memories, the write
buffer, log and view of every tile, every other thread, and every register and flag of the thread
are as before. When it reaches another place, or global memory with two units of room in the write
buffer, no byte of any scratchpad, shared memory or of HBM4E, no other thread and no register of the
thread changes at the issue; of global memory the log of every tile and the write buffers and views
of the other tiles stay too. -/
def Obligations.StoreFrame : Prop :=
  ∀ (s t : State) (i : Instr) (r : MemRow), storeTable (landed s) i = some r → Clear r.chk s →
    r.fits → exec i s = .next t →
    let rest := t.hbm = s.hbm ∧ t.lines = s.lines ∧ (∀ c, (cluster t c).shm = (cluster s c).shm)
      ∧ (∀ n, getXR (me t) n = getXR (me (landed s)) n)
      ∧ (me t).fflags = (me s).fflags ∧ (me t).frm = (me s).frm ∧ (me t).lfsr = (me s).lfsr
      ∧ (∀ j, j ≠ s.cur → thr t j = thr s j)
    let buffers := fun k => (tile t k).wbuf = (tile s k).wbuf ∧ (tile t k).plog = (tile s k).plog
      ∧ (tile t k).view = (tile s k).view
    (∀ o, threadTarget (landed s) s.cur r.ea r.size = .ok (.here o) →
      rest ∧ (∀ k, buffers k)
      ∧ ∀ k a, k ≠ s.cur.tile ∨ a < o ∨ o + r.size ≤ a →
          memRead (tile t k).spad a = memRead (tile (landOwn (landed s)) k).spad a)
    ∧ (∀ pl o, threadTarget (landed s) s.cur r.ea r.size = .ok (.far pl o) →
      rest ∧ (∀ k, buffers k) ∧ ∀ k, (tile t k).spad = (tile s k).spad)
    ∧ (∀ o, threadTarget (landed s) s.cur r.ea r.size = .ok (.glob o) →
      (tile s s.cur.tile).wbuf.length + (tile s s.cur.tile).view.length + 2 ≤ 1024 →
      rest ∧ (∀ k, k ≠ s.cur.tile → buffers k) ∧ (∀ k, (tile t k).plog = (tile s k).plog)
      ∧ ∀ k, (tile t k).spad = (tile s k).spad)

/-- An atomic replaces the old value and returns it, or is sent. amoadd, amoand, amoor, amoxor,
amomin, amomax, amominu, amomaxu, amoswap, amocas, amofadd, amofadd.bf, amofmin, amofmax and amold
on the scratchpad of the thread's tile: the bytes at x[ra], as the thread's own earlier stores have
left them, take the new value of R137 where it writes one, and x[rd] holds the old value, sign-
extended for .w; an uncorrectable word parks the thread with source 1 and nothing is written. At
another place or on global memory they send one atomic with its operands there, and the thread waits
for the old value; a misaligned address traps MISALIGN with TVAL the pointer. The parking is that of
R313 and R314, and the charge of UEOWN at the read is the model's reading of R280 (log 36, DEDUCED).
-/
def Obligations.AtomicsReplaceAndReturn : Prop :=
  (∀ (s : State) (i : Instr) (r : AmoRow) (o : Nat), amoTable (landed s) i = some r →
    Clear r.chk s → pOff r.ptr % r.size = 0 →
    threadTarget (landed s) s.cur r.ptr r.size = .ok (.here o) →
    let s0 := hereAt o r.size (landed s)
    let old := readLE (tile s0 s.cur.tile).spad o r.size
    let s1 := match amoWrites r.op r.size old r.b.toNat r.c.toNat with
      | some v => ownStore s0 5 o r.size v
      | none => s0
    ((spadRead s0 s.cur.tile o r.size).2 = false →
      exec i s = .next (went r.stl (giveX r.stl 16 r.rd
        (if r.size = 4 then BitVec.ofInt 64 (Int.bmod old (2 ^ 32)) else BitVec.ofNat 64 old) s1)))
    ∧ ((spadRead s0 s.cur.tile o r.size).2 = true →
      exec i s = .next (parkThread (chargeSram s0 s.cur.tile 3) s.cur 1)))
  ∧ (∀ (s : State) (i : Instr) (r : AmoRow), amoTable (landed s) i = some r → Clear r.chk s →
    let s0 := landed s
    let wait := Wait.amo r.rd.toNat r.size r.ptr
    (pOff r.ptr % r.size = 0 →
      (∀ pl o, threadTarget s0 s.cur r.ptr r.size = .ok (.far pl o) →
        exec i s = .next (slept r.stl wait (send s0 s.cur pl
          (.port pl o (.amo r.op r.size r.b r.c) (ltileOf s0 (me s0).home) none))))
      ∧ (∀ o, threadTarget s0 s.cur r.ptr r.size = .ok (.glob o) →
        exec i s = .next (slept r.stl wait (send s0 s.cur 0
          (.gamo o (me s0).asid (me s0).priv r.op r.size r.b r.c none 0)))))
    ∧ (pOff r.ptr % r.size ≠ 0 → exec i s = .next (trapThread s0 s.cur .misalign r.ptr)))

/-- Each VALU and VFN word leaves its lane-wise result. vadd, vsub, vmul, vfma, vfms, vmin, vmax,
vabs, vneg, vand, vor, vxor, vshl, vshr, vsra, vceq, vclt, vcle, vsel, vadds, vsubs, vmov, vdiv and
vmulhi, on window registers or streams whose operands are there: each lane of the destination holds
the operation of R176 on the lanes of the sources, at its latency, FFLAGS takes the flags of all
lanes and the generator steps once per rounded lane. vrcp, vrsq, vsqrt, vexp2, vlog2, vtanh, vsigm,
vcvt, vcvtf, vbscl, vscale and vpack leave the results of R178 to R181 in the same way. That the
flags accrue at the issue (log 32, DEDUCED), and in which order lanes draw and what draws nothing
(log 12, DEDUCED), are the model's readings. -/
def Obligations.VectorLaneResults : Prop :=
  VecHolds valuTable ∧ VecHolds vfnTable

/-- Each reduction, lane move and vmerge leaves its result. vrsum, vrmax and vrmin fold the lanes by
the tree of R35; vperm, vrotx, vbcast, vins and viota move lanes; vmerge merges pairs: on window
registers or streams whose operands are there, each leaves the result of R183 or R188. vext gives
the addressed lane in x[rd], and vunpack the four decoded blocks, or the trap FORMAT with the number
of the first block that does not decode in TVAL and its pops undone. The results rest on log entries
12 (the order of vmerge's draws) and 32. -/
def Obligations.VectorReductionAndMoveResults : Prop :=
  VecHolds vredTable
  ∧ (∀ (s s' : State) (stl : BitVec 3) (rd ra rb : BitVec 5) (et : BitVec 3) (vs : List VWord),
      Clear { xs := [rd, rb], vs := [ra] } s → Operands (landed s) [ra] none vs s' →
      let w := etBits et.toNat
      let lane := (lanes w (vs.getD 0 0)).getD ((rx s' rb).toNat % (4096 / w)) 0
      exec (.vext stl rd ra rb et) s = .next (went stl (lookAgain [ra]
        (giveX stl 8 rd (if et.toNat < 4 then BitVec.ofInt 64 (sgn w lane) else BitVec.ofNat 64 lane)
          s'))))
  ∧ (∀ (s s' : State) (stl : BitVec 3) (rd ra : BitVec 5) (vs : List VWord) (els scs : List Nat)
      (pos : Nat), Clear { vs := [rd, ra] } s → Operands (landed s) [ra] (some rd) vs s' →
      vunpackFrom (lanes 8 (vs.getD 0 0)) 4 0 0 = .ok (els, scs, pos) →
      exec (.vunpack stl rd ra) s = .next (went stl (lookAgain [ra, rd]
        (putVec stl 32 rd (ofLanes 8 (els ++ scs ++ List.replicate 379 0 ++ [pos])) s'))))
  ∧ (∀ (s s' : State) (stl : BitVec 3) (rd ra : BitVec 5) (vs : List VWord) (b : Nat),
      Clear { vs := [rd, ra] } s → Operands (landed s) [ra] (some rd) vs s' →
      vunpackFrom (lanes 8 (vs.getD 0 0)) 4 0 0 = .error b →
      exec (.vunpack stl rd ra) s = .next (trapThread (backOut [ra, rd] (landed s) s') s.cur .format
        (BitVec.ofNat 64 b)))

/-- vld, vst and the gathers and scatters move vectors. vld and vst of PART: the effective address
is the pointer plus 64 times OFF10 plus the repetition's number times the size; at the own
scratchpad vld gives the zero-extended bytes, or an uncorrectable word parks the thread and is
charged (log 36), and vst writes the low bytes of vD, both after the thread's own earlier stores;
elsewhere vld is sent and the thread waits, and vst is posted, waits while 64 are outstanding, or to
global memory enters the write buffer or probes its page first, with its pops put off. Of both, an
offset outside 52 bits traps ADDR, with TVAL that offset modulo 2^52 (the model's choice, log 7),
one that is no multiple of 64 MISALIGN, and a pointer that reaches nothing its cause; a trap pops
nothing. vldx.w, vldx.d, vstx.w and vstx.d take an
index per lane into the home scratchpad: on its home tile the thread waits, from the cycle of the
issue on, for the units of its elements, and a displaced one sends them to the home scratchpad's
port. A unit's elements move together, each read word kept for its lane and each written one written
in ascending lane order, and after the last unit a gather completes with the vector of its words, a
scatter without a result, and an uncorrectable word parks the thread. A base outside space 0b10
traps ADDR and a misaligned one MISALIGN, with TVAL the base, and the lowest lane whose element does
not fit the scratchpad ADDR, with TVAL its pointer. -/
def Obligations.VectorLoadsAndStores : Prop :=
  (∀ (s s' : State) (stl : BitVec 3) (rd ra : BitVec 5) (pt : BitVec 3) (off : BitVec 10)
      (vs : List VWord),
    let s0 := landed s
    let o := vecOffset s0 ra pt off
    let ea := pWith (rx s0 ra) o.toNat
    let sz : Nat := 512 / 2 ^ pt.toNat
    let c : Chk := { ok := partOk pt, xs := [ra], vs := [rd], res := [(ra, 0)], kind := 0 }
    Clear c s →
    (Operands s0 [] (some rd) [] s0 → 0 ≤ o → o + sz ≤ 2 ^ 52 → o % 64 = 0 →
      (∀ a, threadTarget s0 s.cur ea sz = .ok (.here a) →
        let s1 := hereAt a sz s0
        (spadRead s1 s.cur.tile a sz).2 = false →
        exec (.vld stl rd ra pt off) s = .next (went stl (lookAgain [rd]
          (putVec stl 16 rd (BitVec.ofNat 4096 (readLE (tile s1 s.cur.tile).spad a sz)) s1))))
      ∧ (∀ a, threadTarget s0 s.cur ea sz = .ok (.here a) →
        let s1 := hereAt a sz s0
        (spadRead s1 s.cur.tile a sz).2 = true →
        exec (.vld stl rd ra pt off) s = .next (parkThread (chargeSram s1 s.cur.tile 3) s.cur 1))
      ∧ (∀ pl a, threadTarget s0 s.cur ea sz = .ok (.far pl a) →
        exec (.vld stl rd ra pt off) s = .next (slept stl (.vload rd.toNat sz ea) (lookAgain [rd]
          (send s0 s.cur pl (.port pl a (.load sz) (ltileOf s0 (me s0).home) none)))))
      ∧ (∀ a, threadTarget s0 s.cur ea sz = .ok (.glob a) →
        exec (.vld stl rd ra pt off) s = .next (slept stl (.vload rd.toNat sz ea) (lookAgain [rd]
          (globalLoad s0 a sz)))))
    ∧ (let trap := fun (c : Cause) (v : Word) => exec (.vld stl rd ra pt off) s
        = .next (trapThread (backOut [rd] s0 s0) s.cur c v)
      Operands s0 [] (some rd) [] s0 →
      (o < 0 ∨ 2 ^ 52 < o + sz → trap .addr (pWith (rx s0 ra) (o % 2 ^ 52).toNat))
      ∧ (0 ≤ o → o + sz ≤ 2 ^ 52 → o % 64 ≠ 0 → trap .misalign ea)
      ∧ (0 ≤ o → o + sz ≤ 2 ^ 52 → o % 64 = 0 →
        ∀ k, threadTarget s0 s.cur ea sz = .error k → trap k ea))
    ∧ (let v := (vs.getD 0 0).toNat % 2 ^ (8 * sz)
      let asid := (me s').asid
      let known := fun (a : Nat) => (spanPages a sz).all fun p =>
        (tile s' s.cur.tile).probed.contains (pageKey asid p)
      Operands s0 [rd] none vs s' → 0 ≤ o → o + sz ≤ 2 ^ 52 → o % 64 = 0 →
      (∀ a, threadTarget s' s.cur ea sz = .ok (.here a) → exec (.vst stl rd ra pt off) s
        = .next (went stl (lookAgain [rd] (ownStore (hereAt a sz s') 4 a sz v))))
      ∧ (∀ pl a, threadTarget s' s.cur ea sz = .ok (.far pl a) →
        ((tile s' s.cur.tile).posted < 64 → exec (.vst stl rd ra pt off) s
          = .next (went stl (lookAgain [rd] (onMe (updTile (send s' s.cur pl
              (.port pl a (.store (natBytes sz v)) (ltileOf s' (me s').home)
                (some (s.cur.tile, ea)))) s.cur.tile fun tl => { tl with posted := tl.posted + 1 })
            fun th => { th with postedW := th.postedW + 1 }))))
        ∧ (64 ≤ (tile s' s.cur.tile).posted →
          exec (.vst stl rd ra pt off) s = .next (slept stl .retry (backOut [rd] s0 s'))))
      ∧ (∀ a, threadTarget s' s.cur ea sz = .ok (.glob a) →
        (known a = true → ∀ t, storeSpan s' s.cur.tile asid a sz v = some t →
          exec (.vst stl rd ra pt off) s
            = .next (went stl (lookAgain [rd] (noteStores t t.cur (unitKeys asid a sz)))))
        ∧ (known a = true → storeSpan s' s.cur.tile asid a sz v = none →
          exec (.vst stl rd ra pt off) s
            = .next (trapThread (backOut [rd] s0 s') s.cur .phaseLogFull ea))
        ∧ (known a = false → exec (.vst stl rd ra pt off) s = .next (slept stl
          (.probe ea (natBytes sz v) (if isStream rd then [rd.toNat - 24] else []))
          (backOut [rd] s0 (send s' s.cur 0 (.probe a sz asid (me s').priv)))))))
    ∧ (let trap := fun (c : Cause) (v : Word) => exec (.vst stl rd ra pt off) s
        = .next (trapThread (backOut [rd] s0 s') s.cur c v)
      Operands s0 [rd] none vs s' →
      (o < 0 ∨ 2 ^ 52 < o + sz → trap .addr (pWith (rx s0 ra) (o % 2 ^ 52).toNat))
      ∧ (0 ≤ o → o + sz ≤ 2 ^ 52 → o % 64 ≠ 0 → trap .misalign ea)
      ∧ (0 ≤ o → o + sz ≤ 2 ^ 52 → o % 64 = 0 →
        ∀ k, threadTarget s' s.cur ea sz = .error k → trap k ea)))
  ∧ (∀ (s s' : State) (stl : BitVec 3) (rd ra rb : BitVec 5) (vs : List VWord) (sz : Nat)
      (i j : Instr), (sz = 4 ∧ i = .vldxW stl rd ra rb ∧ j = .vstxW stl rd ra rb)
        ∨ (sz = 8 ∧ i = .vldxD stl rd ra rb ∧ j = .vstxD stl rd ra rb) →
    let b := rx (landed s) ra
    let os := (lanes (8 * sz) (vs.getD 0 0)).map fun k => pOff b + k * sz
    let home := (me s').home
    let op := fun (write : Bool) (v : VWord) =>
      ({ sz := sz, write := write, els := (List.range os.length).zip os, v := v, got := [],
         bad := false } : GatherOp)
    let sent := fun (op : GatherOp) => lookAgain [rb, rd] (send s' s.cur home
      (.port home 0 (.gather op) (ltileOf s' home) none))
    let ends := fun (k : Instr) (c : Cause) (v : Word) => exec k s
      = .next (trapThread (backOut [rb, rd] (landed s) s') s.cur c v)
    let traps := fun (k : Instr) => (pSpace b ≠ 2 → ends k .addr b)
      ∧ (pSpace b = 2 → pOff b % sz ≠ 0 → ends k .misalign b)
      ∧ (pSpace b = 2 → pOff b % sz = 0 → ∀ pre o post, os = pre ++ o :: post →
        (∀ x ∈ pre, x + sz ≤ spadSize) → spadSize < o + sz → ends k .addr (pWith b o))
    Clear { xs := [ra], vs := [rd, rb], res := [(ra, 0)], kind := 0 } s →
    (Operands (landed s) [rb] (some rd) vs s' → traps i)
    ∧ (Operands (landed s) [rb, rd] none vs s' → traps j)
    ∧ (pSpace b = 2 → pOff b % sz = 0 → (∀ o ∈ os, o + sz ≤ spadSize) →
    (Operands (landed s) [rb] (some rd) vs s' →
      (home = s.cur.tile → exec i s = .next (slept stl
        (.gather (some rd.toNat) (op false 0) s'.cycle) (lookAgain [rb, rd] (landOwn s'))))
      ∧ (home ≠ s.cur.tile →
        exec i s = .next (slept stl (.vector rd.toNat) (sent (op false 0)))))
    ∧ (Operands (landed s) [rb, rd] none vs s' →
      (home = s.cur.tile → exec j s = .next (slept stl
        (.gather none (op true (vs.getD 1 0)) s'.cycle) (lookAgain [rb, rd] (landOwn s'))))
      ∧ (home ≠ s.cur.tile →
        exec j s = .next (slept stl .done (sent (op true (vs.getD 1 0))))))))
  ∧ (∀ (s : State) (place u : Nat) (put : State → Nat → Nat → State) (op : GatherOp),
    let r := gatherMove place u put op s
    let mine := op.els.filter fun e => e.2 / 64 == u
    r.2.els = op.els.filter (fun e => e.2 / 64 != u)
    ∧ (op.write = true → r.1 = mine.foldl (fun s e => put s e.2
        (op.v.toNat / 2 ^ (8 * op.sz * e.1) % 2 ^ (8 * op.sz))) s)
    ∧ (op.write = false → r.1 = s ∧ ((mine.map (·.1)).Nodup →
        ∀ e ∈ mine, smGet 0 r.2.got e.1 = (placeRead s place e.2 op.sz).1)))
  ∧ (∀ (s : State) (i : Tid) (vd : Option Nat) (op : GatherOp) (at_ : Nat),
    (thr s i).wait? = some (.gather vd op at_) →
    (op.bad = true → gatherEnd s i = parkThread (chargeSram s i.tile 3) i 1)
    ∧ (op.bad = false → vd = none → gatherEnd s i = complete s i id)
    ∧ (∀ d, op.bad = false → vd = some d →
      gatherEnd s i = complete (vecLand s i d (BitVec.ofNat 4096 op.value)) i id))

/-- pmx, pmsend and pmrecv join, send and take vectors. With a valid group word, reachable
participants, fewer than four groups waiting on the tile and none of its KEY, pmx of participant 0
sends its vector to participant 1 and waits, and any other waits for the contribution; with four
groups, or one of its KEY (log 30), it waits to issue again. pmsend sends its vector to the named
tile and waits; pmrecv takes the oldest vector of its source and KEY, is parked by an uncorrectable
one with source 6, charged at that moment (log 36), or waits for one. Of each, a malformed word
traps ILLEGAL and one that names a tile it cannot reach traps that check's cause, with TVAL the word
(log 7) and no entry popped. -/
def Obligations.PairMergeWords : Prop :=
  (∀ (s s' : State) (stl : BitVec 3) (rd ra rb : BitVec 5) (et : BitVec 1) (vs : List VWord),
    let s0 := landed s
    let g := (rx s' rb).toNat
    let key := field g 31 24
    let n := field g 23 18
    let idx := field g 17 12
    let base := field g 11 0
    let w : Wait := .pmx key base n idx rd.toNat (et == 0)
      (if idx = 0 then none else some (vs.getD 0 0))
    let trap := fun (c : Cause) => exec (.pmx stl rd ra rb et) s
      = .next (trapThread (backOut [ra, rd] s0 s') s.cur c (rx s' rb))
    let right := g < 2 ^ 32 ∧ 2 ≤ n ∧ n ≤ 32 ∧ idx < n ∧ base + idx = ltileOf s' s.cur.tile
    let free := (pmxWaits s' s.cur.tile).length < 4
      ∧ ∀ e ∈ pmxWaits s' s.cur.tile, pmxKey e.2 ≠ some key
    Clear { ok := (frmMode (me s0)).isSome, xs := [rb], vs := [rd, ra] } s →
    Operands s0 [ra] (some rd) vs s' →
    (¬ right → trap .illegal)
    ∧ (right → ∀ c, reachAll s' (myStanding s') (List.range' base n) = some c → trap c)
    ∧ (right → reachAll s' (myStanding s') (List.range' base n) = none →
      (¬ free → exec (.pmx stl rd ra rb et) s = .next (slept stl .retry (backOut [ra, rd] s0 s')))
      ∧ (free → idx ≠ 0 → exec (.pmx stl rd ra rb et) s
        = .next (slept stl w (lookAgain [ra, rd] s')))
      ∧ (free → idx = 0 → ∀ t, reachTile s' (myStanding s') (base + 1) = .ok t →
        exec (.pmx stl rd ra rb et) s = .next (slept stl w (lookAgain [ra, rd]
          (send s' s.cur t (.pmx t key base n 1 (et == 0) false (vs.getD 0 0) false)))))))
  ∧ (∀ (s s' : State) (stl : BitVec 3) (ra rb : BitVec 5) (vs : List VWord),
    let v := rx s' rb
    let trap := fun (c : Cause) => exec (.pmsend stl ra rb) s
      = .next (trapThread (backOut [ra] (landed s) s') s.cur c v)
    Clear { xs := [rb], vs := [ra] } s → Operands (landed s) [ra] none vs s' →
    (v.toNat / 2 ^ 32 ≠ 0 ∨ field v.toNat 23 12 ≠ 0 → trap .illegal)
    ∧ ∀ key l, v.toNat = key * 2 ^ 24 + l → key < 256 → l < 4096 →
      (∀ c, reachTile s' (myStanding s') l = .error c → trap c)
      ∧ (∀ t, reachTile s' (myStanding s') l = .ok t →
        exec (.pmsend stl ra rb) s = .next (slept stl .pmsend (lookAgain [ra]
          (send s' s.cur t (.pmsend t (ltileOf s' s.cur.tile) key (vs.getD 0 0)))))))
  ∧ (∀ (s : State) (stl : BitVec 3) (rd rb : BitVec 5),
    let s0 := landed s
    let v := rx s0 rb
    let trap := fun (c : Cause) => exec (.pmrecv stl rd rb) s
      = .next (trapThread (backOut [rd] s0 s0) s.cur c v)
    Clear { xs := [rb], vs := [rd] } s → Operands s0 [] (some rd) [] s0 →
    (v.toNat / 2 ^ 32 ≠ 0 ∨ field v.toNat 23 12 ≠ 0 → trap .illegal)
    ∧ ∀ key l, v.toNat = key * 2 ^ 24 + l → key < 256 → l < 4096 →
      (∀ c, reachTile s0 (myStanding s0) l = .error c → trap c)
      ∧ (∀ t e, reachTile s0 (myStanding s0) l = .ok t →
        pmFind (tile s0 s.cur.tile) l key = some e →
        let s1 := updTile s0 s.cur.tile fun tl =>
          { tl with pmEntries := pmRemove l key tl.pmEntries }
        (e.bad = false → exec (.pmrecv stl rd rb) s = .next (slept stl (.vector rd.toNat)
          (lookAgain [rd] (send s1 s.cur 0 (.reply e.vec.toNat none none)))))
        ∧ (e.bad = true → exec (.pmrecv stl rd rb) s
          = .next (parkThread (chargeSram s1 s.cur.tile 3) s.cur 6)))
      ∧ (∀ t, reachTile s0 (myStanding s0) l = .ok t →
        pmFind (tile s0 s.cur.tile) l key = none →
        exec (.pmrecv stl rd rb) s
          = .next (slept stl (.pmrecv l key rd.toNat) (lookAgain [rd] s0))))

/-- The tag words look up, install, mark and evict entries. With TAGCFG.EN set: tlook and tdirty
give the hit pointer of the matching slot, tdirty setting its dirty bit, or on a miss the miss code
of the victim; tset installs an entry in a slot of the address's set and moves the set's pointer;
tinv invalidates a match; tvict gives the tag word and clears valid and dirty. A displaced thread
waits for the home tile's reply. An address outside space 0 traps ADDR, one of format 63 in tlook
and tdirty FORMAT, each with TVAL the address; a slot that the table does not have, or in tset one
of another set, traps ADDR with TVAL the operand that names it (the model's choice, log 7). With EN
clear each of the five traps
ILLEGAL. -/
def Obligations.TagTableWords : Prop :=
  ∀ (s : State) (stl : BitVec 3) (rd ra rb : BitVec 5),
    let s0 := landed s
    let tl := homeTile s0
    let c := tagCfg tl.tagcfg
    let p := rx s0 ra
    let far := away s0
    let victim := tagVictim tl c (tagSet c p)
    let k := (rx s0 rb).toNat % 1024
    let k1 := p.toNat % 1024
    let t1 := tagAt tl k1
    let look : Chk := { xs := [rd, ra], res := [(ra, 0)] }
    let set : Chk := { xs := [ra, rb], res := [(ra, 0)] }
    let inv : Chk := { xs := [ra], res := [(ra, 0)] }
    let trap := fun (c : Cause) (v : Word) =>
      Host.Outcome.next (φ := Fault) (ρ := Refusal) (trapThread s0 s.cur c v)
    (Clear look s → c.en = true → pSpace p = 0 → pFmt p ≠ 63 →
      (∀ h, tagFind tl c (mySpace s0) p = some h →
        exec (.tlook stl rd ra) s = .next (valueAt far stl rd (tagHit c p h) s0)
        ∧ exec (.tdirty stl rd ra) s = .next (valueAt far stl rd (tagHit c p h)
            (updHome s0 fun t =>
              { t with tags := smSet t.tags h { tagAt t h with dirty := true } })))
      ∧ (tagFind tl c (mySpace s0) p = none →
        exec (.tlook stl rd ra) s = .next (valueAt far stl rd (tagMiss tl victim) s0)
        ∧ exec (.tdirty stl rd ra) s = .next (valueAt far stl rd (tagMiss tl victim) s0)))
    ∧ (Clear set s → c.en = true → pSpace p = 0 →
      k < 2 ^ (c.slog + c.wlog) → k / 2 ^ c.wlog = tagSet c p →
      exec (.tset stl ra rb) s
        = .next (doneAt far stl (updHome s0 (tagInstall c (mySpace s0) p k))))
    ∧ (Clear inv s → c.en = true → pSpace p = 0 →
      (∀ h, tagFind tl c (mySpace s0) p = some h →
        exec (.tinv stl ra) s = .next (doneAt far stl
          (updHome s0 fun t => { t with tags := smSet t.tags h { tagAt t h with valid := false } })))
      ∧ (tagFind tl c (mySpace s0) p = none → exec (.tinv stl ra) s = .next (doneAt far stl s0)))
    ∧ (Clear look s → c.en = true → k1 < 2 ^ (c.slog + c.wlog) →
      exec (.tvict stl rd ra) s = .next (valueAt far stl rd (tagWord c t1)
        (updHome s0 fun t =>
          { t with tags := smSet t.tags k1 { t1 with valid := false, dirty := false } })))
    ∧ (c.en = true →
      (Clear look s → pSpace p ≠ 0 → exec (.tlook stl rd ra) s = trap .addr p
        ∧ exec (.tdirty stl rd ra) s = trap .addr p)
      ∧ (Clear look s → pSpace p = 0 → pFmt p = 63 → exec (.tlook stl rd ra) s = trap .format p
        ∧ exec (.tdirty stl rd ra) s = trap .format p)
      ∧ (Clear set s → pSpace p ≠ 0 → exec (.tset stl ra rb) s = trap .addr p)
      ∧ (Clear set s → pSpace p = 0 → 2 ^ (c.slog + c.wlog) ≤ k ∨ k / 2 ^ c.wlog ≠ tagSet c p →
        exec (.tset stl ra rb) s = trap .addr (rx s0 rb))
      ∧ (Clear inv s → pSpace p ≠ 0 → exec (.tinv stl ra) s = trap .addr p)
      ∧ (Clear look s → 2 ^ (c.slog + c.wlog) ≤ k1 → exec (.tvict stl rd ra) s = trap .addr p))
    ∧ (c.en = false →
      (Clear look s → exec (.tlook stl rd ra) s = trap .illegal (trapWord s0)
        ∧ exec (.tdirty stl rd ra) s = trap .illegal (trapWord s0)
        ∧ exec (.tvict stl rd ra) s = trap .illegal (trapWord s0))
      ∧ (Clear set s → exec (.tset stl ra rb) s = trap .illegal (trapWord s0))
      ∧ (Clear inv s → exec (.tinv stl ra) s = trap .illegal (trapWord s0)))

/-- fence, phase and ifence wait for what they order. With no posted write (PRED.S), no posted
notification (PRED.N) and no unwritten pushed entry (PRED.C) outstanding and no failure recorded, a
fence performs the accesses it orders and completes, always so when the thread has no global store
that a phase or a gate has still to publish; while it has one that the fence must perform beyond the
tile's own loads, the fence waits for its publication (log 14). Performing leaves on the thread's
tile no store of PRED.S or PRED.A, and on no tile a completed engine write of PRED.C or PRED.M, that
has not reached its bank (log 17, DESIGN CHOICE); toward L it leaves on the thread's tile no unit in
the view, and on the other tiles of the scope none that the thread has stored, for PRED.S, and none
at all for PRED.A, PRED.C or PRED.M (log 14). A phase whose launch has a level of its scope waits
for its group, and a fence or phase with something outstanding waits for it; a recorded failure
traps REMOTE_FAIL with its address and is cleared; a phase whose launch has no such level traps
ILLEGAL; a guest that names scope 4 or 5 sets CLAMPED and acts at partition scope; ifence waits for
its scope's instruction caches. -/
def Obligations.FencesWaitForTheirPaths : Prop :=
  ∀ (s : State) (stl : BitVec 3) (pred succ : BitVec 6) (scope : BitVec 3),
    let s0 := landed s
    let th := me s0
    let quiet := (pathS pred = true → th.postedW = 0) ∧ (pathN pred = true → th.postedN = 0)
      ∧ (pathC pred = true → pushesLeft th = false)
    let clean := (pathS pred = true → th.failW = none) ∧ (pathN pred = true → th.failN = none)
    let guest := th.priv < 2 ∧ 4 ≤ scope.toNat
    let eff := if guest then 3 else scope.toNat
    let s1 := onMe s0 fun th => { th with clamped := th.clamped || decide guest }
    let ws : Wait := .fence (pathS pred) (pathN pred) (pathC pred) false
    let done := fencePerform s1 s.cur pred succ eff
    Clear { ok := scopeOk scope } s →
    (done = none ↔ pathS pred = true ∧ beyondTile succ eff = true ∧ ∃ e ∈ th.gstores, e.2 = false)
    ∧ (quiet → clean → (pathS pred = true → ∀ e ∈ th.gstores, e.2 = true) →
      ∃ t, done = some t ∧ exec (.fence stl pred succ scope) s = .next (went stl t)
        ∧ t.hbm = s.hbm ∧ (pathL succ = false ∨ pred = 0 → t.net = s.net) ∧ (succ = 0 → t = s1))
    ∧ (quiet → clean → ∀ t, done = some t →
      exec (.fence stl pred succ scope) s = .next (went stl t)
      ∧ (succ ≠ 0 →
        (pathS pred = true ∨ pathA pred = true → (tile t s.cur.tile).lag = [])
        ∧ (pathC pred = true → ∀ u, ∀ e ∈ (tile t u).late, ¬ (e.cmd = 0 ∧ e.path = 2))
        ∧ (pathM pred = true → ∀ u, ∀ e ∈ (tile t u).late, ¬ (e.cmd = 0 ∧ e.path = 3)))
      ∧ (pathL succ = true → pred ≠ 0 → (tile t s.cur.tile).view = []
        ∧ ∀ u < 1024, u ≠ s.cur.tile → smFind s.tiles u ≠ none →
          inScope s s.cur.tile eff u = true → ∀ e ∈ (tile t u).view,
          pathA pred = false ∧ pathC pred = false ∧ pathM pred = false
          ∧ (pathS pred = true → ∀ x ∈ th.gstores, x.1 ≠ e.1)))
    ∧ (quiet → clean → done = none → exec (.fence stl pred succ scope) s
        = .next (slept stl (.fence (pathS pred) (pathN pred) (pathC pred) true) s1))
    ∧ (¬ quiet → exec (.fence stl pred succ scope) s = .next (slept stl ws s1))
    ∧ (quiet → ∀ v, fenceFail th pred = some v → exec (.fence stl pred succ scope) s
        = .next (trapThread (onMe s1 (clearFails pred)) s.cur .remoteFail v))
    ∧ (∀ l, phaseLevel s0 th eff = some l →
        (quiet → clean →
          exec (.phase stl pred succ scope) s = .next (slept stl (.phase eff pred succ) s1))
        ∧ (quiet → ∀ v, fenceFail th pred = some v → exec (.phase stl pred succ scope) s
          = .next (trapThread (onMe s1 (clearFails pred)) s.cur .remoteFail v))
        ∧ (¬ quiet → exec (.phase stl pred succ scope) s = .next (slept stl ws s1)))
    ∧ (phaseLevel s0 th eff = none → th.repBody = none → exec (.phase stl pred succ scope) s
        = .next (trapThread s0 s.cur .illegal (s.ir.setWidth 64)))
    ∧ exec (.ifence stl scope) s = .next (slept stl (.ifence eff) s1)

/-- rep makes the word after it its thread's body. rep with COUNT (0 is 64) and rep with a count
register (clamped to 1 to 64, signed): when the word after it is fetched and may be repeated with
this STEP, the thread keeps the body with its stepping, and REPIDX holds the count, ACT = 1 and the
number of the next repetition, 0 unless a repetition was in progress; a word that R55 excludes traps
ILLEGAL. -/
def Obligations.RepTakesUpItsBody : Prop :=
  ∀ (s s1 : State) (w : IWord) (i : Instr) (n : Nat) (xs : List (BitVec 5)) (step : BitVec 3)
      (ssize : BitVec 2),
    let s0 := landed s
    ((∃ count : BitVec 6, i = .rep count step ssize ∧ xs = []
        ∧ n = if count = 0 then 64 else count.toNat)
      ∨ ∃ x : BitVec 5, i = .repReg x step ssize ∧ xs = [x]
        ∧ n = (min 64 (max 1 (rx s0 x).toInt)).toNat) →
    Clear { xs := xs } s → fetchWord s0 s.cur ((me s0).pc + 4) = .word s1 w →
    let th := me s0
    let cnt := if repAct th then repCnt th else n
    let k := if repAct th then repNext th else 0
    (repBodyOk w (step ++ ssize) = true → k < cnt →
      exec i s = .next (setThr s1 s.cur
        { me s1 with repBody := some (w, step ++ ssize), repidx := repWord cnt true k }))
    ∧ (repBodyOk w (step ++ ssize) = false → th.repBody = none →
      exec i s = .next (trapThread s1 s.cur .illegal (s.ir.setWidth 64)))

/-- sbind, sunbind, sstat, sdrain and sskip act on a thread's streams. sbind of a valid descriptor
in the home scratchpad binds the stream, for kind 3 creating a pipe or attaching to the free end of
the one with its key; where every FIFO is taken it waits with the descriptor it has read; a bad
pointer, a bound stream, a reserved or misplaced descriptor and a taken end of a pipe trap STREAM.
sunbind frees a drained stream, does nothing to an unbound one, and waits while entries are left;
sstat gives the status word after 1 cycle; sdrain empties an input stream, leaves a pipe's read end,
and waits for an output stream's or a pipe's entries; sskip moves an input or output stream on by a
count, a pipe's read end by what the pipe holds of it, waiting for the rest while the pipe has not
ended. sdrain and sskip of an unbound stream, sdrain of one in error and sskip of a pipe's write end
trap STREAM. What an unbound stream, a pipe's read end and a pipe that ends do here is the choice of
log entry 16. -/
def Obligations.StreamWords : Prop :=
  ∀ (s : State) (stl : BitVec 3) (rd ra : BitVec 5),
    let s0 := landed s
    let n := rd.toNat
    let p := rx s0 ra
    let tl := tile s0 s.cur.tile
    (Clear { ok := streamOk rd, xs := [ra] } s → pSpace p = 2 → pOff p % 32 = 0 →
      pOff p + 32 ≤ spadSize → (spadRead s0 (me s0).home (pOff p) 32).2 = false →
      let d := readLE (tile s0 (me s0).home).spad (pOff p) 32
      let b := { parseStream d with asid := (me s0).asid, priv := (me s0).priv }
      let bound := fun (t : State) =>
        exec (.sbind stl rd ra) s = .next (doneAt (away s0) stl (setStream t s.cur n b))
      let fails := fun (e : Nat) => exec (.sbind stl rd ra) s
        = .next (trapThread s0 s.cur .stream (BitVec.ofNat 64 (b.kind * 2 ^ 28 + e)))
      let mine := fun (q : Pipe) => q.troupe = (me s0).troupe ∧ q.key = b.key
      ((smFind (me s0).streams n).isSome = true ∨ streamReserved b d = true → fails 1)
      ∧ (smFind (me s0).streams n = none → streamReserved b d = false →
        (streamMisplaced b = true → fails 4)
        ∧ (streamMisplaced b = false →
          (b.kind ≠ 3 → fifosUsed tl < 32 → bound s0)
          ∧ (b.kind = 3 → findPipe tl (me s0).troupe b.key = none → fifosUsed tl < 32 →
            let q : Pipe := { troupe := (me s0).troupe, key := b.key, fifo := [],
                              writer := if b.dir = 1 then some s.cur else none,
                              reader := if b.dir = 1 then none else some s.cur, ended := false,
                              rgone := false }
            bound (updTile s0 s.cur.tile fun tl => { tl with pipes := tl.pipes ++ [q] }))
          ∧ (b.kind ≠ 3 ∨ findPipe tl (me s0).troupe b.key = none → 32 ≤ fifosUsed tl →
            exec (.sbind stl rd ra) s = .next (slept stl (.bind n b) s0))
          ∧ (∀ q, b.kind = 3 → findPipe tl (me s0).troupe b.key = some q →
            let taken := if b.dir = 1 then q.writer.isSome || q.ended
              else q.reader.isSome || q.rgone
            (taken = true → fails 1)
            ∧ (taken = false → bound (updTile s0 s.cur.tile fun tl =>
              { tl with pipes := tl.pipes.map fun x => if mine x then
                  (if b.dir = 1 then { x with writer := some s.cur }
                   else { x with reader := some s.cur }) else x }))))))
    ∧ (Clear { ok := streamOk rd, xs := [ra] } s →
      pSpace p ≠ 2 ∨ pOff p % 32 ≠ 0 ∨ spadSize < pOff p + 32 →
      exec (.sbind stl rd ra) s = .next (trapThread s0 s.cur .stream 4))
    ∧ (Clear { ok := streamOk rd } s →
      (smFind (me s0).streams n = none →
        exec (.sunbind stl rd) s = .next (went stl s0)
        ∧ exec (.sdrain stl rd) s
          = .next (trapThread s0 s.cur .stream (sstatWord s0 s.cur n)))
      ∧ ∀ b, smFind (me s0).streams n = some b →
        (streamDrained s0 s.cur b = true →
          exec (.sunbind stl rd) s = .next (went stl (streamFree s0 s.cur n b)))
        ∧ (streamDrained s0 s.cur b = false →
          exec (.sunbind stl rd) s = .next (slept stl .retry s0))
        ∧ (b.isInput = true → b.kind ≠ 3 → exec (.sdrain stl rd) s = .next (went stl
            (setStream s0 s.cur n
              { b with fifo := [], seen := [], next := b.pos,
                       err := if b.marked then 0 else b.err, marked := false })))
        ∧ (b.kind = 3 → b.dir = 0 → exec (.sdrain stl rd) s = .next (went stl s0))
        ∧ (b.isInput = false → b.st = 3 → exec (.sdrain stl rd) s
          = .next (trapThread s0 s.cur .stream (sstatWord s0 s.cur n)))
        ∧ (b.isInput = false → b.st ≠ 3 →
          (streamDrained s0 s.cur b = true → exec (.sdrain stl rd) s = .next (went stl s0))
          ∧ (streamDrained s0 s.cur b = false →
            exec (.sdrain stl rd) s = .next (slept stl .retry s0))
          ∧ (b.kind ≠ 3 → (streamDrained s0 s.cur b = true ↔ b.fifo = []))
          ∧ (b.kind = 3 → ∀ q, pipeOf s0 s.cur b = some q →
            (streamDrained s0 s.cur b = true ↔ q.fifo = [] ∨ q.rgone = true))))
    ∧ (Clear { ok := streamOk ra, xs := [rd] } s → exec (.sstat stl rd ra) s
        = .next (went stl (giveX stl 1 rd (sstatWord s0 s.cur ra.toNat) s0)))
    ∧ (Clear { ok := streamOk rd, xs := [ra] } s →
      let fails := exec (.sskip stl rd ra) s
        = .next (trapThread s0 s.cur .stream (sstatWord s0 s.cur n))
      (smFind (me s0).streams n = none → fails)
      ∧ ∀ b, smFind (me s0).streams n = some b →
        (b.kind ≠ 3 → exec (.sskip stl rd ra) s = .next (went stl (setStream s0 s.cur n
          (if b.isInput then
            (if p.toNat ≤ b.fifo.length then
              { b with fifo := b.fifo.drop p.toNat, pos := b.pos + p.toNat }
            else { b with fifo := [], seen := [], marked := false, pos := b.pos + p.toNat,
                          next := b.pos + p.toNat })
          else { b with pos := b.pos + p.toNat }))))
        ∧ (b.kind = 3 → b.dir = 1 → fails)
        ∧ (b.kind = 3 → b.dir = 0 → ∀ q, pipeOf s0 s.cur b = some q →
          let k := min (p.toNat - b.next) q.fifo.length
          let moved := fun (next : Nat) =>
            let t := setStream (setPipeFifo s0 s.cur b (q.fifo.drop k)) s.cur n
              { b with pos := b.pos + k, next := next }
            if k = 0 then t else retryTile t s.cur.tile
          (p.toNat - b.next ≤ q.fifo.length ∨ q.ended = true →
            exec (.sskip stl rd ra) s = .next (went stl (moved 0)))
          ∧ (q.fifo.length < p.toNat - b.next → q.ended = false →
            exec (.sskip stl rd ra) s = .next (slept stl .retry (moved (b.next + k))))))

/-- The thread words create, end, join and order threads. spawn reads its descriptor as a thread
load does and waits for it; when it has come, a malformed one traps ILLEGAL, one of a higher
privilege or in another troupe than a user's is denied, one for which the tile has no room is
refused, and else x[rd] holds the new thread's identifier. join of an exited thread gives its exit
value and frees the slot, of a parked one the parked value, and of a live one waits; exit ends its
thread with x[ra] once its output streams are written, and waits before; yield, prio and tid act at
once; detach marks its target, or frees an exited one; kill, a supervisor's, ends its target, or
does nothing to an ended or parked one. Of join, detach and kill a target word with reserved bits
traps ILLEGAL, of join and detach a target that R262 refuses, and a kill of a slot that holds no
thread; a kill outside the partition traps ADDR. A spawn whose pointer is not a multiple of 64 traps
MISALIGN, one whose pointer reaches nothing the cause of a load there, and a descriptor with an
uncorrectable word marks its reply (the charge at the read: log 36). The new thread's tile gives up
the units of its view, as R231 has it start as after a fence toward every path (log 14). -/
def Obligations.ThreadWords : Prop :=
  ∀ (s : State) (stl : BitVec 3) (rd ra rb : BitVec 5),
    let s0 := landed s
    let x := rx s0 ra
    let w : Wait := .spawn rd.toNat x (if rb = 0 then none else some (rx s0 rb))
    let answer := fun (v : Word) (t : State) =>
      slept stl (.value rd.toNat) (send t s.cur 0 (.reply v.toNat none none))
    let done := fun (t : State) => slept stl .done (send t s.cur 0 (.reply 0 none none))
    (Clear { xs := [rd, ra, rb] } s → pOff x % 64 ≠ 0 →
      exec (.spawn stl rd ra rb) s = .next (trapThread s0 s.cur .misalign x))
    ∧ (Clear { xs := [rd, ra, rb] } s → pOff x % 64 = 0 →
      (∀ c, threadTarget s0 s.cur x 64 = .error c →
        exec (.spawn stl rd ra rb) s = .next (trapThread s0 s.cur c x))
      ∧ (∀ o, threadTarget s0 s.cur x 64 = .ok (.here o) →
        let s1 := hereAt o 64 s0
        ((spadRead s1 s.cur.tile o 64).2 = false →
          exec (.spawn stl rd ra rb) s = .next (slept stl w (send s1 s.cur 0
            (.reply (readLE (tile s1 s.cur.tile).spad o 64) none none))))
        ∧ ((spadRead s1 s.cur.tile o 64).2 = true →
          exec (.spawn stl rd ra rb) s = .next (slept stl w (send (chargeSram s1 s.cur.tile 3) s.cur 0
            (.reply (spadRead s1 s.cur.tile o 64).1 (some 1) none)))))
      ∧ (∀ pl o, threadTarget s0 s.cur x 64 = .ok (.far pl o) →
        exec (.spawn stl rd ra rb) s = .next (slept stl w (send s0 s.cur pl
          (.port pl o (.load 64) (ltileOf s0 (me s0).home) none))))
      ∧ (∀ o, threadTarget s0 s.cur x 64 = .ok (.glob o) →
        exec (.spawn stl rd ra rb) s = .next (slept stl w (globalLoad s0 o 64))))
    ∧ (Clear { xs := [rd, ra] } s →
      (∀ j, targetTid s0 x = some j → joinRefused s0 j = false → (thr s0 j).detached = false →
        ((thr s0 j).st = .parked → exec (.join stl rd ra) s = .next (answer parkedValue s0))
        ∧ ((thr s0 j).exited = true →
          exec (.join stl rd ra) s = .next (answer (thr s0 j).exitVal (freeSlot s0 j)))
        ∧ ((thr s0 j).st ≠ .parked → (thr s0 j).exited = false →
          exec (.join stl rd ra) s = .next (slept stl (.join rd.toNat j) s0)))
      ∧ (∀ j, targetTid s0 x = some j → joinRefused s0 j = true ∨ (thr s0 j).detached = true →
        exec (.join stl rd ra) s = .next (trapThread s0 s.cur .illegal x))
      ∧ (2 ^ 19 ≤ x.toNat → exec (.join stl rd ra) s = .next (trapThread s0 s.cur .illegal x)))
    ∧ (Clear { xs := [ra] } s →
      ((∀ e ∈ (me s0).streams, streamDrained s0 s.cur e.2 = true) →
        exec (.exit stl ra) s = .next (endThread s0 s.cur x))
      ∧ ((∃ e ∈ (me s0).streams, streamDrained s0 s.cur e.2 = false) →
        exec (.exit stl ra) s = .next (slept stl .retry s0))
      ∧ exec (.prio stl ra) s
        = .next (went stl (onMe s0 fun th => { th with prio := min x.toNat 7 }))
      ∧ (2 ^ 19 ≤ x.toNat → exec (.detach stl ra) s = .next (trapThread s0 s.cur .illegal x))
      ∧ ∀ j, targetTid s0 x = some j →
        (joinRefused s0 j = true →
          exec (.detach stl ra) s = .next (trapThread s0 s.cur .illegal x))
        ∧ (joinRefused s0 j = false →
          exec (.detach stl ra) s = .next (done (if (thr s0 j).exited then freeSlot s0 j
            else setThr s0 j { thr s0 j with detached := true }))))
    ∧ (Clear {} s → exec (.yield stl) s
        = .next (went stl (onMe s0 fun th => { th with yielded := true })))
    ∧ (Clear { xs := [rd] } s →
      exec (.tid stl rd) s = .next (went stl (giveX stl 4 rd (tidWord s.cur) s0)))
    ∧ (Clear { priv := 1, xs := [ra] } s →
      (2 ^ 19 ≤ x.toNat → exec (.kill stl ra) s = .next (trapThread s0 s.cur .illegal x))
      ∧ ∀ j0, targetTid s0 x = some j0 →
        let j : Tid := if (thr s0 j0).shadow then ⟨j0.tile, (thr s0 j0).partner⟩ else j0
        (samePartition s0 j.tile = false →
          exec (.kill stl ra) s = .next (trapThread s0 s.cur .addr x))
        ∧ (samePartition s0 j.tile = true → (thr s0 j).absent = true →
          exec (.kill stl ra) s = .next (trapThread s0 s.cur .illegal x))
        ∧ (samePartition s0 j.tile = true → (thr s0 j).absent = false →
          ((thr s0 j).ended = true ∨ (thr s0 j).st = .parked →
            exec (.kill stl ra) s = .next (done s0))
          ∧ ((thr s0 j).ended = false → (thr s0 j).st ≠ .parked →
            exec (.kill stl ra) s = .next (if j = s.cur then endThread s0 j (BitVec.allOnes 64)
              else done (endThread s0 j (BitVec.allOnes 64))))))
    ∧ (∀ (i : Tid) (n v : Nat) (ea : Word) (arg : Option Word),
      (parseDesc v = none → spawnLand s i n ea arg v = trapPair s i .illegal ea)
      ∧ ∀ d, parseDesc v = some d →
        let gives := fun (w : Word) (t : State) => complete t i fun th => setX th n w
        let denied := (thr s i).priv < d.priv ∨ ((thr s i).priv = 0 ∧ d.troupe ≠ (thr s i).troupe)
        let new : NewThread :=
          { d := d, x4 := arg.getD d.arg, regs := [], asid := (thr s i).asid,
            launch := (thr s i).launch, units := (thr s i).units, placed := false }
        (denied → spawnLand s i n ea arg v = gives 0x8000000000000002 s)
        ∧ (¬ denied → createThread s (thr s i).home true new = none →
          spawnLand s i n ea arg v = gives 0x8000000000000001 s)
        ∧ (¬ denied → ∀ j t, createThread s (thr s i).home true new = some (j, t) →
          spawnLand s i n ea arg v = gives (tidWord j) { clearView t j.tile with
            launches := t.launches.map fun l =>
              if l.id = (thr s i).launch then { l with threads := l.threads ++ [j] } else l }))

/-- The cue words set, signal, read, try and wait. cinit sets a cue's value and clears its mark,
csig adds to it, cread gives value and mark; ctry takes n when nobody waits and the value is there,
giving 1, else 0; cwait and cwaitt take n likewise, giving at once, or queue in order of arrival; a
set mark traps each of the three ENGINE with its status and is cleared; csigr sends a signal to a
tile and counts it as posted, a malformed tile number traps ILLEGAL and one it cannot reach that
check's cause. A displaced thread's operation on a tile cue waits for the home tile's reply. -/
def Obligations.CueWords : Prop :=
  ∀ (s : State) (stl : BitVec 3) (prv : BitVec 1) (cue : BitVec 8) (ra rd : BitVec 5),
    let s0 := landed s
    let r := namedCue s0 prv cue
    let c := getCue s0 r
    let n := countOf s0 ra
    let far := prv == 0 && away s0
    let taken := setCue s0 r (takeCount c n)
    let queued := setCue s0 r { c with waiters := c.waiters ++ [⟨s.cur, n⟩] }
    let cleared := setCue s0 r { c with err := false, estat := 0 }
    (Clear { ok := cueOk prv cue, xs := [ra] } s →
      (c.waiters = [] → exec (.cinit stl prv cue ra) s = .next (doneAt far stl
        (setCue s0 r { c with value := BitVec.ofNat 32 n, err := false, estat := 0 })))
      ∧ (let t := cueServe (setCue s0 r { c with value := BitVec.ofNat 32 n, err := false, estat := 0 })
          r c.waiters
        exec (.cinit stl prv cue ra) s = .next (doneAt (prv == 0 && away t) stl t))
      ∧ (let t := cueSignal s0 r n
        exec (.csig stl prv cue ra) s = .next (doneAt (prv == 0 && away t) stl t))
      ∧ (c.err = true →
        exec (.cwait stl prv cue ra) s = .next (trapThread cleared s.cur .engine c.estat))
      ∧ (c.err = false → servedNow c n → exec (.cwait stl prv cue ra) s
        = .next (doneAt far stl (if n = 0 then s0 else taken)))
      ∧ (c.err = false → ¬ servedNow c n →
        exec (.cwait stl prv cue ra) s = .next (slept stl (.cue r) queued)))
    ∧ (Clear { ok := cueOk prv cue, xs := [rd] } s → exec (.cread stl prv cue rd) s
        = .next (valueAt far stl rd
          (BitVec.ofNat 64 (c.value.toNat + if c.err then 2 ^ 63 else 0)) s0))
    ∧ (Clear { ok := cueOk prv cue, xs := [ra, rd] } s → c.err = false →
      (c.waiters = [] → n ≤ c.value.toNat →
        exec (.ctry stl prv cue ra rd) s = .next (valueAt far stl rd 1 taken))
      ∧ (c.waiters ≠ [] ∨ c.value.toNat < n →
        exec (.ctry stl prv cue ra rd) s = .next (valueAt far stl rd 0 s0))
      ∧ (servedNow c n → exec (.cwaitt stl prv cue ra rd) s
        = .next (valueAt far stl rd 1 (if n = 0 then s0 else taken)))
      ∧ (¬ servedNow c n → exec (.cwaitt stl prv cue ra rd) s = .next (slept stl
          (.cueTimed r rd.toNat ((if ra = 0 then 0 else (rx s0 ra).toNat / 2 ^ 32) + 1)) queued)))
    ∧ (Clear { ok := cueOk prv cue, xs := [ra, rd] } s → c.err = true →
      exec (.ctry stl prv cue ra rd) s = .next (trapThread cleared s.cur .engine c.estat)
      ∧ exec (.cwaitt stl prv cue ra rd) s = .next (trapThread cleared s.cur .engine c.estat))
    ∧ (Clear { xs := [ra, rd] } s →
      ((rx s0 rd).toNat < 2 ^ 12 →
        (∀ t, reachTile s0 (myStanding s0) (rx s0 rd).toNat = .ok t →
          exec (.csigr stl cue ra rd) s = .next (went stl (onMe
            (send s0 s.cur t (.cueSig t cue.toNat n (rx s0 rd)))
            fun th => { th with postedN := th.postedN + 1 })))
        ∧ (∀ k, reachTile s0 (myStanding s0) (rx s0 rd).toNat = .error k →
          exec (.csigr stl cue ra rd) s = .next (trapThread s0 s.cur k (rx s0 rd))))
      ∧ (2 ^ 12 ≤ (rx s0 rd).toNat →
        exec (.csigr stl cue ra rd) s = .next (trapThread s0 s.cur .illegal (rx s0 rd))))

/-- A signal adds to a cue, saturating with the error mark. A signal of n to a live cue that no
thread waits at adds n to its value; past 2^32 - 1 the value stays there and the error mark is set
with status all ones. With a first waiter whose count the new value covers, that waiter is served
and its count taken before the others are looked at. -/
def Obligations.CueSignalAddsAndServes : Prop :=
  ∀ (s : State) (r : CueRef) (n : Nat), cueLive s r = true →
    (∀ i k, r = .priv i k → i.tile < 1024 ∧ (thr s i).wait? ≠ some .idle) →
    let c := getCue s r
    let v := c.value.toNat + n
    (c.waiters = [] → v < 2 ^ 32 →
      cueSignal s r n = setCue s r { c with value := BitVec.ofNat 32 v })
    ∧ (c.waiters = [] → 2 ^ 32 ≤ v →
      cueSignal s r n = setCue s r
        { c with value := 0xFFFFFFFF, err := true,
                 estat := if c.err then c.estat else BitVec.allOnes 64 })
    ∧ (∀ w ws, c.waiters = w :: ws → v < 2 ^ 32 → v < w.n →
      cueSignal s r n = setCue s r { c with value := BitVec.ofNat 32 v })
    ∧ (∀ w ws, c.waiters = w :: ws → v < 2 ^ 32 → w.n ≤ v →
      cueSignal s r n = endIdle (cueServe (serveWaiter (setCue s r
        { c with value := BitVec.ofNat 32 (v - w.n), waiters := ws }) w.tid) r ws) r)

/-- send, recv and recvt move messages. send to a thread of its partition that it may reach sends
x[rb] and waits for its delivery, to one elsewhere traps ADDR and to one that its cluster may not
reach PERM; recv takes the oldest message, or waits; recvt gives the number of messages, at once
when there are any or the limit is 0, else waits. A target word with reserved bits traps ILLEGAL. -/
def Obligations.MessageWords : Prop :=
  ∀ (s : State) (stl : BitVec 3) (rd ra rb : BitVec 5),
    let s0 := landed s
    let x := rx s0 ra
    let j := tidOf x
    let t := contextTile s0 j
    (Clear { xs := [ra, rb] } s →
      (x.toNat < 2 ^ 19 → harvested s0 j.tile = false → samePartition s0 t = true →
        (∀ p l, tileOwner s0 t = some (p, l) →
          p ≠ (myStanding s0).p ∨ permits (myStanding s0) l = true) →
        exec (.send stl ra rb) s
          = .next (slept stl .send (send s0 s.cur j.tile (.msg j (rx s0 rb)))))
      ∧ (x.toNat < 2 ^ 19 → harvested s0 j.tile = true ∨ samePartition s0 t = false →
        exec (.send stl ra rb) s = .next (trapThread s0 s.cur .addr x))
      ∧ (x.toNat < 2 ^ 19 → harvested s0 j.tile = false → samePartition s0 t = true →
        ∀ l, tileOwner s0 t = some ((myStanding s0).p, l) → permits (myStanding s0) l = false →
        exec (.send stl ra rb) s = .next (trapThread s0 s.cur .perm x))
      ∧ (2 ^ 19 ≤ x.toNat → exec (.send stl ra rb) s = .next (trapThread s0 s.cur .illegal x)))
    ∧ (Clear { xs := [rd] } s →
      (∀ v q, (me s0).mailbox = v :: q → exec (.recv stl rd) s
        = .next (went stl (giveX stl 4 rd v (onMe s0 fun th => { th with mailbox := q }))))
      ∧ ((me s0).mailbox = [] → exec (.recv stl rd) s = .next (slept stl (.recv rd.toNat) s0)))
    ∧ (Clear { xs := [rd, ra] } s →
      ((me s0).mailbox ≠ [] ∨ x = 0 → exec (.recvt stl rd ra) s
        = .next (went stl (giveX stl 4 rd (BitVec.ofNat 64 (me s0).mailbox.length) s0)))
      ∧ ((me s0).mailbox = [] → x ≠ 0 →
        exec (.recvt stl rd ra) s = .next (slept stl (.recvt rd.toNat (x.toNat + 1)) s0)))

/-- The matrix words claim, release and issue commands. mclaim and mrel of a well-formed mask that
the thread does not hold, respectively holds, queue a claim or a release at the home tile and wait;
mload, mma, mmas, mgemm, mdrain, mzero and mtov, when the thread holds every slot and accumulator
that the command names, put the command with its operands and snapshots among the arrivals of the
home tile's engine and wait for its acceptance; one that lacks a resource traps SLOT with TVAL the
mask it lacks. A claim of what the thread holds and a release of what it does not hold trap SLOT
with TVAL that part of the mask, and a malformed mask traps ILLEGAL. -/
def Obligations.MatrixWordsClaimAndIssue : Prop :=
  (∀ (s : State) (stl : BitVec 3) (ra : BitVec 5), Clear { xs := [ra] } s →
    let s0 := landed s
    let m := (rx s0 ra).toNat
    let q : Claim := ⟨s0.fresh, s.cur, m⟩
    let s1 := { s0 with fresh := s0.fresh + 1 }
    (badMask m = false → Nat.land m (myHeld s0) = 0 →
      exec (.mclaim stl ra) s = .next (slept stl .claim
        (updTile s1 (me s0).home fun tl => { tl with claims := tl.claims ++ [q] })))
    ∧ (badMask m = false → Nat.land m (myHeld s0) = m →
      exec (.mrel stl ra) s = .next (slept stl .release
        (updTile s1 (me s0).home fun tl => { tl with releases := tl.releases ++ [q] })))
    ∧ (badMask m = false → Nat.land m (myHeld s0) ≠ 0 → exec (.mclaim stl ra) s
        = .next (trapThread s0 s.cur .slot (BitVec.ofNat 64 (Nat.land m (myHeld s0)))))
    ∧ (badMask m = false → Nat.land m (myHeld s0) ≠ m → exec (.mrel stl ra) s
        = .next (trapThread s0 s.cur .slot (BitVec.ofNat 64 (m - Nat.land m (myHeld s0)))))
    ∧ (badMask m = true →
      exec (.mclaim stl ra) s = .next (trapThread s0 s.cur .illegal (rx s0 ra))
      ∧ exec (.mrel stl ra) s = .next (trapThread s0 s.cur .illegal (rx s0 ra))))
  ∧ (∀ (s : State) (i : Instr) (r : MatrixRow), matrixTable (landed s) i = some r →
    Clear { ok := r.ok, xs := r.xs, res := r.xs.map fun x => (x, 5), kind := 3 } s →
    let s0 := landed s
    let c := commandOf s0 0 r.cmd r.tag r.a r.b
    let s1 := { s0 with fresh := s0.fresh + 1 }
    let home := (me s0).home
    let need := cmdNames (tile s0 home) (tile s0 home).mQueue c
    (Nat.land need (myHeld s0) = need → exec i s = .next (slept r.stl (.accept 0)
      (updTile s1 home fun tl => { tl with mArrivals := tl.mArrivals ++ [c] })))
    ∧ (Nat.land need (myHeld s0) ≠ need → exec i s = .next (trapThread s1 s.cur .slot
      (BitVec.ofNat 64 (need - Nat.land need (myHeld s0))))))

/-- Copies, swaps, posts and flushes reach their units. cpy, cpys, cpyg, cpyx and cpyf put their
command among the arrivals of the thread's cluster's stagehand, and swpin, swpout and swppull among
those of its die's swap engine; OUTST of the port grows and the thread waits for the acceptance.
tqpost of a well-formed record, as the path C finds it, whose identifier no task of the cluster has
adds the task to a queue with room and signals its cue, and waits for room in a full one; tqflush
retires the waiting tasks of its queue as failed with 0xFF11, and leaves its own signal to the end
of those that run. A pointer that is not one, a malformed record, an identifier in use and a queue
above 3 fail with their status: the cue is marked and DONE stays. That a record which runs past the
end of the scratchpad fails as a pointer that is not one does is the model's reading (log 27,
DEDUCED). -/
def Obligations.UnitWordsIssue : Prop :=
  (∀ (s : State) (i : Instr) (r : UnitRow), copyTable i = some r →
    Clear { xs := [r.ra, r.rb],
            res := if r.cmd = 4 then [(r.ra, 5)] else [(r.ra, 5), (r.rb, 5)], kind := 3 } s →
    let s0 := landed s
    let c := commandOf s0 1 r.cmd r.tag (rx s0 r.ra) (rx s0 r.rb)
    exec i s = .next (slept r.stl (.accept 1) (updCluster
      (portMore { s0 with fresh := s0.fresh + 1 } s.cur 1) (tileCluster (me s0).home)
      fun k => { k with shArrivals := k.shArrivals ++ [c] })))
  ∧ (∀ (s : State) (stl : BitVec 3) (tag : BitVec 4) (ra rb : BitVec 5),
    Clear { xs := [ra, rb], res := [(ra, 5)], kind := 3 } s →
    let s0 := landed s
    let s1 := portMore { s0 with fresh := s0.fresh + 1 } s.cur 3
    let asks := fun (cmd : Nat) => Host.Outcome.next (φ := Fault) (ρ := Refusal)
      (slept stl (.accept 3) { s1 with swapArrivals := s1.swapArrivals
        ++ [((me s0).home / 256, commandOf s0 3 cmd tag (rx s0 ra) (rx s0 rb))] })
    exec (.swpin stl tag ra rb) s = asks 0 ∧ exec (.swpout stl tag ra rb) s = asks 1
    ∧ exec (.swppull stl tag ra rb) s = asks 2)
  ∧ (∀ (s : State) (stl : BitVec 3) (tag : BitVec 4) (ra rb : BitVec 5) (t : Task),
    let s0 := landed s
    let p := rx s0 ra
    let q := (rx s0 rb).toNat
    let k := homeCluster s0 (me s0).home
    let cue := tagCue s.cur (me s0) tag.toNat
    let s1 := { s0 with fresh := s0.fresh + 1 }
    let full := 32 ≤ queueFill (cluster s0 k) q ∨ ∃ e ∈ (cluster s0 k).posts, e.1.queue = q
    let entry := pathRead s0 2 [] (me s0).home (pOff p) 64
    let fails := fun (st : Nat) (t : State) =>
      exec (.tqpost stl tag ra rb) s = .next (went stl (postFail t s.cur cue st))
    Clear { xs := [ra, rb], res := [(ra, 5)], kind := 3 } s →
    (pSpace p ≠ 2 ∨ pOff p % 64 ≠ 0 ∨ spadSize < pOff p + 64 → fails 0xFF02 s0)
    ∧ (pSpace p = 2 → pOff p % 64 = 0 → pOff p + 64 ≤ spadSize →
      (3 < q → fails 0xFF04 s0)
      ∧ (q ≤ 3 → entry.2 = false → parseTask s1 s0.fresh q entry.1 = none → fails 0xFF01 s1)
      ∧ (q ≤ 3 → entry.2 = false → parseTask s1 s0.fresh q entry.1 = some t →
        (¬ full → identBusy (cluster s1 k) t.ident = true → fails 0xFF03 s1)
        ∧ (¬ full → identBusy (cluster s1 k) t.ident = false →
          exec (.tqpost stl tag ra rb) s = .next (went stl (cueComplete (portMore
            (updCluster s1 k fun c => { c with waiting := c.waiting ++ [t] }) s.cur 2) cue none)))
        ∧ (full → exec (.tqpost stl tag ra rb) s = .next (slept stl (.accept 2)
          (updCluster s1 k fun c => { c with posts := c.posts ++ [(t, cue)] }))))))
  ∧ (∀ (s : State) (stl : BitVec 3) (tag : BitVec 4) (ra : BitVec 5),
    let s0 := landed s
    let q := (rx s0 ra).toNat
    let k := homeCluster s0 (me s0).home
    let cl := cluster s0 k
    let cue := tagCue s.cur (me s0) tag.toNat
    let gone := cl.waiting.filter (fun t => t.queue == q)
    let left := (cl.running.filter (fun t => t.queue == q)).map (·.id)
    let s1 := setCluster s0 k
      { cl with waiting := cl.waiting.filter (fun t => t.queue != q),
                flushes := cl.flushes ++ [(q, s.cur, cue, left)] }
    let s2 := gone.foldl (fun s t => taskSignal s t (some (0xFF11, 0))) s1
    let s3 := updPort s2 s.cur 2 fun p => { p with flushed := gone.length % 256 }
    Clear { xs := [ra], kind := 3 } s →
    (q ≤ 3 → exec (.tqflush stl tag ra) s
      = .next (went stl (queuesMoved (depsOf s3 k (gone.map (·.ident))) k)))
    ∧ (3 < q → exec (.tqflush stl tag ra) s
      = .next (went stl (postFail s0 s.cur cue 0xFF04))))
  ∧ (∀ (s : State) (i : Tid) (cue : CueRef) (st : Nat),
    let p := smGet PortStat.zero (thr s i).ports 2
    let f := { p with lastst := st }
    postFail s i cue st = cueComplete
      (setThr s i { thr s i with ports := smSet (thr s i).ports 2 f }) cue (some (portWord 2 f)))

/-- ewr, erd and erdst write and read the engine registers. ewr writes x[ra] to e[n] and, unless RB
is x0, x[rb] to e[n + 1]; erd gives e[n] after 1 cycle and erdst the status word of a port: DONE,
LASTST, FLUSHED and OUTST, of port 3 LASTST and OUTST only. -/
def Obligations.EngineRegisterWords : Prop :=
  ∀ (s : State) (stl : BitVec 3) (rd ra rb : BitVec 5) (n : BitVec 3) (port : BitVec 2),
    let s0 := landed s
    let st := smGet PortStat.zero (me s0).ports port.toNat
    (Clear { ok := ewrOk n rb, xs := [ra, rb] } s → exec (.ewr stl ra rb n) s
      = .next (went stl (onMe s0 fun th =>
        if rb = 0 then { th with e := smSet th.e n.toNat (rx s0 ra) }
        else { th with e := smSet (smSet th.e n.toNat (rx s0 ra)) (n.toNat + 1) (rx s0 rb) })))
    ∧ (Clear { xs := [rd] } s →
      exec (.erd stl rd n) s
        = .next (went stl (giveX stl 1 rd (smGet 0 (me s0).e n.toNat) s0))
      ∧ exec (.erdst stl rd port) s = .next (went stl (giveX stl 1 rd (BitVec.ofNat 64
        (if port = 3 then st.lastst % 256 * 2 ^ 16 + st.outst % 2 ^ 16
         else st.done % 2 ^ 32 * 2 ^ 32 + st.lastst % 2 ^ 16 * 2 ^ 16 + st.flushed % 256 * 2 ^ 8
           + st.outst % 256)) s0)))

/-- The gate words send their request and wait. gopen of a well-formed word asks the gate for its
rights, and a malformed one traps ILLEGAL; on an open handle whose rights permit the operation gsig,
gwait, gread, gpost and gtake send their request with their count, limit, partition and tile, gsig
and gpost with the numbers of the thread's engine work that has still to complete, and the thread
waits for the reply; gclose closes its handle at once. Of these six a closed handle traps GATE_FAULT
with reason 1 and a handle number above 15 traps ILLEGAL, and of all but gclose one without the
right traps GATE_FAULT with reason 2. -/
def Obligations.GateWordsAskTheirGate : Prop :=
  ∀ (s : State) (stl : BitVec 3) (rd ra rb : BitVec 5),
    let s0 := landed s
    let x := rx s0 ra
    let h := x.toNat
    let b := rx s0 rb
    let n := if rb = 0 then 1 else b.toNat % 2 ^ 32
    let limit := if b.toNat / 2 ^ 32 = 0 then none else some (b.toNat / 2 ^ 32 + 1)
    let ask := fun (op n : Nat) (lim : Option Nat) (h gate : Nat) =>
      Host.Outcome.next (φ := Fault) (ρ := Refusal) (slept stl
        (.gate rd.toNat gate (op == 6) 0 lim) (send s0 s.cur (2 ^ 20 + gate)
          (.gateReq gate op n lim rd.toNat h (asidPart (me s0).asid) s.cur.tile
            (if op = 2 ∨ op = 5 then openWork s0 s.cur else []))))
    let fault := fun (v : Nat) => Host.Outcome.next (φ := Fault) (ρ := Refusal)
      (trapThread s0 s.cur .gateFault (BitVec.ofNat 64 v))
    (Clear { xs := [rd, ra] } s → ∀ gate rights, gate < 4096 → 0 < rights → rights < 16 →
      x.toNat = rights * 2 ^ 16 + gate →
      exec (.gopen stl rd ra) s = ask 0 rights none 0 gate)
    ∧ (∀ g, smFind (me s0).handles h = some g → h < 16 →
      (Clear { xs := [rd, ra, rb] } s →
        (g.rights.getLsbD 3 = true → exec (.gsig stl rd ra rb) s = ask 2 n none h g.gate)
        ∧ (g.rights.getLsbD 2 = true → exec (.gwait stl rd ra rb) s = ask 3 n limit h g.gate)
        ∧ (g.rights.getLsbD 1 = true →
          exec (.gpost stl rd ra rb) s = ask 5 (b.toNat % 2 ^ 32) none h g.gate)
        ∧ (g.rights.getLsbD 0 = true → exec (.gtake stl rd ra rb) s = ask 6 0 limit h g.gate))
      ∧ (Clear { xs := [rd, ra] } s → g.rights ≠ 0 →
        exec (.gread stl rd ra) s = ask 4 0 none h g.gate)
      ∧ (Clear { xs := [ra] } s → exec (.gclose stl ra) s
        = .next (went stl (onMe s0 fun th => { th with handles := smDel th.handles h }))))
    ∧ (∀ (i : Instr) (xs : List (BitVec 5)) (bits : BitVec 4),
      (i = .gsig stl rd ra rb ∧ xs = [rd, ra, rb] ∧ bits = 8)
        ∨ (i = .gwait stl rd ra rb ∧ xs = [rd, ra, rb] ∧ bits = 4)
        ∨ (i = .gpost stl rd ra rb ∧ xs = [rd, ra, rb] ∧ bits = 2)
        ∨ (i = .gtake stl rd ra rb ∧ xs = [rd, ra, rb] ∧ bits = 1)
        ∨ (i = .gread stl rd ra ∧ xs = [rd, ra] ∧ bits = 15)
        ∨ (i = .gclose stl ra ∧ xs = [ra] ∧ bits = 0) → Clear { xs := xs } s →
      (16 ≤ h → exec i s = .next (trapThread s0 s.cur .illegal x))
      ∧ (h < 16 → smFind (me s0).handles h = none → exec i s = fault (h * 2 ^ 8 + 1))
      ∧ (∀ g, h < 16 → smFind (me s0).handles h = some g → bits ≠ 0 → g.rights &&& bits = 0 →
        exec i s = fault (g.gate % 4096 * 2 ^ 16 + h * 2 ^ 8 + 2)))
    ∧ (Clear { xs := [rd, ra] } s →
      2 ^ 20 ≤ x.toNat ∨ field x.toNat 15 12 ≠ 0 ∨ field x.toNat 19 16 = 0 →
      exec (.gopen stl rd ra) s = .next (trapThread s0 s.cur .illegal x))

/-- csrr, csrw, csrs and csrc read and write the control registers. Each gives the old value of the
register in x[rd] and writes what R156 says: csrr nothing, csrw x[ra], csrs the OR and csrc the AND
NOT, for RA other than x0, where fields of access W1C and WO take x[ra] alone; an access to FFLAGS
or FRM issues again when the flags of the floating-point and vector words before it are due; a
package register is accessed through the package and the thread waits for the value. XLCMD takes its
command from a record in the home scratchpad, traps ADDR for a pointer that is not one, and parks
the thread on an uncorrectable record. The pointer's check and the record are those of R92; the park
and the TVAL of the trap are log 7 (DEDUCED), and what csrs and csrc of XLCMD do, which R156 makes
of a field that reads zero, log 32 (DEDUCED). -/
def Obligations.CsrWords : Prop :=
  ∀ (s : State) (stl : BitVec 3) (rd ra : BitVec 5) (c : BitVec 9),
    let s0 := landed s
    let n := c.toNat
    let old : Word := BitVec.ofNat 64 (csrGet s0 n)
    let x := rx s0 ra
    let t := csrTrigger n
    let held := (n = 1 ∨ n = 2) ∧ s0.cycle < (me s0).flagsDue
    let again := Host.Outcome.next (φ := Fault) (ρ := Refusal)
      (onMe s0 fun th => { th with st := .issued (me s0).flagsDue })
    let reply := fun (t : State) => Host.Outcome.next (φ := Fault) (ρ := Refusal)
      (slept stl (.value rd.toNat) (send t s.cur 0 (.reply old.toNat none none)))
    let gives := fun (t : State) => Host.Outcome.next (φ := Fault) (ρ := Refusal)
      (went stl (giveX stl 4 rd old t))
    let setVal := ((old ||| x) &&& ~~~t) ||| (x &&& t)
    let clrVal := (old &&& ~~~x) &&& ~~~t
    (Clear { ok := csrReadOk c, priv := n / 128, xs := [rd, 0] } s → ¬ held →
      (n < 0x140 → exec (.csrr stl rd c) s = gives s0)
      ∧ (0x140 ≤ n → exec (.csrr stl rd c) s = reply s0))
    ∧ (Clear { ok := csrWriteOk c, priv := n / 128, xs := [rd, ra] } s → ¬ held →
      (n < 0x140 → exec (.csrw stl rd ra c) s = gives (csrPut n x s0))
      ∧ (n = 0x140 → exec (.csrw stl rd ra c) s = reply { s0 with sptb := x })
      ∧ (n = 0x141 →
        (∀ s1, xlIssue s0 x = some (s1, false) → exec (.csrw stl rd ra c) s = reply s1)
        ∧ (∀ s1, xlIssue s0 x = some (s1, true) →
          exec (.csrw stl rd ra c) s = .next (parkThread s1 s1.cur 1))
        ∧ (xlIssue s0 x = none → exec (.csrw stl rd ra c) s = .next (trapThread s0 s.cur .addr x))))
    ∧ (Clear { ok := csrSetOk ra c, priv := n / 128, xs := [rd, ra] } s → ¬ held →
      (n < 0x140 → ra = 0 →
        exec (.csrs stl rd ra c) s = gives s0 ∧ exec (.csrc stl rd ra c) s = gives s0)
      ∧ (n < 0x140 → ra ≠ 0 → exec (.csrs stl rd ra c) s = gives (csrPut n setVal s0)
        ∧ exec (.csrc stl rd ra c) s = gives (csrPut n clrVal s0))
      ∧ (n = 0x140 → ra ≠ 0 → exec (.csrs stl rd ra c) s = reply { s0 with sptb := setVal }
        ∧ exec (.csrc stl rd ra c) s = reply { s0 with sptb := clrVal })
      ∧ (n = 0x141 → exec (.csrc stl rd ra c) s = reply s0)
      ∧ (n = 0x141 → ra ≠ 0 → ∀ s1, xlIssue s0 setVal = some (s1, false) →
        exec (.csrs stl rd ra c) s = reply s1))
    ∧ (held →
      (Clear { ok := csrReadOk c, priv := n / 128, xs := [rd, 0] } s →
        exec (.csrr stl rd c) s = again)
      ∧ (Clear { ok := csrWriteOk c, priv := n / 128, xs := [rd, ra] } s →
        exec (.csrw stl rd ra c) s = again)
      ∧ (Clear { ok := csrSetOk ra c, priv := n / 128, xs := [rd, ra] } s →
        exec (.csrs stl rd ra c) s = again ∧ exec (.csrc stl rd ra c) s = again))
    ∧ (∀ p : Word, (xlIssue s0 p = none ↔
        pSpace p ≠ 2 ∨ pOff p % 32 ≠ 0 ∨ spadSize < pOff p + 32)
      ∧ (∀ s1, xlIssue s0 p = some (s1, true) →
        (spadRead s0 (me s0).home (pOff p) 32).2 = true))

/-- A write of a thread register stores its fields and no other. A write of FFLAGS keeps flags and
trap enables, FRM four bits, LFSR 32 bits with 1 in place of 0; TSTAT stores CLAMPED, CHKSTL, INH
and a PPRIV no higher than the privilege; TCAUSE, TVAL, TPC (its low two bits cleared), REPIDX and
CUEMAP store their value; ASID keeps its partition and stores its low 12 bits; PFCAUSE ignores a
write. A write of INSTRET stores the count that stands when the word that writes it has completed
(R154). What is read back is the value stored, of each of these registers, and a write of one of
them changes nothing but its register. -/
def Obligations.CsrWritesStoreTheirFields : Prop :=
  ∀ (s : State) (v : Word), s.cur.tile < 1024 →
    let th := me s
    let put := fun (n : Nat) => csrPut n v s
    let is := fun (n : Nat) (u : Thread) => put n = setThr s s.cur u
    is 0x001 { th with fflags := v.setWidth 13 &&& 0x1F1F }
    ∧ is 0x002 { th with frm := v.setWidth 4 }
    ∧ is 0x003 { th with lfsr := if v.setWidth 32 = 0 then 1 else v.setWidth 32 }
    ∧ is 0x010 { th with clamped := v.getLsbD 15, chkstl := v.getLsbD 14, inh := v.getLsbD 13,
                         ppriv := min ((v.extractLsb' 11 2).toNat) th.priv }
    ∧ is 0x011 { th with tcause := v.setWidth 8 }
    ∧ is 0x012 { th with tval := v }
    ∧ is 0x013 { th with tpc := v &&& ~~~3 }
    ∧ is 0x018 { th with repidx := v.setWidth 15 }
    ∧ is 0x020 { th with cuemap := v }
    ∧ is 0x101 { th with asid := th.asid.extractLsb' 12 4 ++ v.setWidth 12 }
    ∧ put 0x030 = setThr s s.cur th
    ∧ is 0x009 { th with instret := v - 1 }
    ∧ (∀ stl, csrGet (went stl (put 0x009)) 0x009 = v.toNat)
    ∧ csrGet (put 0x001) 0x001 = (v &&& 0x1F1F).toNat
    ∧ csrGet (put 0x002) 0x002 = (v &&& 0xF).toNat
    ∧ csrGet (put 0x003) 0x003 = (if v &&& 0xFFFFFFFF = 0 then 1 else (v &&& 0xFFFFFFFF).toNat)
    ∧ csrGet (put 0x010) 0x010
      = (v &&& 0xE000).toNat + min ((v.extractLsb' 11 2).toNat) th.priv * 2 ^ 11
    ∧ csrGet (put 0x011) 0x011 = (v &&& 0xFF).toNat
    ∧ csrGet (put 0x012) 0x012 = v.toNat
    ∧ csrGet (put 0x013) 0x013 = (v &&& ~~~3).toNat
    ∧ csrGet (put 0x018) 0x018 = (v &&& 0x7FFF).toNat
    ∧ csrGet (put 0x020) 0x020 = v.toNat
    ∧ csrGet (put 0x101) 0x101 = th.asid.toNat / 2 ^ 12 * 2 ^ 12 + (v &&& 0xFFF).toNat
    ∧ csrGet (put 0x030) 0x030 = th.pfcause.toNat

/-- idle, repart, roset, curtain and migr. In their privilege: idle completes when a message is
there, else waits; repart of a quiescent tile frees its slots, sets its mode and gives 0, of a busy
one gives 1; roset queues its entry for the tile's next rotation boundary and waits; curtain and
migr read their record from the home scratchpad and give 0, with the command in progress, or 1 when
one is. A repart or roset word with a bit set that must be zero, and a roset of a harvested tile,
trap ILLEGAL with the word, an unreachable tile of repart traps its cause, and a record that is no
32-byte-aligned SPACE 0b10 pointer traps ADDR. -/
def Obligations.SupervisorWords : Prop :=
  ∀ (s : State) (stl : BitVec 3) (rd ra : BitVec 5) (pos : BitVec 4),
    let s0 := landed s
    let x := rx s0 ra
    let n := x.toNat
    let answer := fun (v : Nat) (t : State) => Host.Outcome.next (φ := Fault) (ρ := Refusal)
      (slept stl (.value rd.toNat) (send t s.cur 0 (.reply v none none)))
    let trap := fun (k : Cause) => Host.Outcome.next (φ := Fault) (ρ := Refusal)
      (trapThread s0 s.cur k x)
    (Clear { priv := 1 } s →
      ((me s0).mailbox ≠ [] → exec (.idle stl) s = .next (went stl s0))
      ∧ ((me s0).mailbox = [] → exec (.idle stl) s = .next (slept stl .idle s0)))
    ∧ (Clear { priv := 1, xs := [rd, ra] } s → n < 2 ^ 17 → field n 15 12 = 0 →
      ∀ t, reachTile s0 (myStanding s0) (n % 4096) = .ok t →
        (quiescent s0 t = true → exec (.repart stl rd ra) s = answer 0 (updTile s0 t fun tl =>
          { tl with wide := x.getLsbD 16, threads := [] }))
        ∧ (quiescent s0 t = false → exec (.repart stl rd ra) s = answer 1 s0))
    ∧ (Clear { priv := 1, xs := [rd, ra] } s →
      (2 ^ 17 ≤ n ∨ field n 15 12 ≠ 0 → exec (.repart stl rd ra) s = trap .illegal)
      ∧ (∀ k, n < 2 ^ 17 → field n 15 12 = 0 →
        reachTile s0 (myStanding s0) (n % 4096) = .error k → exec (.repart stl rd ra) s = trap k))
    ∧ (Clear { priv := 2, xs := [ra] } s →
      2 ^ 42 ≤ n ∨ field n 30 5 ≠ 0 ∨ (x.getLsbD 31 = true ∧ harvested s0 (field n 41 32) = true) →
      exec (.roset stl ra pos) s = trap .illegal)
    ∧ (Clear { priv := 2, xs := [rd, ra] } s →
      pSpace x ≠ 2 ∨ pOff x % 32 ≠ 0 ∨ spadSize < pOff x + 32 →
      exec (.curtain stl rd ra) s = trap .addr ∧ exec (.migr stl rd ra) s = trap .addr)
    ∧ (Clear { priv := 2, xs := [ra] } s → n < 2 ^ 42 → field n 30 5 = 0 →
      let t := if x.getLsbD 31 then field n 41 32 else s.cur.tile
      (x.getLsbD 31 = true → harvested s0 t = false) → exec (.roset stl ra pos) s = .next (slept stl .perform
        (updTile s0 t fun tl =>
          { tl with rosets := tl.rosets ++ [(pos.toNat, n % 16, x.getLsbD 4, s.cur)] })))
    ∧ (Clear { priv := 2, xs := [rd, ra] } s → pSpace x = 2 → pOff x % 32 = 0 →
      pOff x + 32 ≤ spadSize → (spadRead s0 (me s0).home (pOff x) 32).2 = false →
      let d := readLE (tile s0 (me s0).home).spad (pOff x) 32
      let k := field d 35 32
      ((part s0 k).op.isSome = true →
        exec (.curtain stl rd ra) s = answer 1 s0 ∧ exec (.migr stl rd ra) s = answer 1 s0)
      ∧ ((part s0 k).op = none →
        exec (.curtain stl rd ra) s = answer 0
          (updPart s0 k fun p => { p with op := some (parseCurtain s0 false (pOff x) d) })
        ∧ exec (.migr stl rd ra) s = answer 0
          (updPart s0 k fun p => { p with op := some (parseCurtain s0 true (pOff x) d) })))

/-- The rank words send their request. With a rank word that its TYPE allows and whose rank has an
entry: rld, ramo and spawnr send their request, keep it as outstanding under a fresh tag and wait
for its reply; rst and csigr.rank send theirs and go on, counted as posted, unless 64 of the tile
are outstanding, when they wait. ramo and spawnr send the 64 bytes at their home scratchpad pointer.
A rank word with a bit that its TYPE does not use traps ILLEGAL and an unknown rank ADDR, both with
the word; rld and rst trap ADDR for a SPACE 0b10 pointer and MISALIGN for one that is no multiple of
8, ramo and spawnr ADDR for one that names no 64-byte block of the home scratchpad. -/
def Obligations.RankWords : Prop :=
  ∀ (s : State) (stl : BitVec 3) (rd ra rb : BitVec 5) (e : RankEntry),
    let s0 := landed s
    let x := rx s0 ra
    let p := rx s0 rb
    let chk := fun (kind : Nat) => ({ xs := [rd, ra, rb], res := [(rb, 5)], kind := kind } : Chk)
    let (tag, s1) := freshTag s0
    let asked := fun (ty : Nat) (fail : Word) => { s1 with outst := s1.outst ++
      [({ rtag := tag, id := s1.fresh, tid := s.cur, tile := s.cur.tile, sent := s.cycle,
          fail := fail, kind := ty } : Outst)] }
    let block := readLE (tile s0 (me s0).home).spad (pOff p) 64
    let blockAt := pSpace p = 2 ∧ pOff p % 64 = 0 ∧ pOff p + 64 ≤ spadSize
      ∧ (spadRead s0 (me s0).home (pOff p) 64).2 = false
    let few := postedRemote s0 s.cur.tile < 64
    let counted := fun (t : State) => onMe t fun th => { th with postedN := th.postedN + 1 }
    let trap := fun (k : Cause) (v : Word) => Host.Outcome.next (φ := Fault) (ρ := Refusal)
      (trapThread s0 s.cur k v)
    (Clear (chk 0) s → pSpace p ≠ 2 → pOff p % 8 = 0 →
      (rankOf 0 x s0 = .ok e → exec (.rld stl rd ra rb) s = .next (slept stl
        (.remote tag rd.toNat 0 p) (remoteSend (asked 0 0) e tag 0 p [] [])))
      ∧ (rankOf 1 x s0 = .ok e → few → exec (.rst stl rd ra rb) s = .next (went stl
        (counted (remoteSend (asked 1 p) e tag 1 p [rx s0 rd] []))))
      ∧ (rankOf 1 x s0 = .ok e → ¬ few →
        exec (.rst stl rd ra rb) s = .next (slept stl .retry s0)))
    ∧ (Clear (chk 0) s → blockAt → rankOf 2 x s0 = .ok e →
      exec (.ramo stl rd ra rb) s = .next (slept stl (.remote tag rd.toNat 2 p)
        (remoteSend (asked 2 0) e tag 2 (BitVec.ofNat 64 (block / 2 ^ 64)) []
          [BitVec.ofNat 512 block])))
    ∧ (Clear (chk 5) s → blockAt → rankOf 3 x s0 = .ok e →
      exec (.spawnr stl rd ra rb) s = .next (slept stl (.remote tag rd.toNat 3 p)
        (remoteSend (asked 3 0) e tag 3 x [] [BitVec.ofNat 512 block])))
    ∧ (Clear { xs := [ra, rb] } s → rankOf 4 x s0 = .ok e →
      (few → exec (.csigrRank stl ra rb) s = .next (went stl (counted (remoteSend (asked 4 x) e tag
        4 x [BitVec.ofNat 64 (if rb = 0 then 1 else p.toNat % 2 ^ 32)] []))))
      ∧ (¬ few → exec (.csigrRank stl ra rb) s = .next (slept stl .retry s0)))
    ∧ (∀ ty, rankWordOk ty x.toNat = false → rankOf ty x s0 = .error .illegal)
    ∧ (∀ ty, rankWordOk ty x.toNat = true →
      rankEntry s0 (asidPart (me s0).asid) (x.toNat % 4096) = none → rankOf ty x s0 = .error .addr)
    ∧ (∀ k, Clear (chk 0) s →
      (rankOf 0 x s0 = .error k → exec (.rld stl rd ra rb) s = trap k x)
      ∧ (rankOf 1 x s0 = .error k → exec (.rst stl rd ra rb) s = trap k x)
      ∧ (rankOf 2 x s0 = .error k → exec (.ramo stl rd ra rb) s = trap k x))
    ∧ (∀ k, Clear (chk 5) s → rankOf 3 x s0 = .error k → exec (.spawnr stl rd ra rb) s = trap k x)
    ∧ (∀ k, Clear { xs := [ra, rb] } s → rankOf 4 x s0 = .error k →
      exec (.csigrRank stl ra rb) s = trap k x)
    ∧ (∀ k, Clear (chk 0) s →
      (pSpace p = 2 ∧ k = .addr) ∨ (pSpace p ≠ 2 ∧ pOff p % 8 ≠ 0 ∧ k = .misalign) →
      (rankOf 0 x s0 = .ok e → exec (.rld stl rd ra rb) s = trap k p)
      ∧ (rankOf 1 x s0 = .ok e → exec (.rst stl rd ra rb) s = trap k p))
    ∧ (pSpace p ≠ 2 ∨ pOff p % 64 ≠ 0 ∨ spadSize < pOff p + 64 →
      (Clear (chk 0) s → rankOf 2 x s0 = .ok e → exec (.ramo stl rd ra rb) s = trap .addr p)
      ∧ (Clear (chk 5) s → rankOf 3 x s0 = .ok e → exec (.spawnr stl rd ra rb) s = trap .addr p))

/-- A privileged word below its privilege traps PRIV. kill, idle and repart below the supervisor,
and roset, curtain, migr and an access to a package register below the hypervisor, trap PRIV with
TVAL the word and no effect; so does an access to a supervisor register by a user thread. -/
def Obligations.PrivilegedWordsTrapBelowTheirPrivilege : Prop :=
  ∀ (s : State) (stl : BitVec 3) (rd ra : BitVec 5) (pos : BitVec 4) (c : BitVec 9),
    let s0 := landed s
    let trap := Host.Outcome.next (φ := Fault) (ρ := Refusal)
      (trapThread s0 s.cur .priv (s.ir.setWidth 64))
    (me s0).leader = false → (me s0).repBody = none →
    ((me s0).priv = 0 → exec (.kill stl ra) s = trap ∧ exec (.idle stl) s = trap
      ∧ exec (.repart stl rd ra) s = trap)
    ∧ ((me s0).priv < 2 → exec (.roset stl ra pos) s = trap ∧ exec (.curtain stl rd ra) s = trap
      ∧ exec (.migr stl rd ra) s = trap)
    ∧ ((me s0).priv < c.toNat / 128 →
      (csrReadOk c = true → exec (.csrr stl rd c) s = trap)
      ∧ (csrWriteOk c = true → exec (.csrw stl rd ra c) s = trap)
      ∧ (csrSetOk ra c = true → exec (.csrs stl rd ra c) s = trap
        ∧ exec (.csrc stl rd ra c) s = trap))

/-- A leader and its understudy act once, or both trap. An instruction that a leader issues waits in
its queue for its understudy's copy, due 16 cycles later; a value from outside is taken at the
leader's issue, for both. At the understudy's issue the copy runs on the understudy's own context:
when both copies go on with the same action, it is done once, and the understudy's own context is
that of its copy; when they act differently, or only one traps, or both with different causes, both
trap REDUNDANCY with the word's pc in TPC, TVAL 4 where the traps differ, else the kind of the
action; the same trap is delivered to both. Where the places in the program differ, both trap with
TVAL 4 when the understudy's word cannot be fetched and 5 when the two words would change memory. A
trap REDUNDANCY of both threads sets TCAUSE, TVAL and TPC of each. Where each queue entry stands
between the two issues is the choice of log entry 9. -/
def Obligations.UnderstudyAgreesOrTraps : Prop :=
  (∀ (stl : BitVec 3) (c : Chk) (body : State → Ret) (s : State), (me (landed s)).leader = true →
    (∀ e q, (me s).lvq = e :: q → s.cycle < e.due) →
    let s0 := landed s
    let queued := fun (out : LvOut) (t : State) => onMe t fun th =>
      { th with lvq := th.lvq ++ [⟨t.cycle + 16, th.pc, t.ir, out⟩] }
    let held := fun (out : LvOut) (t : State) => onMe (queued out t) fun th =>
      { th with st := .issued (t.cycle + 16) }
    (s.cur.tile < 1024 → c.pair = .both → run stl c body s = .next (held .held s0))
    ∧ (∀ rd, c.pair = .takes rd →
      (∀ a, judge c body s0 = .go a → a.cur.tile < 1024 → s.cur.tile < 1024 →
        run stl c body s = .next (held (.took (rd.map (takenFrom a))) (leaderUndo s0 a)))
      ∧ (∀ a k v, judge c body s0 = .trap k v a → a.cur.tile < 1024 →
        run stl c body s = .next (held (.trapped k v) a))
      ∧ (∀ a w, judge c body s0 = .sleep w a →
        run stl c body s = .next (queued (.slept rd) (slept stl w a)))))
  ∧ (∀ (stl : BitVec 3) (c : Chk) (body : State → Ret) (s : State) (e : LvEntry) (q : List LvEntry),
    (me (landed s)).leader = true → (me s).lvq = e :: q → e.due ≤ s.cycle →
    let i := s.cur
    let s1 := landUpTo s (shadowOf s) s.cycle
    let s2 := onMe s1 fun th => { th with lvq := th.lvq.tail }
    let j := shadowOf s2
    let u := if c.instret = true then { thr s2 j with instret := (me s2).instret } else thr s2 j
    let lead := onMe s2 (Thread.later 16)
    let und := onMe s2 (ctxFrom u)
    let done := fun (t : State) => run stl c body s = Host.Outcome.next t
    let differ := fun (k : Nat) => done (redundancy s2 i j e.pc k)
    let agree := fun (r1 r2 : Ret) =>
      (∀ a b, r1 = .go a → r2 = .go b →
        (sameAction i j r1 r2 = true → done (mergeShadow (went stl a) (went stl b) i j))
        ∧ (sameAction i j r1 r2 = false → differ (mismatchKind s2 c j)))
      ∧ (∀ k v a k' v' b, r1 = .trap k v a → r2 = .trap k' v' b →
        (k = k' → done (trapAlike a i j k v v')) ∧ (k ≠ k' → differ 4))
      ∧ (∀ a k v b, (r1 = .go a → r2 = .trap k v b → differ 4)
        ∧ (r1 = .trap k v b → r2 = .go a → differ 4))
    (c.pair = .both → e.out = .held →
      let r1 := judge c body lead
      let r2 := judge (c.forShadow u) body und
      agree r1 r2
      ∧ (∀ w a w' b, r1 = .sleep w a → r2 = .sleep w' b →
        (sameAction i j r1 r2 = true → done (mergeShadow (slept stl w a) (slept stl w' b) i j))
        ∧ (sameAction i j r1 r2 = false → differ (mismatchKind s2 c j))))
    ∧ (∀ v, e.out = .took v →
      let a := putTaken v lead
      agree (.go a) (judge (c.forShadow u)
        (fun _ => .go (putTaken ((v.map (·.reg)).map (takenFrom a)) und)) und))
    ∧ (∀ k v, e.out = .trapped k v →
      agree (.trap k v s2) (judge (c.forShadow u) (fun _ => .trap k v s2) und))
    ∧ (∀ rd w n b, e.out = .slept rd →
      judge c (fun t => .go t) (onMe s2 (ctxFrom (thr s2 j))) = .go b →
      (thr s2 i).st = .waiting w n → done (setThr s2 j { thr s2 j with st := .waiting w (n + 16) })))
  ∧ (∀ (s : State) (pc : Word) (w1 : IWord),
    let i := s.cur
    let j := shadowOf s
    let s1 := leaderPop s
    let alone := fun (t : State) => onMe t fun th => { th with leader := false, st := .ready }
    (∀ t c, fetchWord s1 j (thr s1 j).pc = .fail t c →
      issueApart s pc w1 = .next (redundancy t i j pc 4))
    ∧ (∀ s2 w2 t1 t2, fetchWord s1 j (thr s1 j).pc = .word s2 w2 →
      runWord w1 (alone s1) = .next t1 →
      runWord w2 (alone (onMe { s2 with cur := i } (ctxFrom (thr s1 j)))) = .next t2 →
      (∀ n, (thr t1 i).st ≠ .trapped n ∧ (thr t2 i).st ≠ .trapped n) →
      ¬ SameMemory s1 t1 ∨ ¬ SameMemory s1 t2 →
      issueApart s pc w1 = .next (redundancy s1 i j pc 5)))
  ∧ (∀ (s : State) (i j : Tid) (pc : Word) (k : Nat), i.tile < 1024 → j.tile = i.tile →
    j.slot ≠ i.slot → leaveCues s i = s → (thr s i).inh = false → (thr s j).inh = false →
    (trapVector s i (decide ((thr s i).priv = 2))).en = true →
    (trapVector s j (decide ((thr s j).priv = 2))).en = true →
    let t := redundancy s i j pc k
    ∀ h ∈ [i, j], (thr t h).tcause = 0x0E ∧ (thr t h).tval = BitVec.ofNat 64 k
      ∧ (thr t h).tpc = pc ∧ (thr t h).st = .trapped (some 0) ∧ (thr t h).inh = true)

/-- The prompter picks a candidate of the highest effective priority. PROMPTER_ISSUE picks, of the
ready threads of the position's troupe that owe no understudy its copy, one that no other exceeds in effective priority and, among
those of equal priority, none precedes in becoming ready; it clears the pick's age, boost and yield
flag and makes it the issuing thread. At the cycle of an understudy, one rotation after its leader's
issue, that pair issues instead, and the candidates age. STALL_EXPIRY makes a thread ready whose
stall count has passed. ROTATION_END counts limits down by one rotation, makes a thread whose trap
has been delivered ready, and ages the candidates that were passed over. ROSET_APPLY writes its
entry's nibble and off bit. -/
def Obligations.PrompterPicksTheHighestPriority : Prop :=
  (∀ (s : State) (t k : Nat), shadowDue s t = some k →
    exec (.prompterIssue t) s = .next (markShadow s t k) ∧ (markShadow s t k).cur = ⟨t, k⟩
    ∧ ∀ e ∈ candidates s t, (thr (markShadow s t k) ⟨t, e.1⟩).candidate = true)
  ∧ (∀ (s : State) (t k : Nat), shadowDue s t = none → prompterPick s t = some k →
    exec (.prompterIssue t) s = .next (markIssue s t k) ∧ (markIssue s t k).cur = ⟨t, k⟩
    ∧ ∃ th, (k, th) ∈ candidates s t ∧ lvqHolds th = false
      ∧ ∀ e ∈ candidates s t, lvqHolds e.2 = false → effPrio e.2 < effPrio th
        ∨ (effPrio e.2 = effPrio th ∧ th.readySince ≤ e.2.readySince))
  ∧ (∀ (s : State) (t : Nat), shadowDue s t = none →
    (∀ e ∈ candidates s t, lvqHolds e.2 = true) → exec (.prompterIssue t) s = .next s)
  ∧ (∀ (s : State) (i : Tid) (u : Nat), (thr s i).st = .issued u → u ≤ s.cycle →
    exec (.stallExpiry i.tile i.slot) s
      = .next (setThr s i { thr s i with st := .ready, readySince := s.cycle }))
  ∧ (∀ (s : State) (i : Tid), smFind (tile s i.tile).threads i.slot ≠ none →
    let th := thr s i
    let step := (tile s i.tile).ageStep.toNat
    ∃ t, exec (.rotationEnd i.tile) s = .next t ∧ (thr t i).x = th.x ∧ (thr t i).pc = th.pc
      ∧ (th.st = .trapped (some 0) → (thr t i).st = .ready)
      ∧ (∀ n, th.st = .trapped (some (n + 1)) → (thr t i).st = .trapped (some n))
      ∧ ((tile s i.tile).stopped = false → ∀ c rd n from_,
          th.st = .waiting (.cueTimed c rd n) from_ →
          (thr t i).st = .waiting (.cueTimed c rd (n - 1)) from_)
      ∧ (th.candidate = false → (thr t i).age = th.age ∧ (thr t i).boost = th.boost)
      ∧ (th.candidate = true → step = th.age + 1 → th.prio + th.boost < 7 →
          (thr t i).age = 0 ∧ (thr t i).boost = th.boost + 1)
      ∧ (th.candidate = true → th.age + 1 < step →
          (thr t i).age = th.age + 1 ∧ (thr t i).boost = th.boost))
  ∧ (∀ (s : State) (t pos troupe : Nat) (on : Bool) (i : Tid),
    (tile s t).rosets = [(pos, troupe, on, i)] → pos < 16 → troupe < 16 →
    let s1 := updTile s t fun tl => rosetPut pos troupe on { tl with rosets := [] }
    exec (.rosetApply t) s = .next (if (thr s i).wait? = some .perform
      then complete s1 i (fun th => th) else s1)
    ∧ field (tile s1 t).runord.toNat (4 * pos + 3) (4 * pos) = troupe
    ∧ (tile s1 t).rosetOff.getLsbD pos = !on)

/-- A completed wait advances the pc and wakes the thread. Completing the waiting instruction of a
thread that leads no understudy first writes the earlier results that are due, applies the result,
moves the pc past the word, or to the next repetition, counts it in INSTRET and makes the thread
ready, or issued until the cycle that its stall count names; but for the place in the program, the
state and the time it became ready, nothing else changes. -/
def Obligations.CompletingAWaitWakesTheThread : Prop :=
  ∀ (s : State) (i : Tid) (f : Thread → Thread) (w : Wait) (from_ : Nat), i.tile < 1024 →
    let s0 := landUpTo s i s.cycle
    let th := f (thr s0 i)
    (thr s0 i).leader = false → th.st = .waiting w from_ →
    let u := thr (complete s i f) i
    complete s i f = setThr s0 i u
    ∧ u.st = (if s.cycle < from_ then .issued from_ else .ready) ∧ u.instret = th.instret + 1
    ∧ (th.repBody = none → u.pc = th.pc + 4 ∧ u.repidx = th.repidx)
    ∧ (th.repBody ≠ none → repNext th + 1 < repCnt th →
        u.pc = th.pc ∧ u.repidx = repWord (repCnt th) true (repNext th + 1)
        ∧ u.repBody = th.repBody)
    ∧ (th.repBody ≠ none → repCnt th ≤ repNext th + 1 →
        u.pc = th.pc + 8 ∧ u.repidx = 0 ∧ u.repBody = none)
    ∧ u = { th with st := u.st, pc := u.pc, instret := u.instret, repidx := u.repidx,
                    repBody := u.repBody, readySince := u.readySince, again := none }

/-- A reply completes the access that waits for it. ACCESS_REPLY takes the reply out of the network:
a load gets the value extended, an atomic the old value, vld and the gathers the vector, a wait for
a value the value, and the others complete; a failure traps its cause with the effective address, a
failed translation's sub-cause in PFCAUSE, and an uncorrectable word parks the thread. POSTED_ACK
lowers the tile's and the thread's count, STORE_PROBE_REPLY keeps the probe's answer, among at most
64, and puts the store into the write buffer, or traps the probe's failure, CUE_SIGNAL_ARRIVAL
signals and is acknowledged, and waits at a saved tile. That wait, at the inbox of the saved area,
is log 21 with R327 and R330. -/
def Obligations.RepliesReachTheirThreads : Prop :=
  ∀ (s : State) (id k tgt : Nat) (i : Tid), i.tile < 1024 →
    let s0 := dropPkt s id
    (∀ v w, pktOf s id = some ⟨k, i, tgt, .reply v none none⟩ → (thr s i).wait? = some w →
      (∀ rd n sg ea, w = .load rd n sg ea → exec (.accessReply id) s = .next (complete s0 i
        (fun th => setX th rd (if sg then BitVec.ofInt 64 (sgn (8 * n) v)
          else BitVec.ofNat 64 v))))
      ∧ (∀ rd n ea, w = .amo rd n ea → exec (.accessReply id) s = .next (complete s0 i
        (fun th => setX th rd (amoResult n v))))
      ∧ (∀ rd, w = .value rd → exec (.accessReply id) s = .next (complete s0 i
        (fun th => setX th rd (BitVec.ofNat 64 v))))
      ∧ (∀ vd n ea, (w = .vload vd n ea ∨ w = .vector vd) →
        exec (.accessReply id) s
          = .next (complete (vecLand s0 i vd (BitVec.ofNat 4096 v)) i (fun th => th)))
      ∧ (∀ rd ea arg, w = .spawn rd ea arg →
        exec (.accessReply id) s = .next (spawnLand s0 i rd ea arg v))
      ∧ (w = .done → exec (.accessReply id) s = .next (complete s0 i (fun th => th))))
    ∧ (∀ v src w, pktOf s id = some ⟨k, i, tgt, .reply v (some src) none⟩ →
      (thr s i).wait? = some w → exec (.accessReply id) s = .next (parkThread s0 i src))
    ∧ (∀ v b c sub w, pktOf s id = some ⟨k, i, tgt, .reply v b (some ⟨c, sub⟩)⟩ →
      (thr s i).wait? = some w → (thr s i).leader = false →
      (sub = 0 → exec (.accessReply id) s = .next (trapThread s0 i c w.ea))
      ∧ (sub ≠ 0 → exec (.accessReply id) s = .next (trapThread
        (setThr s0 i { thr s0 i with pfcause := BitVec.ofNat 8 sub }) i c w.ea)))
    ∧ (∀ off n asid priv fill data got, pktOf s id
        = some ⟨k, i, tgt, .gload off n asid priv [] fill data got false⟩ → ∀ rd sg ea,
      (thr s i).wait? = some (.load rd n sg ea) →
      let v := spanValue off n (data.map fun e => loadedUnit (tile s i.tile) got e.1 e.2)
      ∃ s1, exec (.accessReply id) s = .next (complete s1 i (fun th => setX th rd
          (if sg then BitVec.ofInt 64 (sgn (8 * n) v) else BitVec.ofNat 64 v)))
        ∧ s1.hbm = s.hbm ∧ (got = [] → s1 = s0))
    ∧ (∀ signal posted fail, pktOf s id = some ⟨k, i, tgt, .ack signal posted fail⟩ →
      exec (.postedAck id) s = .next (ackLand s0 i id signal posted fail)
      ∧ (posted = none → (thr s i).wait? = none → signal = true →
        exec (.postedAck id) s = .next (setThr s0 i
          { thr s i with postedN := (thr s i).postedN - 1,
                         failN := noteFail (thr s i).failN id fail }))
      ∧ (posted = none → (thr s i).wait? = none → signal = false →
        exec (.postedAck id) s = .next (setThr s0 i
          { thr s i with postedW := (thr s i).postedW - 1,
                         failW := noteFail (thr s i).failW id fail })))
    ∧ (∀ v b ea bytes pops, (thr s i).wait? = some (.probe ea bytes pops) →
      let keys := (spanPages (pOff ea) bytes.length).map (pageKey (thr s i).asid)
      let stored := storeSpan s0 i.tile (thr s i).asid (pOff ea) bytes.length (bytesNat bytes)
      (pktOf s id = some ⟨k, i, tgt, .reply v b none⟩ →
        (∀ s1, stored = some s1 → ∃ s2, exec (.storeProbeReply id) s
            = .next (retryTile (complete (popStreams s2 i pops) i (fun th => th)) i.tile)
          ∧ (tile s2 i.tile).wbuf = (tile s1 i.tile).wbuf
          ∧ (tile s2 i.tile).probed.length ≤ 64
          ∧ (keys.length ≤ 64 → ∀ x ∈ keys, x ∈ (tile s2 i.tile).probed))
        ∧ (stored = none → (thr s i).leader = false →
          exec (.storeProbeReply id) s = .next (trapThread s0 i .phaseLogFull ea)))
      ∧ (∀ f, pktOf s id = some ⟨k, i, tgt, .reply v b (some f)⟩ →
        exec (.storeProbeReply id) s = .next (failThread s0 i f ea)))
    ∧ (∀ t cue n x, pktOf s id = some ⟨k, i, tgt, .cueSig t cue n x⟩ →
      (t < savedBase → exec (.cueSignalArrival id) s
        = .next (cueSignal (setBody s id (.ack true none none)) (.tile t cue) n))
      ∧ (savedBase ≤ t → exec (.cueSignalArrival id) s = .next s))

/-- A port performs the oldest access of its source. REMOTE_PORT_ACCESS of the oldest access of its
source and target: a load is answered with the bytes there, with the kind of its place beside them
when a word of them is uncorrectable, which is charged to the partition of the place; a store writes
them and is acknowledged, an atomic writes its new value, where it has one, and is answered with the
old; a younger access waits. SEC_WRITEBACK clears the mark of a corrected word and charges it (the
moment is the model's choice, log 36), and VIEW_DROP drops a published unit. A gather or scatter
moves the elements of one unit at a time, of whichever bank (a free value, log 15), and then
answers. -/
def Obligations.PortsPerformInOrder : Prop :=
  (∀ (s : State) (k : Pkt) (place off src : Nat) (acc : PortAcc)
      (posted : Option (Nat × Word)),
    pktOf s k.id = some k → k.body = .port place off acc src posted →
    (oldestAtPort s k = true →
      (∀ n, acc = .load n → (placeRead s place off n).2 = false →
        exec (.remotePortAccess k.id) s
          = .next (setBody s k.id (.reply (placeRead s place off n).1 none none)))
      ∧ (∀ n, acc = .load n → (placeRead s place off n).2 = true →
        exec (.remotePortAccess k.id) s = .next (setBody (chargeSram s place 3) k.id
          (.reply (placeRead s place off n).1 (some (if place < 1024 then 1 else 2)) none)))
      ∧ (∀ bytes, acc = .store bytes → exec (.remotePortAccess k.id) s = .next (setBody
          (placeWrite s place off bytes.length (bytesNat bytes) 0 src) k.id
          (.ack false (posted.map (·.1)) none)))
      ∧ (∀ op n b c, acc = .amo op n b c → (placeRead s place off n).2 = false →
        let old := (placeRead s place off n).1
        let s1 := match amoWrites op n old b.toNat c.toNat with
          | some v => placeWrite s place off n v 1 src
          | none => s
        exec (.remotePortAccess k.id) s = .next (setBody s1 k.id (.reply old none none)))
      ∧ (∀ op, acc = .gather op → ∃ s1, s1 = { s with draws := s1.draws }
        ∧ (op.els ≠ [] → ∃ bank u, op.next bank = some u
          ∧ let r := gatherMove place u (fun t o v => placeWrite t place o op.sz v 0 src) op s1
            let elem := fun (l : Nat) => op.v.toNat / 2 ^ (8 * op.sz * l) % 2 ^ (8 * op.sz)
            exec (.remotePortAccess k.id) s
              = .next (setBody r.1 k.id (.port place off (.gather r.2) src posted))
            ∧ r.2.els = op.els.filter (fun e => e.2 / 64 != u)
            ∧ (∀ l o, op.els.filter (fun e => e.2 / 64 == u) = [(l, o)] →
              (op.write = true → r.1 = placeWrite s1 place o op.sz (elem l) 0 src)
              ∧ (op.write = false → r.1 = s1
                ∧ r.2.got = smSet op.got l (placeRead s1 place o op.sz).1)))
        ∧ (op.els = [] → op.bad = false → exec (.remotePortAccess k.id) s = .next (setBody s1 k.id
          (.reply (if op.write then 0 else op.value) none none)))))
    ∧ (oldestAtPort s k = false → exec (.remotePortAccess k.id) s = .next s))
  ∧ (∀ (s : State) (t w : Nat), t < 1024 → ∀ (of_ : Tile → Marks) (place : Nat),
    (of_ = (·.spadMarks) ∧ place = t) ∨ (of_ = (·.vMarks) ∧ place = 2048 + t)
      ∨ (of_ = (·.opMarks) ∧ place = 4096 + t) →
    ∃ u, exec (.secWriteback place w) s = .next u
    ∧ (of_ (tile u t)).corr = (of_ (tile s t)).corr.filter (fun x => x != w)
    ∧ (of_ (tile u t)).bad = (of_ (tile s t)).bad
    ∧ (tile u t).spad = (tile s t).spad ∧ (tile u t).vfile = (tile s t).vfile
    ∧ (tile u t).opmem = (tile s t).opmem ∧ u.hbm = (chargeSram s t 1).hbm)
  ∧ (∀ (s : State) (c w : Nat), c < 1024 → ∃ u, exec (.secWriteback (1024 + c) w) s = .next u
    ∧ (cluster u c).shmMarks.corr = (cluster s c).shmMarks.corr.filter (fun x => x != w)
    ∧ (cluster u c).shm = (cluster s c).shm ∧ u.hbm = (chargeSram s (1024 + c) 1).hbm)
  ∧ (∀ (s : State) (t key : Nat),
    ((unpublished (tile s t)).contains key = false →
      exec (.viewDrop t key) s = .next (dropView s t (· == key)))
    ∧ ((unpublished (tile s t)).contains key = true → exec (.viewDrop t key) s = .next s))

/-- Slices translate, fill, write back and hand on. SLICE_ACCESS of a load's unit that its line
holds takes it, and of one that it lacks asks for the fill; a probe that translates as a write is
answered, and one that fails gets the sub-cause; an atomic on a page of this rank goes on to its
memory-side unit at its physical address; a function's request is served, or gets an error
completion that changes nothing. SECTOR_FILL ends the load's wait for its fill, SECTOR_WRITEBACK
leaves a line without dirty sectors, MEMORY_SIDE_AMO replaces the old value and answers with it.
That a function's failed request changes nothing and is checked as a supervisor's is the model's
choice (log 35), and so is that an atomic sets D (log 38). -/
def Obligations.SlicesServeAccesses : Prop :=
  (∀ (s : State) (k : Pkt) (off n unit : Nat) (asid : BitVec 16) (priv : Nat) (todo : List Nat)
      (data : SMap Unit64) (got : SMap (Unit64 × Bool)) (bad : Bool),
    let a : Acc := { asid := asid, priv := priv, write := false, fetch := false, client := k.id }
    let o := unitOff unit
    pktOf s k.id = some k → s.heldPages.contains (pageKey asid o) = false →
    readsHad s a o 32 = none → readsHad s a (o + 32) 32 = none →
    k.body = .gload off n asid priv (unit :: todo) false data got bad →
    (∀ s1 t, translate s a o = (s1, .ok t) → pteState t.pte.toNat ≠ 1 → pteNC t.pte.toNat = false →
      lineHas s1 asid o 64 = false → exec (.sliceAccess k.id) s
        = .next (setBody s1 k.id (.gload off n asid priv (unit :: todo) true data got bad)))
    ∧ (∀ s1 t s2 s3 v1 v2, translate s a o = (s1, .ok t) →
      pteState t.pte.toNat = 1 ∨ pteNC t.pte.toNat = true ∨ lineHas s1 asid o 64 = true →
      readUnit s1 a o = (.val s2 v1 false false, .val s3 v2 false false) →
      exec (.sliceAccess k.id) s
        = .next (setBody (fwdDone s3 k.id) k.id (.gload off n asid priv todo false data
          (smSet got unit (⟨BitVec.ofNat 512 (v1 + v2 * 2 ^ 256), BitVec.allOnes 64⟩, true)) bad)))
    ∧ (∀ s1 sub, translate s a o = (s1, .error sub) →
      exec (.sliceAccess k.id) s = .next (failPkt s1 k.id sub)))
  ∧ (∀ (s : State) (k : Pkt) (off n : Nat) (asid : BitVec 16) (priv : Nat),
    let a : Acc := { asid := asid, priv := priv, write := true, fetch := false, client := k.id }
    pktOf s k.id = some k → k.body = .probe off n asid priv →
    (∀ o ∈ spanPages off n, s.heldPages.contains (pageKey asid o) = false) →
    (∀ s1, pagesTest s a (spanPages off n) = (s1, 0) →
      exec (.sliceAccess k.id) s = .next (setBody s1 k.id (.reply 0 none none)))
    ∧ (∀ s1 sub, pagesTest s a (spanPages off n) = (s1, sub) → sub ≠ 0 →
      exec (.sliceAccess k.id) s = .next (failPkt s1 k.id sub)))
  ∧ (∀ (s : State) (k : Pkt) (off op n gran : Nat) (asid : BitVec 16) (priv : Nat) (b c : Word),
    let a : Acc := { asid := asid, priv := priv, write := op != 0x0E, fetch := false,
                     client := k.id }
    pktOf s k.id = some k → k.body = .gamo off asid priv op n b c none gran →
    (∀ q ∈ s.fwds, q.client ≠ k.id) → s.heldPages.contains (pageKey asid off) = false →
    (∀ s1 t, translate s a off = (s1, .ok t) → pteState t.pte.toNat ≠ 1 →
      let pa := leafPa t.pte.toNat t.big off
      (unitBusy s1 k.id (pteGran t.pte.toNat) pa = true →
        exec (.sliceAccess k.id) s = .next s1)
      ∧ (unitBusy s1 k.id (pteGran t.pte.toNat) pa = false →
        exec (.sliceAccess k.id) s = .next (setBody
          (expelSector (if op = 0x0E then s1 else setDirty s1 t) asid off) k.id
          (.gamo off asid priv op n b c (some pa) (pteGran t.pte.toNat)))))
    ∧ (∀ s1 sub, translate s a off = (s1, .error sub) →
      exec (.sliceAccess k.id) s = .next (failPkt s1 k.id sub)))
  ∧ (∀ (s : State) (k : Pkt) (fn off size data : Nat) (asid : BitVec 16) (write : Bool),
    let a : Acc := { asid := asid, priv := 3, write := write, fetch := false, client := k.id }
    pktOf s k.id = some k → k.body = .vf fn asid write off size data → vfOldest s k.id fn = true →
    (2 ^ 52 < off + size → exec (.sliceAccess k.id) s = .next (dropPkt s k.id))
    ∧ (off + size ≤ 2 ^ 52 → ∀ s1 v bad,
      (if write then gWrite s a off size data (fullMask size) else gRead s a off size)
        = .ok s1 v bad →
      exec (.sliceAccess k.id) s = .next (dropPkt (fwdDone s1 k.id) k.id))
    ∧ (off + size ≤ 2 ^ 52 → ∀ s1 sub,
      (if write then gWrite s a off size data (fullMask size) else gRead s a off size)
        = .fault s1 sub →
      exec (.sliceAccess k.id) s = .next (dropPkt (fwdDone s k.id) k.id)))
  ∧ (∀ (s : State) (k : Pkt) (off n unit : Nat) (asid : BitVec 16) (priv : Nat) (todo : List Nat)
      (data : SMap Unit64) (got : SMap (Unit64 × Bool)) (bad : Bool),
    let a : Acc := { asid := asid, priv := priv, write := false, fetch := false, client := k.id }
    let s1 := match translate s a (unitOff unit) with
      | (s', .error _) => s'
      | (s', .ok t) => if pteState t.pte.toNat = 1 ∨ pteNC t.pte.toNat = true then s'
          else fillLine s' t (unitOff unit) (sectorsOf (unitOff unit) 64)
    pktOf s k.id = some k → k.body = .gload off n asid priv (unit :: todo) true data got bad →
    exec (.sectorFill k.id) s
      = .next (setBody s1 k.id (.gload off n asid priv (unit :: todo) false data got bad)))
  ∧ (∀ (s : State) (key : Nat) (l : Line), smFind s.lines key = some l →
    (lineHeld s key = true → exec (.sectorWriteback key) s = .next s)
    ∧ (lineHeld s key = false → ∃ t, exec (.sectorWriteback key) s = .next t
      ∧ smFind t.lines key = some { l with dirty := 0 }))
  ∧ (∀ (s : State) (k : Pkt) (off op n pa gran : Nat) (asid : BitVec 16) (priv : Nat) (b c : Word),
    pktOf s k.id = some k → k.body = .gamo off asid priv op n b c (some pa) gran →
    let r := sectorFetch (expelSector s asid off) (some (asidPart asid)) gran (pa / 65536)
      (pa % 65536 / 32)
    let old := getBytes r.1.1 (pa % 32) n
    (r.1.2 < 2 → amoWrites op n old b.toNat c.toNat = none →
      exec (.memorySideAmo k.id) s = .next (setBody r.2 k.id (.reply old none none)))
    ∧ (r.1.2 < 2 → ∀ v, amoWrites op n old b.toNat c.toNat = some v →
      exec (.memorySideAmo k.id) s = .next (setBody (gateTouched r.2
        { r.2 with hbm := physWrite r.2.hbm gran pa n v } pa) k.id (.reply old none none)))
    ∧ (2 ≤ r.1.2 →
      exec (.memorySideAmo k.id) s = .next (setBody r.2 k.id (.reply old (some 4) none))))

/-- Phases, IFENCE and the translation commands complete. PHASE_COMPLETE of a group that has arrived
publishes its tiles, performs the members' accesses as each names them, clears the tiles' views with
their probe answers and readies every member; with one still to arrive it changes nothing, and while
a publication waits the group goes on waiting. IFENCE_COMPLETE empties the instruction caches of its
scope. XL_INVPAGE, XL_RETIRE and XL_ACTIVATE drop translations, mark a generation retired or make it
the space's active one, and end with their status; XL_HARVEST reads and clears one page's D bit and
ends after the last. Which tiles an IFENCE's scope holds after a MOVE is the model's choice (log
14), and what RETIRE waits for and HARVEST does a page at a time are log 18. -/
def Obligations.PhasesAndTranslationCommandsComplete : Prop :=
  (∀ (s : State) (i : Tid) (scope : Nat) (pred succ : BitVec 6),
    (thr s i).wait? = some (.phase scope pred succ) →
    let g := phaseGroup s (thr s i) scope
    let s1 := (publishTiles s (groupTiles g)).1
    let cleared := fun (s : State) (t : Nat) =>
      updTile (clearView s t) t fun tl => { tl with probed := [] }
    (groupArrived g scope = false → exec (.phaseComplete i.tile i.slot) s = .next s)
    ∧ (groupArrived g scope = true → (publishTiles s (groupTiles g)).2 = true →
      (∀ s2, groupPerform g s1 = some s2 →
        exec (.phaseComplete i.tile i.slot) s = .next (g.foldl (fun s e => complete s e.1 id)
          ((groupTiles g).foldl cleared s2)))
      ∧ (groupPerform g s1 = none → exec (.phaseComplete i.tile i.slot) s = .next s1))
    ∧ (groupArrived g scope = true → (publishTiles s (groupTiles g)).2 = false →
      exec (.phaseComplete i.tile i.slot) s = .next s1))
  ∧ (∀ (s : State) (i : Tid) (scope : Nat), (thr s i).wait? = some (.ifence scope) →
    ∃ s1, exec (.ifenceComplete i.tile i.slot) s = .next (complete s1 i id)
      ∧ ∀ u, smFind s.tiles u ≠ none → (inScope s i.tile scope u = true → (tile s1 u).icache = [])
        ∧ (inScope s i.tile scope u = false → tile s1 u = tile s u))
  ∧ (∀ (s : State) (id : Nat) (c : XlCmd),
    let first := pOff c.va / 65536
    (xlOf s id 1 = some c → ∃ s1, exec (.xlInvpage id) s = .next (xlEnd s1 c 0)
      ∧ ∀ t ∈ s1.tlbs, t.asid = c.asid → t.big = false →
        t.page < first ∨ first + c.count ≤ t.page)
    ∧ (xlOf s id 3 = some c → (genActive s c.asid = true → exec (.xlRetire id) s
        = .next (xlEnd (physNote s 0 (spaceAt s c.asid)) c 2))
      ∧ (genActive s c.asid = false → asidHeld s c.asid = true →
        exec (.xlRetire id) s = .next s)
      ∧ (genActive s c.asid = false → asidHeld s c.asid = false →
        ∃ s1, exec (.xlRetire id) s = .next (xlEnd s1 c 0)
          ∧ isRetired s1 c.asid = true ∧ ∀ t ∈ s1.tlbs, t.asid ≠ c.asid))
    ∧ (xlOf s id 4 = some c → (isRetired s c.asid = false → exec (.xlActivate id) s
        = .next (xlEnd s c 1))
      ∧ (isRetired s c.asid = true → ∃ s1, exec (.xlActivate id) s = .next (xlEnd s1 c 0)
        ∧ isRetired s1 c.asid = false))
    ∧ (xlOf s id 5 = some c → (c.done < c.count →
        let r := harvestPage s c.asid (pOff c.va + 65536 * c.done)
        exec (.xlHarvest id) s = .next { r.1 with xl := r.1.xl.map fun x =>
          if x.id = id then
            { c with done := c.done + 1, fault := c.fault || r.2.isNone,
                     bits := c.bits + if r.2 = some true then 2 ^ c.done else 0 }
          else x })
      ∧ (c.count ≤ c.done → exec (.xlHarvest id) s = .next (harvestEnd s c))))

/-- Op packets run at their memory-side unit. An op packet that is its source's oldest, of a running
partition, well-formed, on a translated page of this rank, aligned, and at bytes that no other op
packet holds, runs: OP_AMO replies with the old value and writes the new one, and for an amocas
whose compare mismatches replies FAIL; OP_CAS2 and OP_CAS4 with matching words write and reply with
the old ones, else reply FAIL with the mask of words that differ; OP_LENQ appends its node to the
queue, OP_LDEQ takes the head or replies EMPTY, OP_CHASE reads the next word of its chain and
replies at its key, at the chain's end or at its limit of hops; a reserved OP gets ILLEGAL, as does
an ADDR whose SPACE is not 0 (the model's choice, log 38), a misaligned ADDR ALIGN.
FORWARDED_PAGE_ACCESS acts for another rank, and of a partition that does not run fails with LOST;
REMOTE_PAGE_FAIL ends the access that waits. The zero extension of a 32-bit old value, the node bits
[63:52] that are dropped, which hops CHASE counts and the order of a pair of words are the model's
choices too (log 38); that LENQ and LDEQ act in one step is log 29 (DEDUCED), and what an owner's
failure does to the access that waits log 28 (DEDUCED). -/
def Obligations.OpPacketsRunAtTheirUnit : Prop :=
  (∀ (s : State) (k : Pkt) (loc : Bool) (frm tag : Nat) (q : RReq),
    let p := reqOp q
    let a := reqAcc k.id q.part q.aspc q.priv p.writes
    let reply := fun (t : State) (ws : List Word) =>
      Host.Outcome.next (φ := Fault) (ρ := Refusal)
        (respond (fwdDone t k.id) k.id loc frm tag [] [wordsFlit ws] none)
    let node := fun (n f : Nat) => n % 8 = 0 ∧ n % 2 ^ 52 + f + 8 ≤ 2 ^ 52
    pktOf s k.id = some k → k.body = .rreq loc frm tag q → q.kind = tyRamo →
    reqOldest s k = true → partTakes s q.part = some true →
    (p.illegal = true → ¬ (0x10 ≤ p.op ∧ p.op ≤ 0x14) →
      exec (.opAmo k.id) s = reply s (opReply opIllegal 0 0 []))
    ∧ (p.illegal = false → s.heldPages.contains (pageKey a.asid p.off) = false →
      fwdHad s a (p.off / 32) (.op (p.w.map w64)) = none →
      ∀ s1 t, translate s a p.off = (s1, .ok t) → isRemote t = false →
      (p.off % p.align ≠ 0 → p.op ≤ 0x0E →
        exec (.opAmo k.id) s = reply s1 (opReply opAlign 0 0 []))
      ∧ (p.off % p.align = 0 →
        unitBusy s1 k.id (pteGran t.pte.toNat) (leafPa t.pte.toNat t.big p.off) = true →
        p.op ≤ 0x0E → exec (.opAmo k.id) s = .next s1)
      ∧ (p.off % p.align = 0 →
        unitBusy s1 k.id (pteGran t.pte.toNat) (leafPa t.pte.toNat t.big p.off) = false →
      (∀ s2 old, p.op ≤ 0x0E → unitRead s1 a p.off p.size = .ok s2 old false →
        let cas := p.op = 0x09
        let new := amoWrites p.op p.size old (if cas then p.word 3 else p.word 2) (p.word 2)
        (new = none → exec (.opAmo k.id) s
          = reply s2 (opReply (if cas then opFail else 0) 0 0 [old]))
        ∧ (∀ v s3 z, new = some v → unitWrite s2 a p.off p.size v = .ok s3 z false →
          exec (.opAmo k.id) s = reply s3 (opReply 0 0 0 [old])))
      ∧ (∀ s2 old, (p.op = 0x10 ∨ p.op = 0x11) → unitRead s1 a p.off 16 = .ok s2 old false →
        let i : Instr := if p.op = 0x10 then .opCas2 k.id else .opCas4 k.id
        let m := diffMask (if p.op = 0x10 then 64 else 32) old (p.word 2 + 2 ^ 64 * p.word 3)
        let vals := [old % 2 ^ 64, old / 2 ^ 64]
        (m ≠ 0 → exec i s = reply s2 (opReply opFail 0 m vals))
        ∧ (m = 0 → ∀ s3 z,
          unitWrite s2 a p.off 16 (p.word 4 + 2 ^ 64 * p.word 5) = .ok s3 z false →
          exec i s = reply s3 (opReply 0 0 0 vals)))
      ∧ (p.op = 0x12 → ∀ s2 old, unitRead s1 a p.off 16 = .ok s2 old false →
        let new := p.word 2
        let tail := old / 2 ^ 64
        node new p.noff → ∀ s3 z,
        unitWrite s2 a (new % 2 ^ 52 + p.noff) 8 0 = .ok s3 z false →
        (tail = 0 → ∀ s4 y, unitWrite s3 a p.off 16 (new + 2 ^ 64 * new) = .ok s4 y false →
          exec (.opLenq k.id) s = reply s4 (opReply 0 0 0 []))
        ∧ (tail ≠ 0 → node tail p.noff → ∀ s4 y s5 x,
          unitWrite s3 a (tail % 2 ^ 52 + p.noff) 8 new = .ok s4 y false →
          unitWrite s4 a p.off 16 (old % 2 ^ 64 + 2 ^ 64 * new) = .ok s5 x false →
          exec (.opLenq k.id) s = reply s5 (opReply 0 0 0 [])))
      ∧ (p.op = 0x13 → ∀ s2 old, unitRead s1 a p.off 16 = .ok s2 old false →
        let head := old % 2 ^ 64
        (head = 0 → exec (.opLdeq k.id) s = reply s2 (opReply opEmpty 0 0 []))
        ∧ (head ≠ 0 → node head p.noff → ∀ s3 next s4 z,
          unitRead s2 a (head % 2 ^ 52 + p.noff) 8 = .ok s3 next false →
          unitWrite s3 a p.off 16 (next + 2 ^ 64 * (if next = 0 then 0 else old / 2 ^ 64))
            = .ok s4 z false →
          exec (.opLdeq k.id) s = reply s4 (opReply 0 0 0 [head])))
      ∧ (p.op = 0x14 → 
        let c := reqChase q
        let f := if c.onKey then p.koff else p.noff
        let on := fun (t : State) (c' : Chase) => exec (.opChase k.id) s
          = .next (setBody (fwdDone t k.id) k.id (.rreq loc frm tag (putChase q c')))
        node c.node f → ∀ s2 v, unitRead s1 a (c.node % 2 ^ 52 + f) 8 = .ok s2 v false →
        (c.onKey = true →
          (v = p.word 2 → exec (.opChase k.id) s = reply s2 (opReply 0 c.hop 0 [c.node]))
          ∧ (v ≠ p.word 2 → on s2 { c with onKey := false }))
        ∧ (c.onKey = false →
          (v = 0 → exec (.opChase k.id) s = reply s2 (opReply opEnd (c.hop + 1) 0 []))
          ∧ (v ≠ 0 → p.hops ≤ c.hop + 1 →
            exec (.opChase k.id) s = reply s2 (opReply opLimit (c.hop + 1) 0 [v]))
          ∧ (v ≠ 0 → c.hop + 1 < p.hops →
            on s2 { node := v, hop := c.hop + 1, onKey := true }))))))
  ∧ (∀ (s : State) (k : Pkt) (loc : Bool) (op : FwdOp) (off p aspc priv frm tag : Nat),
    pktOf s k.id = some k → k.body = .fwdHere loc op off p aspc priv frm tag →
    fwdOldest s k.id frm off = true →
    (partTakes s p = some false → exec (.forwardedPageAccess k.id) s
      = .next (respond s k.id loc frm tag [] [] (some lostFailure)))
    ∧ (partTakes s p = some true →
      (∀ s1 hdr flits, fwdAct s (reqAcc k.id p aspc priv false) off op = .ok s1 hdr flits →
        exec (.forwardedPageAccess k.id) s
          = .next (respond (fwdDone s1 k.id) k.id loc frm tag hdr flits none))
      ∧ (∀ s1 v bad, op = .read → gRead s (reqAcc k.id p aspc priv false) off 32 = .ok s1 v bad →
        exec (.forwardedPageAccess k.id) s = .next (respond (fwdDone s1 k.id) k.id loc frm tag
          ((chunks 64 4 v).map w64 ++ [if bad then 1 else 0]) [] none))
      ∧ (∀ s1 f, fwdAct s (reqAcc k.id p aspc priv false) off op = .fail s1 f →
        exec (.forwardedPageAccess k.id) s
          = .next (respond (fwdDone s1 k.id) k.id loc frm tag [] [] (some f))))
    ∧ (partTakes s p = none → exec (.forwardedPageAccess k.id) s = .next s))
  ∧ (∀ (s : State) (k : Pkt) (tag : Nat) (o : Outst) (q : FwdReq),
    pktOf s k.id = some k → k.body = .fwdFail tag →
    s.outst.find? (fun o => o.rtag == tag) = some o →
    let s1 := outstDone (dropPkt s k.id) tag
    (o.kind = 6 → exec (.remotePageFail k.id) s = .next (pullFail s1 o.fail.toNat swLost))
    ∧ (o.kind ≠ 6 → s1.fwds.find? (fun q => q.rtag == tag) = some q →
      exec (.remotePageFail k.id) s = .next (loseRemote
        { s1 with fwds := s1.fwds.map fun x =>
          if x.rtag = tag then { x with answer := some .lost } else x } q.asid (q.unit * 32))))

/-- The matrix engine accepts, starts and completes commands. MATRIX_ACCEPT moves the oldest arrival
of a tile into its queue of 16 and wakes its thread, or signals its refusal; with 16 queued it
changes nothing. MATRIX_START starts a ready command, and an mload then sets its slot's tag.
MATRIX_COMPLETE of a started mzero clears its accumulator, of a started mma leaves the product of
its slots, of a started mload or mtov does the rows that are left, and each ends with its signal;
MGEMM_STEP counts a step or ends the command with its status and DONE. MCLAIM_GRANT gives free
resources to the claim's thread and MREL_FREE frees those that no command of the thread names. That
a command does its work in the step of its completion, with the rows that are left, and an mgemm a
step at a time, is the model's choice of moments (log 17); that the resources of a thread that has
ended are freed with the last command that names them is log 31 (DEDUCED). -/
def Obligations.MatrixEngineRunsItsQueue : Prop :=
  (∀ (s : State) (t : Nat) (c : Command) (rest : List Command),
    (tile s t).mArrivals = c :: rest →
    let taken := updTile s t fun tl => freeGone { tl with mArrivals := rest }
    (16 ≤ (tile s t).mQueue.length → exec (.matrixAccept t) s = .next s)
    ∧ ((tile s t).mQueue.length < 16 →
      (∀ st, refuseMatrix s t (tile s t).mQueue c = some st → c.snap.task = none →
        exec (.matrixAccept t) s
          = .next (acceptThread (cmdSignal taken c.snap.tid 0 c.snap.cue (some (st, 0))) c))
      ∧ (refuseMatrix s t (tile s t).mQueue c = none → c.snap.task = none →
        exec (.matrixAccept t) s = .next (acceptThread (portMore (updTile s t fun tl =>
          { tl with mArrivals := rest, mQueue := tl.mQueue ++ [c] }) c.snap.tid 0) c))))
  ∧ (∀ (s : State) (t : Nat) (c : Command), matrixCmd s t c.id = some c →
    (matrixReady (tile s t) c = false → exec (.matrixStart t c.id) s = .next s)
    ∧ (matrixReady (tile s t) c = true → t < 1024 → ∃ u, exec (.matrixStart t c.id) s = .next u
      ∧ (∀ d ∈ (tile u t).mQueue, d.id = c.id → d.started = true)
      ∧ (c.cmd = cmdLoad → presentTag (tile u t) (c.a.toNat % 16) = ptrTag c.b)
      ∧ (c.cmd ≠ cmdLoad → (tile u t).slotTag = (tile s t).slotTag)))
  ∧ (∀ (s : State) (t : Nat) (c : Command), matrixCmd s t c.id = some c →
    (c.started = false → exec (.matrixComplete t c.id) s = .next s)
    ∧ (c.started = true → c.cmd = cmdZero → exec (.matrixComplete t c.id) s
      = .next (matrixFinish (updTile s t fun tl =>
          let tl := opClear tl accBase (accAt (c.a.toNat % 4) 0) 65536
          { tl with acc := clearRange tl.acc (accAt (c.a.toNat % 4) 0) 65536 }) t c none))
    ∧ (c.started = true → c.cmd = cmdMma →
      (∀ tl, denseStep (tile s t) (c.a.toNat % 16) (c.b.toNat % 16) (c.e 0 % 4) = .ok tl →
        exec (.matrixComplete t c.id) s = .next (matrixFinish (setTile s t tl) t c none))
      ∧ (pairOf (presentTag (tile s t) (c.a.toNat % 16)) (presentTag (tile s t) (c.b.toNat % 16))
          = none → exec (.matrixComplete t c.id) s
            = .next (matrixFinish (setTile s t (tile s t)) t c (some (0x0904, 0)))))
    ∧ (c.started = true → c.cmd = cmdMmas → ∀ tl st,
      sparseStep (tile s t) (sparseArgs c) = (tl, st) →
      (st = none → exec (.matrixComplete t c.id) s
        = .next (matrixFinish (setTile s t tl) t c none))
      ∧ (∀ code done, st = some (code, done) → code ≠ 0x0D00 → exec (.matrixComplete t c.id) s
        = .next (matrixFinish (setTile s t tl) t c (some (code, done)))))
    ∧ (c.started = true → c.cmd = cmdDrain → ∀ d u,
      matrixRows t (rowCount c - c.done) c s = .done d u → ∀ d' u', drainLen t d u = .done d' u' →
      exec (.matrixComplete t c.id) s = .next (matrixFinish u' t d' none))
    ∧ (c.started = true → c.cmd = cmdDrain → ∀ d u st,
      matrixRows t (rowCount c - c.done) c s = .stop d u st →
      exec (.matrixComplete t c.id) s = .next (matrixFinish u t d (some (st, d.done))))
    ∧ (c.started = true → c.cmd = cmdLoad ∨ c.cmd = cmdTov →
      let rows := if c.cmd = cmdTov then field (c.e 0) 15 8
        else if field (c.e 0) 15 8 = 0 then 128 else field (c.e 0) 15 8
      (∀ d u, matrixRows t (rows - c.done) c s = .done d u →
        exec (.matrixComplete t c.id) s = .next (matrixFinish u t d none))
      ∧ (∀ d u st, matrixRows t (rows - c.done) c s = .stop d u st →
        exec (.matrixComplete t c.id) s = .next (matrixFinish u t d (some (st, d.done))))
      ∧ (rows ≤ c.done → exec (.matrixComplete t c.id) s = .next (matrixFinish s t c none)))
    ∧ (c.started = true → c.cmd = cmdGemm → c.done < gemmSteps c →
      exec (.matrixComplete t c.id) s = .next s
      ∧ (∀ s1 a b, gemmStep t c s = (s1, .ok (a, b)) → exec (.mgemmStep t c.id) s
          = .next (putMatrixCmd s1 t
            { c with done := c.done + 1, srcA := a, srcB := b, seen := [] }))
      ∧ (∀ s1 st, gemmStep t c s = (s1, .error st) → exec (.mgemmStep t c.id) s
          = .next (matrixFinish s1 t c (some (st, c.done)))))
    ∧ (c.started = true → c.cmd = cmdGemm → gemmSteps c ≤ c.done →
      exec (.mgemmStep t c.id) s = .next s
      ∧ exec (.matrixComplete t c.id) s = .next (matrixFinish s t c none)))
  ∧ (∀ (s : State) (t : Nat) (c : Claim), t < 1024 →
    (tile s t).claims.find? (fun d => d.id == c.id) = some c →
    (claimReady (tile s t) c = false → exec (.mclaimGrant t c.id) s = .next s)
    ∧ (claimReady (tile s t) c = true → ∃ u, exec (.mclaimGrant t c.id) s
        = .next (complete u c.tid (fun th => th))
      ∧ (tile u t).claims = (tile s t).claims.filter (fun d => d.id != c.id)
      ∧ ∀ n < 20, smFind (tile u t).holders n
          = if bitOf c.mask n then some (.thread c.tid) else smFind (tile s t).holders n))
  ∧ (∀ (s : State) (t : Nat) (c : Claim), t < 1024 →
    (tile s t).releases.find? (fun d => d.id == c.id) = some c →
    (releaseReady (tile s t) c = false → exec (.mrelFree t c.id) s = .next s)
    ∧ (releaseReady (tile s t) c = true → ∃ u, exec (.mrelFree t c.id) s
        = .next (complete u c.tid (fun th => th))
      ∧ (tile u t).releases = (tile s t).releases.filter (fun d => d.id != c.id)
      ∧ ∀ e, e ∈ (tile u t).holders ↔ e ∈ (tile s t).holders ∧ bitOf c.mask e.1 = false))

/-- The stagehand, the stage manager, the swap engine and the stream unit do their work.
STAGEHAND_ACCEPT queues the oldest arrival, refuses it or completes one with nothing to move;
STAGEHAND_START runs the oldest queued command while fewer than 8 run; STAGEHAND_COMPLETE moves the
elements and signals the end. TASK_START starts the head of the queue whose turn it is, and
TASK_RETIRE frees the resources of a finished task and signals its poster. SWAP_ACCEPT makes an
entry per record or refuses the command with 0xFF; SWAP_ENTRY_DONE ends an entry whose record cannot
be read with 0xFE, and one whose page has moved or failed with its status, the page table entry and
the return place written; FLASH_UNIT_REPLY counts a unit or records the flash error. STREAM_FETCH
puts the next entry into the FIFO and STREAM_WRITE writes the oldest pushed one. That the rest of a
copy moves in the step of its completion is log 17 (DESIGN CHOICE), that stream units are read ahead
log 16, the charge of a bad stream entry log 36, and the moment at which DONE and LASTST change log
33. -/
def Obligations.ClusterUnitsRunTheirQueues : Prop :=
  (∀ (s : State) (k : Nat) (c : Command), shNext s (cluster s k).shArrivals = some c →
    let s1 := updCluster s k fun cl =>
      { cl with shArrivals := cl.shArrivals.filter (fun d => d.id != c.id) }
    (64 ≤ (cluster s k).shQueue.length → exec (.stagehandAccept k) s = .next s)
    ∧ ((cluster s k).shQueue.length < 64 → copyTotal c = 0 →
      exec (.stagehandAccept k) s = .next (acceptThread (copyEnd s1 c none) c))
    ∧ ((cluster s k).shQueue.length < 64 → copyTotal c ≠ 0 →
      (∀ st, refuseCopy s c = some st →
        exec (.stagehandAccept k) s = .next (acceptThread (copyEnd s1 c (some (st, 0))) c))
      ∧ (refuseCopy s c = none → exec (.stagehandAccept k) s = .next (acceptThread
          (updCluster s1 k fun cl => { cl with shQueue := cl.shQueue ++ [c] }) c))))
  ∧ (∀ (s : State) (k : Nat) (c : Command), shNext s (cluster s k).shQueue = some c →
    (8 ≤ (cluster s k).shRunning.length → exec (.stagehandStart k) s = .next s)
    ∧ ((cluster s k).shRunning.length < 8 → exec (.stagehandStart k) s
      = .next (updCluster s k fun cl =>
        { cl with shQueue := cl.shQueue.filter (fun d => d.id != c.id),
                  shRunning := cl.shRunning ++ [{ c with started := true }] })))
  ∧ (∀ (s : State) (k : Nat) (c : Command),
    (cluster s k).shRunning.find? (fun d => d.id == c.id) = some c →
    let fin := fun (t : State) (d : Command) => updCluster t k fun cl =>
      { cl with shRunning := cl.shRunning.filter (fun x => x.id != d.id) }
    (∀ d t, copyRun (copyTotal c - c.done) c s = .done d t →
      exec (.stagehandComplete k c.id) s = .next (copyEnd (fin t d) d none))
    ∧ (∀ d t st, copyRun (copyTotal c - c.done) c s = .stop d t st →
      exec (.stagehandComplete k c.id) s = .next (copyEnd (fin t d) d (some (st, d.done))))
    ∧ (copyTotal c ≤ c.done → copyScaled c = false → exec (.stagehandComplete k c.id) s
        = .next (copyEnd (fin s c) c none)))
  ∧ (∀ (s : State) (k q : Nat) (t : Task), k < 64 → nextQueue s k = some q →
    queueHead (cluster s k) q = some t → t.port = 1 → ∃ u, exec (.taskStart k q) s = .next u
      ∧ (cluster u k).waiting = (cluster s k).waiting.filter (fun x => x.id != t.id)
      ∧ (cluster u k).running = (cluster s k).running ++ [{ t with tile := 0 }]
      ∧ (cluster u k).shArrivals = (cluster s k).shArrivals ++ [taskCommand t 0 s.fresh]
      ∧ (cluster u k).lastQueue = q)
  ∧ (∀ (s : State) (k q : Nat), nextQueue s k ≠ some q → exec (.taskStart k q) s = .next s)
  ∧ (∀ (s : State) (k : Nat) (t : Task) (done : Nat),
    (cluster s k).running.find? (fun x => x.id == t.id) = some t → t.finished = some (0, done) →
    let s1 := updCluster s k fun c =>
      { c with running := c.running.filter (fun x => x.id != t.id),
               flushes := c.flushes.map (fun f =>
                 (f.1, f.2.1, f.2.2.1, f.2.2.2.filter (· != t.id))) }
    let s2 := if t.port = 0 then updTile s1 t.tile fun tl =>
      { tl with holders := tl.holders.filter (fun h => h.2 != .task t.id) } else s1
    exec (.taskRetire k t.id) s = .next (queuesMoved (taskSignal s2 t none) k))
  ∧ (∀ (s : State) (die : Nat) (c : Command),
    s.swapArrivals.find? (fun e => e.1 == die) = some (die, c) →
    (s.swapQueue.filter (fun e => e.1 == die)).length < 64 →
    let s1 := { s with swapArrivals := s.swapArrivals.filter (fun e => e.2.id != c.id) }
    let n := c.b.toNat
    (swapRefused c = false → exec (.swapAccept die) s = .next (acceptThread { s1 with
      swapQueue := s.swapQueue ++ [(die, c)], fresh := s.fresh + n,
      swapEntries := s.swapEntries
        ++ (List.range n).map (fun i => SwapEntry.fresh (s.fresh + i) c i) } c))
    ∧ (swapRefused c = true → departed s c.snap.tid = false → exec (.swapAccept die) s
      = .next (acceptThread (cmdSignal (portLess s1 c.snap.tid 3) c.snap.tid 3 c.snap.cue
          (some (0xFF, 0))) c)))
  ∧ (∀ (s : State) (e : SwapEntry), s.swapEntries.find? (fun x => x.id == e.id) = some e →
    (e.stage = 0 → (∀ s1 v, agentRead s (swapAgent s e) e.rec_ 32 = .ok s1 v true →
      exec (.swapEntryDone e.id) s = .next (swapSignal (swapVia s1 e) e 0xFE)))
    ∧ (e.stage = 2 → e.op = cmdSwpout → e.status = 0 → exec (.swapEntryDone e.id) s
      = .next (swapEnd (poolReturn s (asidPart e.snap.asid) e.place (some e.frame)) e 4 0))
    ∧ (e.stage = 2 → e.op = cmdSwpin → e.status ≠ 0 → exec (.swapEntryDone e.id) s
      = .next (swapEnd (poolReturn s (asidPart e.snap.asid) e.place (some e.frame)) e 4 e.status))
    ∧ (e.stage = 2 → e.op = cmdSwpin → e.status = 0 → exec (.swapEntryDone e.id) s
      = .next (swapEnd (poolReturn (setPte s e.pteAt fun x =>
          withField (withField (withField (pteResident e.frame x) 59 57 e.gran) 52 52 0) 51 44 0)
          (asidPart e.snap.asid) e.place none) e 4 0))
    ∧ ((e.stage = 4 ∨ e.stage = 5) → ∀ s1 v bad,
      agentWrite s (swapAgent s e) (pWith e.rec_ (pOff e.rec_ + 20)) 4 e.status = .ok s1 v bad →
      exec (.swapEntryDone e.id) s = .next (swapSignal (swapVia s1 e) e e.status))
    ∧ (∀ (err : Bool) (data : BitVec 32768), e.stage = 1 → e.op ≠ cmdSwppull →
      (err = true → exec (.flashUnitReply e.id err data) s
        = .next (setEntry s { e with stage := 2, status := 3 }))
      ∧ (err = false → ∃ u, exec (.flashUnitReply e.id err data) s = .next (setEntry u
          { e with unitsLeft := e.unitsLeft - 1, stage := if e.unitsLeft ≤ 1 then 2 else 1 })
        ∧ (e.op = cmdSwpout → u = readSectors s (asidPart e.snap.asid) (swapGran s e) e.frame
            (128 * (e.len - e.unitsLeft)) 128)
        ∧ (e.op = cmdSwpin → u = { s with hbm := u.hbm }))))
  ∧ (∀ (s : State) (i : Tid) (n : Nat) (b : Stream), smFind (thr s i).streams n = some b →
    (streamFetches b = true →
      (∀ v, streamEntry s i b b.next = .ok v → exec (.streamFetch i.tile i.slot n) s
        = .next (retryTile (setStream s i n
            { b with fifo := b.fifo ++ [{ n := b.next, v := v, bad := false }], next := b.next + 1,
                     seen := b.seen.filter (fun e => e.1 / 2 ^ 40 != b.next % 4) }) i.tile))
      ∧ (∀ c, streamEntry s i b b.next = .error c → b.err = 0 →
        exec (.streamFetch i.tile i.slot n) s = .next (retryTile (setStream
            (if c = .uncorr then chargeSram s i.tile 3 else s) i n
            { b with marked := true, seen := [], next := b.next + 1, err := c.code }) i.tile)))
    ∧ (∀ e q, b.kind = 1 → b.st ≠ 3 → b.fifo = e :: q →
      (∀ s1, streamPut s i b e.n e.v = .ok s1 → exec (.streamWrite i.tile i.slot n) s
        = .next (fenceWake (retryTile (setStream s1 i n { b with fifo := q }) i.tile) i))
      ∧ (∀ c, streamPut s i b e.n e.v = .error c → b.err = 0 → exec (.streamWrite i.tile i.slot n) s
        = .next (fenceWake (retryTile (setStream s i n { b with st := 3, err := c.code }) i.tile)
          i))))

/-- Limits, deliveries and pair-merge arrivals. CWAITT_LIMIT at the end of a limit takes the waiter
off its cue, writes 0 and serves the others, and RECVT_LIMIT writes the mailbox count.
MESSAGE_DELIVERY puts a message at the end of a mailbox with room and ends its sender's wait,
discards it where no thread lives, and holds it for a full mailbox. EVENT_DELIVERY moves a held
event to a mailbox with room, with LOSS where one to that thread has been discarded since.
PMX_CONTRIBUTION merges a partial value once and passes it on, or completes the last participant, or
with the final value one that has sent or merged its part; one that differs from what its KEY has
issued there is discarded, an uncorrectable one parks the participant (source 6 of R314) and is
charged (log 36), and one whose KEY nobody there has issued stays only while its sender's pmx goes
on and a thread of its launch there may still issue it (log 30); one for a saved tile stays until
its restore (R327, R330, log 21). PMSEND_ARRIVAL waits while the eight entries of the target are
taken, and else gives the vector to one of the waiting pmrecv, whichever (a free value, log 15), or
puts it into a free entry. -/
def Obligations.CueAndMessageEvents : Prop :=
  (∀ (s : State) (i : Tid) (r : CueRef) (rd n : Nat),
    ((thr s i).wait? = some (.cueTimed r rd 0) →
      let s1 := complete (cueLeave s r i) i (fun th => setX th rd 0)
      exec (.cwaittLimit i.tile i.slot) s = .next (cueServe s1 r (getCue s1 r).waiters))
    ∧ ((thr s i).wait? = some (.cueTimed r rd (n + 1)) →
      exec (.cwaittLimit i.tile i.slot) s = .next s)
    ∧ ((thr s i).wait? = some (.recvt rd 0) → exec (.recvtLimit i.tile i.slot) s
      = .next (complete s i (fun th => setX th rd (BitVec.ofNat 64 th.mailbox.length))))
    ∧ ((thr s i).wait? = some (.recvt rd (n + 1)) →
      exec (.recvtLimit i.tile i.slot) s = .next s))
  ∧ (∀ (s : State) (k : Pkt) (j : Tid) (v : Word), pktOf s k.id = some k → k.body = .msg j v →
    let to_ := homePlace s j
    let sent := fun (t : State) => if (thr t k.src).wait? = some .send
      then complete t k.src (fun th => th) else t
    departed s to_ = false →
    (mailLive s to_ = false → exec (.messageDelivery k.id) s = .next (sent (dropPkt s k.id)))
    ∧ (mailLive s to_ = true → (thr s to_).mailbox.length < 8 → exec (.messageDelivery k.id) s
        = .next (sent (mailPut (dropPkt s k.id) to_ v)))
    ∧ (mailLive s to_ = true → 8 ≤ (thr s to_).mailbox.length →
      exec (.messageDelivery k.id) s = .next s))
  ∧ (∀ (s : State) (t : Nat) (i : Tid) (e : Word) (rest : List (Tid × Word)), mailLive s i = true →
    (thr s i).mailbox.length < 8 →
    (t < 1024 → (tile s t).heldEvents = (i, e) :: rest →
      let s1 := updTile s t fun tl => { tl with heldEvents := rest }
      (i.slot ∉ (tile s1 i.tile).loss → exec (.eventDelivery t) s = .next (mailPut s1 i e))
      ∧ (i.slot ∈ (tile s1 i.tile).loss → exec (.eventDelivery t) s
        = .next (mailPut (updTile s1 i.tile fun tl =>
          { tl with loss := tl.loss.filter (fun k => k != i.slot) }) i (e ||| 2 ^ 55))))
    ∧ (1024 ≤ t → s.hypEvents = (i, e) :: rest →
      let s1 := { s with hypEvents := rest }
      (i ∉ s.hypLoss → exec (.eventDelivery t) s = .next (mailPut s1 i e))
      ∧ (i ∈ s.hypLoss → exec (.eventDelivery t) s = .next (mailPut
        { s1 with hypLoss := s.hypLoss.filter (fun k => k != i) } i (e ||| 2 ^ 55)))))
  ∧ (∀ (s : State) (k : Pkt) (t key base n idx : Nat) (dbl final : Bool) (v : VWord) (bad : Bool),
    pktOf s k.id = some k → k.body = .pmx t key base n idx dbl final v bad →
    let s0 := dropPkt s k.id
    (savedBase ≤ t → exec (.pmxContribution k.id) s = .next s)
    ∧ (t < savedBase → final = false → pmxSends s k.src key = false →
      exec (.pmxContribution k.id) s = .next s0)
    ∧ (t < savedBase → final = true ∨ pmxSends s k.src key = true →
      (∀ (i : Tid) (base' n' idx' vd : Nat) (dbl' : Bool) (own : Option VWord),
        (pmxWaits s t).find? (fun w => pmxKey w.2 == some key)
          = some (i, .pmx key base' n' idx' vd dbl' own) →
        (base = base' ∧ n = n' ∧ idx = idx' ∧ dbl = dbl' →
          (final = true → own = none → bad = false →
            exec (.pmxContribution k.id) s = .next (pmxDone s0 i vd v))
          ∧ (final = true → own ≠ none → exec (.pmxContribution k.id) s = .next s0)
          ∧ (∀ p, final = false → own = some p → bad = false → exec (.pmxContribution k.id) s
            = .next (pmxMerge s0 i key base n idx vd dbl p v))
          ∧ (final = false → own = none → exec (.pmxContribution k.id) s = .next s)
          ∧ (bad = true → (final = true ↔ own = none) → exec (.pmxContribution k.id) s
            = .next (retryTile (parkThread (chargeSram s0 t 3) i 6) t)))
        ∧ (¬ (base = base' ∧ n = n' ∧ idx = idx' ∧ dbl = dbl') →
          exec (.pmxContribution k.id) s = .next s0))
      ∧ ((pmxWaits s t).find? (fun w => pmxKey w.2 == some key) = none →
        (final = false → pmxAwaited s k.src t = true → exec (.pmxContribution k.id) s = .next s)
        ∧ (final = true ∨ pmxAwaited s k.src t = false →
          exec (.pmxContribution k.id) s = .next s0))))
  ∧ (∀ (s : State) (k : Pkt) (t src key : Nat) (v : VWord), pktOf s k.id = some k →
    k.body = .pmsend t src key v → pmEarlier s k.id t src key = false → t < savedBase →
    let sent := fun (t : State) => if (thr t k.src).wait? = some .pmsend
      then complete t k.src (fun th => th) else t
    (pmWaiters s t src key ≠ [] → (tile s t).pmEntries.length < 8 →
      ∃ s1 j vd, (j, vd) ∈ pmWaiters s t src key ∧ s1 = { s with draws := s1.draws }
        ∧ exec (.pmsendArrival k.id) s
          = .next (sent (complete (vecLand (dropPkt s1 k.id) j vd v) j (fun th => th))))
    ∧ (pmWaiters s t src key = [] → (tile s t).pmEntries.length < 8 →
      exec (.pmsendArrival k.id) s = .next (sent (updTile (dropPkt s k.id) t fun tl =>
        { tl with pmEntries := tl.pmEntries ++ [⟨src, key, v, false⟩] })))
    ∧ (8 ≤ (tile s t).pmEntries.length →
      exec (.pmsendArrival k.id) s = .next s))

/-- Requests of other ranks act at their target, and replies end them. REMOTE_REQUEST of its
source's oldest request to a running partition: an rst stores its doubleword and a csigr.rank
signals its cue, each with an empty reply, and an rld replies with the doubleword it reads; for a
partition that neither runs nor is stopped the reply is the failure PAGE_LOST, LOST; a stopped
partition holds it. SPAWNR_ADMISSION replies the status of its judgement: 3 for no such tile, 2 for
a malformed descriptor or a thread that its troupe does not admit, 1 where the tile has no room,
else 0. REMOTE_REPLY ends an outstanding request: rld and spawnr write x[rd] and ramo its 64 bytes,
logged with them; a failed rld or ramo traps, a failed spawnr writes 4, an uncorrectable rld parks;
a posted one counts; a forwarded access has its answer, or the owner's refusal. REQUEST_TIMEOUT does
so with LOST once 1,048,576 cycles have passed. The layout of a forwarded reply is the model's
choice (log 13), and that an owner's refusal leaves the leaf as it is log 28 (DEDUCED). -/
def Obligations.RankRequestsActAndAnswer : Prop :=
  (∀ (s : State) (k : Pkt) (loc : Bool) (frm tag : Nat) (q : RReq),
    pktOf s k.id = some k → k.body = .rreq loc frm tag q →
    let reply := fun (t : State) (hdr : List Word) (f : Option Failure) =>
      Host.Outcome.next (φ := Fault) (ρ := Refusal) (respond t k.id loc frm tag hdr [] f)
    (reqOldest s k = false → exec (.remoteRequest k.id) s = .next s)
    ∧ (reqOldest s k = true →
      (partTakes s q.part = none → exec (.remoteRequest k.id) s = .next s)
      ∧ (partTakes s q.part = some false →
        exec (.remoteRequest k.id) s = reply s [] (some ⟨.pageLost, 8⟩))
      ∧ (partTakes s q.part = some true →
        (q.kind = 0 → pSpace q.addr ≠ 2 → ∀ o, resolve s ⟨q.part, none⟩ 1024 none q.addr 8
            = .ok (.glob o) →
          (∀ s1 v, gRead s (reqAcc k.id q.part q.aspc q.priv false) o 8 = .ok s1 v false →
            exec (.remoteRequest k.id) s = reply (fwdDone s1 k.id) [BitVec.ofNat 64 v, 0] none)
          ∧ (∀ s1 sub, gRead s (reqAcc k.id q.part q.aspc q.priv false) o 8 = .fault s1 sub →
            exec (.remoteRequest k.id) s
              = reply (fwdDone s1 k.id) [] (some ⟨subCause sub, sub⟩)))
        ∧ (q.kind = 1 → pSpace q.addr ≠ 2 → ∀ o, resolve s ⟨q.part, none⟩ 1024 none q.addr 8
            = .ok (.glob o) → ∀ s1 z b,
          gWrite s (reqAcc k.id q.part q.aspc q.priv true) o 8 (q.data.getD 0 0).toNat (fullMask 8)
            = .ok s1 z b → exec (.remoteRequest k.id) s = reply (fwdDone s1 k.id) [] none)
        ∧ (q.kind = 4 →
          (∀ t, ltilePhys s q.part (field q.addr.toNat 27 16) = some t →
            exec (.remoteRequest k.id) s = reply (fwdDone (cueSignal s
              (.tile t (field q.addr.toNat 39 32)) ((q.data.getD 0 0).toNat % 2 ^ 32)) k.id) [] none)
          ∧ (ltilePhys s q.part (field q.addr.toNat 27 16) = none →
            exec (.remoteRequest k.id) s = reply (fwdDone s k.id) [] (some ⟨.addr, 0⟩)))
        ∧ (q.kind = 3 → ∀ st s1, spawnrJudge s q.part (field q.addr.toNat 27 16)
            (packChunks 64 ((q.data.drop (q.data.length - 8)).map (·.toNat))) = (st, s1) →
          exec (.spawnrAdmission k.id) s = reply s1 [BitVec.ofNat 64 st] none))))
  ∧ (∀ (s : State) (p lt n : Nat), (ltilePhys s p lt = none → spawnrJudge s p lt n = (3, s))
    ∧ (∀ t, ltilePhys s p lt = some t → (parseDesc n = none → spawnrJudge s p lt n = (2, s))
      ∧ (∀ d, parseDesc n = some d →
        (d.priv ≠ 0 ∨ (smGet Troupe.zero (tile s t).troupes d.troupe).radm = false →
          spawnrJudge s p lt n = (2, s))
        ∧ (d.priv = 0 → (smGet Troupe.zero (tile s t).troupes d.troupe).radm = true →
          let new : NewThread := { d := d, x4 := d.arg, regs := [], launch := 0, units := [0],
                                   asid := BitVec.ofNat 16 (p * 4096 + d.aspace), placed := false }
          (createThread s t true new = none → spawnrJudge s p lt n = (1, s))
          ∧ (∀ j u, createThread s t true new = some (j, u) →
            ∃ u', spawnrJudge s p lt n = (0, u') ∧ u'.hbm = u.hbm
              ∧ u'.net = (clearView u j.tile).net)))))
  ∧ (∀ (s : State) (k : Pkt) (tag rd ty : Nat) (ptr : Word) (data : List Word) (o : Outst),
    pktOf s k.id = some k → s.outst.find? (fun x => x.rtag == tag) = some o → o.rtag = tag →
    departed s o.tid = false → o.kind = ty →
    let s1 := outstDone (dropPkt s k.id) tag
    (thr s o.tid).wait? = some (.remote tag rd ty ptr) →
    (k.body = .rrep tag data none →
      (ty = 3 → exec (.remoteReply k.id) s
        = .next (complete s1 o.tid (fun th => setX th rd (data.getD 0 0))))
      ∧ (ty = 0 → data.getD 1 0 = 0 → exec (.remoteReply k.id) s
        = .next (complete s1 o.tid (fun th => setX th rd (data.getD 0 0))))
      ∧ (ty = 0 → data.getD 1 0 ≠ 0 →
        exec (.remoteReply k.id) s = .next (parkThread s1 o.tid (data.getD 1 0).toNat))
      ∧ (ty = 2 → let home := (thr s1 o.tid).home
        exec (.remoteReply k.id) s = .next (complete
          (placeWrite s1 home (pOff ptr) 64 (packChunks 64 ((data.drop 5).map (·.toNat))) 0
            (ltileOf s1 home)) o.tid (fun th => setX th rd (data.getD 5 0)))))
    ∧ (∀ f, k.body = .rrep tag data (some f) →
      (ty = 0 ∨ ty = 2 → exec (.remoteReply k.id) s = .next (failThread s1 o.tid f ptr))
      ∧ (ty = 3 → exec (.remoteReply k.id) s
        = .next (complete s1 o.tid (fun th => setX th rd 4)))))
  ∧ (∀ (s : State) (k : Pkt) (tag : Nat) (data : List Word) (fail : Option Failure) (o : Outst),
    pktOf s k.id = some k → k.body = .rrep tag data fail →
    s.outst.find? (fun x => x.rtag == tag) = some o → departed s o.tid = false → o.kind = 5 →
    let s1 := outstDone (dropPkt s k.id) tag
    let had := fun (f : FwdReq → FwdAns) => Host.Outcome.next (φ := Fault) (ρ := Refusal)
      { s1 with fwds := s1.fwds.map fun q =>
          if q.rtag = tag then { q with answer := some (f q) } else q }
    (fail = none →
      exec (.remoteReply k.id) s = had (fun q => .value (fwdAnswer q.op data)))
    ∧ (∀ f, fail = some f → f ≠ ⟨.pageLost, 8⟩ →
      exec (.remoteReply k.id) s = had (fun _ => .refused f))
    ∧ (fail = some ⟨.pageLost, 8⟩ →
      exec (.remoteReply k.id) s = .next (setBody s k.id (.fwdFail tag))))
  ∧ (∀ (s : State) (k : Pkt) (tag : Nat) (data : List Word) (fail : Option Failure) (o : Outst),
    pktOf s k.id = some k → k.body = .rrep tag data fail →
    s.outst.find? (fun x => x.rtag == tag) = some o → departed s o.tid = false →
    o.kind = 1 ∨ o.kind = 4 → exec (.remoteReply k.id) s
      = .next (postedEnd (outstDone (dropPkt s k.id) tag) o fail.isSome))
  ∧ (∀ (s : State) (o : Outst), s.outst.find? (fun x => x.id == o.id) = some o →
    (s.cycle < o.sent + 1048576 → exec (.requestTimeout o.id) s = .next s)
    ∧ (o.sent + 1048576 ≤ s.cycle →
      let s1 := outstDone s o.rtag
      let o1 := { o with tid := resolveTid s1 o.tid }
      (o.kind = 1 ∨ o.kind = 4 → exec (.requestTimeout o.id) s = .next (postedEnd s1 o1 true))
      ∧ (o.kind = 0 ∨ o.kind = 2 ∨ o.kind = 3 → exec (.requestTimeout o.id) s
        = .next (awaitEnd s1 o1 [] (some ⟨.pageLost, 8⟩)))
      ∧ (o.kind = 5 ∨ o.kind = 6 → ∃ u, exec (.requestTimeout o.id) s = .next u
        ∧ u.net = s.net ++ [⟨s.fresh, deadTid, 0, .fwdFail o.rtag⟩])))

/-- Torus ports receive, acknowledge, replay, route, retrain and fail. FLIT_RECEIVE of a flit whose
CRC-32C and SEQ are right moves the expected SEQ on, frees the replay places its ACK names and,
unless replay brings it anew, clears the NAK count; a malformed link control flit counts as a link
error and is NAKed; any other flit is discarded and, the first of its run, counted and NAKed, at
once or, while the replay buffer is full, as soon as a place is free; what had been forwarded of its
packet may go on as a stomped part (the device's choice). Every flit sent carries its CRC-32C.
LINK_CONTROL_FLIT returns credits and answers a NAK, and LINK_REPLAY sends again from a SEQ in
order. PACKET_ROUTE gives a packet for this package to its unit, answers one that no port can
forward with PAGE_LOST, LOST, and sends another through its next hop when credits are there.
LINK_RETRAIN after eight NAKs stops the port's flits; LINK_RETRAINED within 1,500,000 cycles lets
them go on, and LINK_FAIL at that limit fails the port. The malformed control flit, the control flit
that does not take effect twice, replayed flits that are no progress, the NAK held for a place and
the stomped part are log 37 (DEDUCED); what ACK names amid a packet is log 13 (DEDUCED). -/
def Obligations.LinksCarryFlits : Prop :=
  (∀ (s : State) (i : Nat) (flit : BitVec 512) (link crc : BitVec 32), portLive s i = true →
    let p := port s i
    let good := crc32c (flitBytes flit link) = crc.toNat
      ∧ BitVec.ofNat 12 (field link.toNat 31 20) = p.rxSeq
    (good →
      let s1 := acknowledge (updPortT s i fun p =>
        { p with rxSeq := p.rxSeq + 1, naks := if p.again = 0 then 0 else p.naks,
                 discarding := false, again := p.again - 1 }) i
        (BitVec.ofNat 12 (field link.toNat 19 8))
      (bitOf link.toNat 4 = true →
        (controlOk flit = true → exec (.flitReceive i flit link crc) s
          = .next (if p.again = 0 then linkControl s1 i flit else s1))
        ∧ (controlOk flit = false → exec (.flitReceive i flit link crc) s
          = .next (sendNak (updPortT s i fun p => { p with linkErrors := p.linkErrors + 1 }) i)))
      ∧ (bitOf link.toNat 4 = false → exec (.flitReceive i flit link crc) s = .next
          (flitIn s1 i p.rxSeq (field link.toNat 7 6) (bitOf link.toNat 5) flit)))
    ∧ (¬ good → p.discarding = false → ∃ s1, exec (.flitReceive i flit link crc) s
        = .next (sendNak s1 i)
      ∧ s1.ports = s.ports ∧ s1.hbm = s.hbm ∧ s1.tiles = s.tiles ∧ (∀ k ∈ s.net, k ∈ s1.net)
      ∧ (crc32c (flitBytes flit link) = crc.toNat ∨ bitOf link.toNat 4 = true → s1 = s)
      ∧ (port (sendNak s1 i) i).naks = p.naks + 1 ∧ (port (sendNak s1 i) i).discarding = true
      ∧ (p.replay.length < 512 → (port (sendNak s1 i) i).nakDue = none)
      ∧ (512 ≤ p.replay.length → (port (sendNak s1 i) i).nakDue
        = some ((p.progress.map (·.seq)).getD p.rxSeq))))
  ∧ (∀ (s : State) (i : Nat) (flit : BitVec 512) (link crc : BitVec 32) (q : BitVec 12),
    (portLive s i = false → exec (.flitReceive i flit link crc) s = .next s
      ∧ exec (.linkControlFlit i flit) s = .next s ∧ exec (.linkReplay i q) s = .next s)
    ∧ (portLive s i = true → ∃ u, exec (.linkReplay i q) s = .next u
      ∧ (port u i).out = (port s i).out
        ++ ((port s i).replay.dropWhile (fun e => e.1 != q)).map (fun e =>
          (e.2.1, e.2.2, BitVec.ofNat 32 (crc32c (flitBytes e.2.1 e.2.2))))
      ∧ (port u i).replay = (port s i).replay ∧ u.net = s.net)
    ∧ (portLive s i = true → controlOk flit = true → bitOf flit.toNat 0 = false →
      ∃ u, exec (.linkControlFlit i flit) s = .next u
        ∧ (port u i).replay = (port s i).replay ∧ (port u i).out = (port s i).out
        ∧ (∀ set < 64, smGet 0 (port u i).credits set
          = smGet 0 (port s i).credits set - field flit.toNat (4 * set + 259) (4 * set + 256))
        ∧ smGet 0 (port u i).credits 64
          = smGet 0 (port s i).credits 64 - field flit.toNat 41 32))
  ∧ (∀ (s : State) (k : Pkt) (inp vc res pool : Nat) (flits : List (BitVec 512)) (stomp : Bool),
    pktOf s k.id = some k → k.body = .route inp flits vc stomp res pool →
    let h := unpackHdr (flits.headD 0)
    let set := setOf h.pcls vc
    routeOldest s k.id inp vc h.dst = true →
    (h.dst = myCoord s →
      (stomp = false → exec (.packetRoute k.id) s = .next (freePlaces
        (setBody s k.id (arrived h flits.tail)) inp set res pool))
      ∧ (stomp = true → exec (.packetRoute k.id) s = .next (freePlaces
        (dropPkt s k.id) inp set res pool)))
    ∧ (h.dst ≠ myCoord s → ∀ out cross, nextHop s h.dst = some (out, cross) →
      (portUp s out = false ∨ (port s out).failed = true → stomp = false → h.cls = 0 →
        exec (.packetRoute k.id) s = .next (freePlaces (respond s k.id (h.src == myCoord s)
          (h.src + 4096 * h.pcls) h.rtag [] [] (some ⟨.pageLost, 8⟩)) inp set res pool))
      ∧ (portUp s out = true → (port s out).failed = false →
        let v := hopVc inp vc out h.cls cross
        (hopRoom s out (setOf h.pcls v) flits.length = true → exec (.packetRoute k.id) s
          = .next (hopSend s k.id inp out v flits stomp h.pcls set res pool))
        ∧ (hopRoom s out (setOf h.pcls v) flits.length = false →
          exec (.packetRoute k.id) s = .next s))))
  ∧ (∀ (s : State) (i : Nat),
    let p := port s i
    (portLive s i = true → 8 ≤ p.naks → exec (.linkRetrain i) s
      = .next (updPortT s i fun p => { p with retraining := true, since := s.cycle }))
    ∧ (p.naks < 8 → exec (.linkRetrain i) s = .next s)
    ∧ (p.retraining = true → p.failed = false →
      (s.cycle < p.since + 1500000 → exec (.linkFail i) s = .next s
        ∧ exec (.linkRetrained i) s = .next (returnCredits
          (updPortT s i fun p => { p with retraining := false, naks := 0 }) i))
      ∧ (p.since + 1500000 ≤ s.cycle → exec (.linkRetrained i) s = .next s
        ∧ exec (.linkFail i) s = .next (updPortT s i fun p => { p with failed := true }))))

/-- Time, wakes, call sheets, launches and the first thread. TIME_SYNC sets the time base and
NODE_TIME_LOST lets it run free. WAKE_WRITE queues a wake of a valid function's queue, against a
token where the bucket limits it, or sets WAGAIN. REFILL_TICK refills the buckets of functions and
gates. A VF_MEMORY_REQUEST of an assigned function reaches the slices under its address space.
CALL_SHEET_START submits an entry whose partition runs and whose last launch has ended; while that
launch has live threads SKIP counts a missed start, QUEUE-ONE sets PEND once and then counts, and
CURTAIN kills the threads and submits; an armed entry is due from its start on, the present time
included. LAUNCH of a woken queue makes its next entry the launch unit's request, or ends the wake
at TAIL; of a queue entry's request it writes STATUS and then HEAD, and of a call sheet's request
that starts it records the launch; LAUNCH_RELEASE readies its threads; LAUNCH_END,
without live threads and with its tiles published, removes it. HLAUNCH creates the first hypervisor
thread or sets the refusal. -/
def Obligations.LaunchesStartAndEnd : Prop :=
  (∀ (s : State) (ns : Nat),
    exec (.timeSync ns) s = .next { s with timeNs := ns, timeFollows := true }
    ∧ exec .nodeTimeLost s = .next { s with timeFollows := false })
  ∧ (∀ (s : State) (f : Nat) (v : BitVec 64), s.mgmt.state = 2 → fnValid s f = true →
    let q := v.toNat % 4
    fnQerr s f q = false →
    (partRuns s (fnPart s f) = true →
      (fnBurst s f = 0 → exec (.wakeWrite f v) s
        = .next { s with wakeQ := s.wakeQ ++ [(4 * f + q, 0)] })
      ∧ (fnBurst s f ≠ 0 → fnTokens s f ≠ 0 → ∃ u, exec (.wakeWrite f v) s = .next u
        ∧ u.wakeQ = s.wakeQ ++ [(4 * f + q, 0)]
        ∧ u = { putTokensFn s f (fnTokens s f - 1) with wakeQ := u.wakeQ })
      ∧ (fnBurst s f ≠ 0 → fnTokens s f = 0 →
        exec (.wakeWrite f v) s = .next (putFnBit s f q true)))
    ∧ (partRuns s (fnPart s f) = false →
      exec (.wakeWrite f v) s = .next (putFnBit s f q true)))
  ∧ (∀ (s : State),
    let again := fun (f : Nat) (s : State) (q : Nat) =>
      if fnWagain s f q = false ∨ (fnBurst s f ≠ 0 ∧ fnTokens s f = 0) then s
      else
        let s1 := if fnBurst s f = 0 then s else putTokensFn s f (fnTokens s f - 1)
        let s2 := putFnBit s1 f q false
        { s2 with wakeQ := s2.wakeQ ++ [(4 * f + q, 0)] }
    let tick := fun (s : State) (f : Nat) =>
      if fnValid s f = false then s
      else
        let s1 := putTokensFn s f (min (fnBurst s f) (fnTokens s f + fnRate s f))
        if partRuns s1 (fnPart s1 f) = true then (List.range 4).foldl (again f) s1 else s1
    let entry := fun (g : Nat) (s : State) (j : Nat) =>
      putTokens s g j (min (gateRate s g j).2 (gateTokens s g j + (gateRate s g j).1))
    let gate := fun (s : State) (g : Nat) =>
      if gateV s g = true then (List.range 8).foldl (entry g) s else s
    exec .refillTick s = .next ((List.range 4096).foldl gate
      ((List.range 128).foldl tick { s with ticks := s.timeNs / 65536 })))
  ∧ (∀ (s : State) (f off size v : Nat) (write : Bool),
    (s.mgmt.state ≠ 2 ∨ fnValid s f = false →
      exec (.vfMemoryRequest f write off size v) s = .next s)
    ∧ (s.mgmt.state = 2 → f < 128 → fnValid s f = true → 0 < size →
      let k : Pkt := { id := s.fresh, src := deadTid, tgt := 0,
                       body := .vf f (fnAsid s f) write off size v }
      let s1 := { s with fresh := s.fresh + 1, net := s.net ++ [k] }
      (vfOldest s1 k.id f = false →
        exec (.vfMemoryRequest f write off size v) s = .next s1)
      ∧ (vfOldest s1 k.id f = true → exec (.vfMemoryRequest f write off size v) s
        = .next (vfStep s1 k.id (fnAsid s f) write off size v))))
  ∧ (∀ (s : State) (p e t : Nat),
    (sheetDue s p e = none → exec (.callSheetStart p e) s = .next s)
    ∧ (sheetDue s p e = some t →
      let s1 := { s with sheetNext := smSet s.sheetNext (64 * p + e) t }
      (partRuns s p = false → exec (.callSheetStart p e) s = .next (sheetMissed s1 p e))
      ∧ (partRuns s p = true → sheetLive s p e = none →
        exec (.callSheetStart p e) s = .next (sheetSubmit s1 p e))
      ∧ (partRuns s p = true → ∀ l, sheetLive s p e = some l →
        (field (sheet64 s p e 3) 62 61 = 0 →
          exec (.callSheetStart p e) s = .next (sheetMissed s1 p e))
        ∧ (field (sheet64 s p e 3) 62 61 = 1 →
          (bitOf (sheet64 s p e 3) 60 = true →
            exec (.callSheetStart p e) s = .next (sheetMissed s1 p e))
          ∧ (bitOf (sheet64 s p e 3) 60 = false →
            exec (.callSheetStart p e) s = .next (sheetPend s1 p e true)))
        ∧ (field (sheet64 s p e 3) 62 61 = 2 → exec (.callSheetStart p e) s = .next (sheetSubmit
          (l.threads.foldl (fun s i => endThread s i killedValue) s1) p e)))))
  ∧ (∀ (s : State) (p e : Nat), bitOf (sheet64 s p e 3) 63 = true →
    field (sheet64 s p e 3) 62 61 ≠ 3 → smFind s.sheetNext (64 * p + e) = none →
    sheet64 s p e 0 = s.sheetTime → s.sheetTime ≤ s.timeNs → sheetDue s p e = some s.sheetTime)
  ∧ (∀ (s : State), launchReady s = none → wakeReady s = none → exec .launch s = .next s)
  ∧ (∀ (s : State) (q : LaunchReq), launchReady s = some q → wakeReady s = none →
    ∀ s1 n p e, q.src = .sheet p e → launchTry s q = .done s1 lsStarted n →
      exec .launch s = .next { fwdDone { s1 with launchQ := s1.launchQ.erase q } launchClient with
        sheetLaunch := smSet s1.sheetLaunch (64 * p + e) n })
  ∧ (∀ (s : State) (w : Nat × Nat), launchReady s = none → wakeReady s = some w →
    let f := w.1 / 4
    let q := w.1 % 4
    let asid := fnAsid s f
    let base := w64 (fn64 s f 1)
    fnQerr s f q = false → pSpace base = 0 → ∀ s1 n,
    luRead s asid (pOff base + 64 * q) 64 = .ok s1 n →
    let d := fun i => n / 2 ^ (64 * i) % 2 ^ 64
    let tail := if w.2 = 0 then d 3 else w.2 - 1
    (tail ≤ d 2 → exec .launch s
      = .next (fwdDone { s1 with wakeQ := s1.wakeQ.erase w } launchClient))
    ∧ (d 2 < tail → pSpace (w64 (d 0)) = 0 → ∀ s2 m,
      let entry := pOff (w64 (d 0)) + 32 * (d 2 % 2 ^ (d 1 % 32))
      luRead s1 asid entry 32 = .ok s2 m →
      let e := fun i => m / 2 ^ (64 * i) % 2 ^ 64
      let r : LaunchReq :=
        { part := fnPart s f, aspace := asid.toNat % 4096, playbill := w64 (e 0),
          arg := w64 (e 1), cpl := w64 (e 3), maxPriv := fnMaxPriv s f,
          src := .queue f q (w64 entry) asid,
          back := (pOff base + 64 * q, d 2, tail) }
      exec .launch s = .next (fwdDone { s2 with
        launchQ := s2.launchQ ++ [r],
        wakeQ := s2.wakeQ.map (fun x => if x = w then (w.1, tail + 1) else x) } launchClient)))
  ∧ (∀ (s : State) (q : LaunchReq) (f k hdr head tail : Nat) (entry : Word) (asid : BitVec 16),
    launchReady s = some q → wakeReady s = none → q.src = .queue f k entry asid →
    q.back = (hdr, head, tail) → q.ended = none → ∀ s1 st n, launchTry s q = .done s1 st n →
    let q1 := { q with ended := some (st, none) }
    let q2 := { q with ended := some (st, some false) }
    let put := fun (s : State) (a b : LaunchReq) =>
      { s with launchQ := s.launchQ.map (fun r => if r = a then b else r) }
    ∀ s2 s3 y z, luWrite (put s1 q q1) asid launchClient (entry.toNat + 16) 8 st = .ok s2 y →
    luWrite (put s2 q1 q2) asid launchClient (hdr + 16) 8 (head + 1) = .ok s3 z →
    exec .launch s = .next (fwdDone { s3 with launchQ := s3.launchQ.erase q2 } launchClient))
  ∧ (∀ (s : State) (l : Launch), s.launches.find? (fun x => x.id == l.id) = some l →
    (l.released = true → exec (.launchRelease l.id) s = .next s)
    ∧ (l.released = false → ∃ u, exec (.launchRelease l.id) s = .next { u with
        launches := u.launches.map (fun x => if x.id = l.id then { x with released := true } else x) }
      ∧ u = l.threads.foldl releaseThread s)
    ∧ (l.threads ≠ [] → exec (.launchEnd l.id) s = .next s)
    ∧ (l.threads = [] → dueTiles s = [] → l.src = .other → exec (.launchEnd l.id) s
      = .next { s with launches := s.launches.filter (fun x => x.id != l.id) }))
  ∧ (∀ (s : State) (v : BitVec 64), s.mgmt.state = 2 →
    let t := field v.toNat 41 32
    (v.toNat / 2 ^ 42 ≠ 0 ∨ field v.toNat 31 4 ≠ 0 →
      exec (.hlaunch v) s = .next { s with mgmt := { s.mgmt with hlstat := 2 } })
    ∧ (v.toNat < 2 ^ 42 → field v.toNat 31 4 = 0 → ∀ d, parseDesc (packChunks 64
        ((List.range 8).map (fun k => (smGet 0 s.mgmt.desc k).toNat))) = some d →
      (d.priv ≠ 2 ∨ harvested s t = true →
        exec (.hlaunch v) s = .next { s with mgmt := { s.mgmt with hlstat := 2 } })
      ∧ (d.priv = 2 → harvested s t = false → clusterOwned s (tileCluster t) = false →
        exec (.hlaunch v) s = .next (hlCreate s t (v.toNat % 16) d))))

/-- Gates serve requests, commits, replies, limits and returns. GATE_REQUEST of the gate's oldest
request: of a gate that is not valid or without the right it becomes a fault; gread replies COUNTER;
gsig with a token waits for its commit, as does gpost with a place in the mailbox, which it takes;
gwait takes its count and gtake the oldest word, or they queue, and with sixteen queued answer 3.
GATE_COMMIT, when the issuer's earlier engine work has completed and the window units are published,
adds to COUNTER or puts the word. GATE_REPLY completes the waiting thread, drops its view of the
window after a success, and traps GATE_FAULT on a fault. GATE_WAIT_LIMIT sends the cancel once,
GATE_CANCEL takes a queued waiter off the list, GATE_RETURN gives a count back and GATE_DELIVERY_ACK
frees a place. -/
def Obligations.GatesServeRequests : Prop :=
  (∀ (s : State) (k : Pkt) (g op n rd h p t : Nat) (x : Option Nat) (work : List Nat),
    pktOf s k.id = some k → k.body = .gateReq g op n x rd h p t work →
    let rights := gateRights s g p
    let j := (gateEntry s g p).getD 0
    let reply := fun (t : State) (v st : Nat) =>
      Host.Outcome.next (φ := Fault) (ρ := Refusal)
        (setBody t k.id (.gateReply g rd (BitVec.ofNat 64 v) st 0 (op == 6) 0))
    (gateOldest s k.id g = false → exec (.gateRequest k.id) s = .next s)
    ∧ (gateOldest s k.id g = true →
      (op ≠ 0 → gateV s g = false →
        exec (.gateRequest k.id) s = .next (setBody s k.id (.gateFault g h 4)))
      ∧ (op ≠ 0 → gateV s g = true → rightsPermit op rights = false →
        exec (.gateRequest k.id) s = .next (setBody s k.id (.gateFault g h 3)))
      ∧ (op = 0 → gateV s g = true → rights &&& n = n →
        exec (.gateRequest k.id) s = reply s n 2)
      ∧ (gateV s g = true → rightsPermit op rights = true →
        (op = 4 → exec (.gateRequest k.id) s = reply s (gateCounter s g) 0)
        ∧ (op = 2 → bucketEmpty s g j = true → exec (.gateRequest k.id) s = reply s 1 0)
        ∧ (op = 2 → bucketEmpty s g j = false → exec (.gateRequest k.id) s = .next
            (setBody (takeToken s g j) k.id (.gateCommit g 2 n rd t work)))
        ∧ (op = 5 → gateMbcnt s g = 8 → exec (.gateRequest k.id) s = reply s 3 0)
        ∧ (op = 5 → gateMbcnt s g ≠ 8 →
          (bucketEmpty s g j = true → exec (.gateRequest k.id) s = reply s 1 0)
          ∧ (bucketEmpty s g j = false → exec (.gateRequest k.id) s = .next (setBody
            (takeToken (putGateMb s g (gateMbcnt s g + 1) (gateMbhead s g)) g j) k.id
            (.gateCommit g 5 n rd t work))))
        ∧ (op = 6 → 0 < (gateSide s g).held →
          let v := gateMail s g (gateMbhead s g)
          exec (.gateRequest k.id) s = .next (setBody (setGateSide
            (putGateMb s g (gateMbcnt s g) ((gateMbhead s g + 1) % 8)) g
            { gateSide s g with held := (gateSide s g).held - 1 }) k.id
            (.gateReply g rd (BitVec.ofNat 64 v) 3 0 true v)))
        ∧ (16 ≤ (gateSide s g).waiters.length →
          (op = 3 → n ≠ 0 → gateCounter s g < n → exec (.gateRequest k.id) s = reply s 3 0)
          ∧ (op = 6 → (gateSide s g).held = 0 →
            exec (.gateRequest k.id) s = reply s (2 ^ 63 + 3) 0))
        ∧ (op = 6 → (gateSide s g).held = 0 → (gateSide s g).waiters.length < 16 →
          let w : GWaiter := { tid := k.src, token := s.fresh, take := true, n := n }
          exec (.gateRequest k.id) s = .next (setBody (setGateSide { s with fresh := s.fresh + 1 } g
            { gateSide s g with waiters := (gateSide s g).waiters ++ [w] }) k.id
            (.gateReply g rd 0 1 s.fresh true 0)))
        ∧ (op = 3 → (gateSide s g).waiters = [] → n ≤ gateCounter s g →
          exec (.gateRequest k.id) s = .next (setBody (putGate64 s g 1 (gateCounter s g - n)) k.id
            (.gateReply g rd 0 3 0 false n)))
        ∧ (op = 3 → n ≠ 0 → gateCounter s g < n → (gateSide s g).waiters.length < 16 →
          let w : GWaiter := { tid := k.src, token := s.fresh, take := false, n := n }
          exec (.gateRequest k.id) s = .next (setBody (setGateSide { s with fresh := s.fresh + 1 } g
            { gateSide s g with waiters := (gateSide s g).waiters ++ [w] }) k.id
            (.gateReply g rd 0 1 s.fresh false 0))))))
  ∧ (∀ (s : State) (k : Pkt) (g op n rd t : Nat) (work : List Nat), pktOf s k.id = some k →
    k.body = .gateCommit g op n rd t work →
    ((∃ c ∈ allCommands s, c.id ∈ work) → exec (.gateCommit k.id) s = .next s)
    ∧ ((∀ c ∈ allCommands s, c.id ∉ work) → ∀ s1, publishKeys s t (windowUnits s t g) = (s1, true) →
      let s2 := fwdDone s1 (tileClient t)
      exec (.gateCommit k.id) s = .next (setBody (if op = 2 then gateAdd s2 g n else gatePut s2 g n)
        k.id (.gateReply g rd 0 0 0 false 0))))
  ∧ (∀ (s : State) (k : Pkt) (i : Tid) (g g' rd rd' token n own frm : Nat) (v : Word) (take tk : Bool)
      (left : Option Nat), pktOf s k.id = some k → k.src = i → departed s i = false →
    k.body = .gateReply g rd' v 3 token take n → replyOldest s k.id g i = true →
    (thr s i).st = .waiting (.gate rd g' tk own left) frm →
    let s1 := dropPkt s k.id
    (g' = g → own = 0 ∨ token = 0 ∨ own = token →
      (take = false → exec (.gateReply k.id) s = .next (complete
        (dropView s1 i.tile (unitInWindow s1 g)) i (fun th => setX th rd v)))
      ∧ (take = true → exec (.gateReply k.id) s = .next (complete (send
          (dropView s1 i.tile (unitInWindow s1 g)) i (2 ^ 20 + g) (.gateAck g)) i
          (fun th => setX th rd v))))
    ∧ (g' ≠ g → exec (.gateReply k.id) s
      = .next (send s1 i (2 ^ 20 + g) (.gateRet g take n))))
  ∧ (∀ (s : State) (k : Pkt) (g h reason rd : Nat) (tk : Bool) (own : Nat) (left : Option Nat),
    pktOf s k.id = some k → departed s k.src = false → k.body = .gateFault g h reason →
    (thr s k.src).wait? = some (.gate rd g tk own left) → exec (.gateReply k.id) s
      = .next (trapPair (dropPkt s k.id) k.src .gateFault (gateFaultVal g h reason)))
  ∧ (∀ (s : State) (k : Pkt) (g : Nat), pktOf s k.id = some k →
    (k.body = .gateAck g → exec (.gateDeliveryAck k.id) s = .next
      (putGateMb (dropPkt s k.id) g (gateMbcnt s g - 1) (gateMbhead s g)))
    ∧ (∀ token, k.body = .gateCancel g token →
      (∀ w ∈ (gateSide s g).waiters, w.token ≠ token) →
      exec (.gateCancel k.id) s = .next (dropPkt s k.id))
    ∧ (∀ w, (gateSide s g).waiters.find? (fun y => y.token == w.token) = some w →
      k.body = .gateCancel g w.token → exec (.gateCancel k.id) s = .next (gateWake
        (setGateSide (dropPkt s k.id) g { gateSide s g with
          waiters := (gateSide s g).waiters.filter (fun y => y.token != w.token) }) g w
        (if w.take then 2 ^ 63 + 1 else 1) 0 0))
    ∧ (∀ n, k.body = .gateRet g false n →
      exec (.gateReturn k.id) s = .next (gateAdd (dropPkt s k.id) g n))
    ∧ (∀ n, k.body = .gateRet g true n →
      exec (.gateReturn k.id) s = .next (gateRestore (dropPkt s k.id) g n)))
  ∧ (∀ (s : State) (i : Tid) (rd g token frm : Nat) (tk : Bool), i.tile < 1024 →
    (thr s i).leader = false →
    (thr s i).st = .waiting (.gate rd g tk token (some 0)) frm →
    (token = 0 → exec (.gateWaitLimit i.tile i.slot) s = .next s)
    ∧ (token ≠ 0 → exec (.gateWaitLimit i.tile i.slot) s = .next (send (setThr s i
        { thr s i with st := .waiting (.gate rd g tk token none) frm }) i (2 ^ 20 + g)
        (.gateCancel g token))))

/-- Shedding, displacement, the curtain and migration. THERMAL_CHECK at or above TTRIP stops the
package, above THOT sheds a position, below TCOOL restores the last one, and otherwise only notes
the temperature. DISPLACE_THREAD begins the move of the picked thread to its host and RETURN_HOME
the move back: the thread is migrating and its slot there taken. A curtain command that R325 refuses
ends with its status and changes no partition; CURTAIN_STOP at the boundary lets the partition's
tiles issue no more and, once their understudies have caught up, stops them, CURTAIN_RESUME lets
them issue, CURTAIN_START starts an idle partition on scrubbed tiles, CURTAIN_SAVE with its areas
written leaves the partition idle, and ends STATE where a tile's four forwarding entries are in use
(log 21), CURTAIN_RESTORE with its areas loaded resumes it, and with an area that cannot be read
loads nothing and keeps the headers; a command before its time waits. MIGR_MOVE stops the tile at a
boundary, moves its context once no understudy lags behind, leaving a forwarding entry and a remap,
and at a later boundary (of the device's choice, log 11) delivers what was held and lets its threads
go on. MIGR_RETIRE removes the entry once nothing is pending, and FORWARD_PACKET counts an answer
that still has to be redirected, and sends a packet of a departed context one step on. That a tile
publishes before its thread moves is log 19, the order of shedding and the ranking of hosts log 20,
that a failed RESTORE keeps the headers log 21, and that a MOVE waits while its tile displaces a
thread log 11 (DESIGN CHOICE). -/
def Obligations.DeviceMovesThreads : Prop :=
  (∀ (s : State) (t temp : Nat),
    let s1 := { s with mgmt := { s.mgmt with temps := smSet s.mgmt.temps t temp } }
    s.mgmt.state = 2 → harvested s t = false →
    (s.mgmt.cfg.ttrip ≤ temp →
      exec (.thermalCheck t temp) s = .next (toSafe (stopAll s1) 9))
    ∧ (temp < s.mgmt.cfg.ttrip →
      (s.mgmt.cfg.thot < temp → exec (.thermalCheck t temp) s = .next (shedOne s1 t))
      ∧ (temp ≤ s.mgmt.cfg.thot → temp < s.mgmt.cfg.tcool →
        exec (.thermalCheck t temp) s = .next (restoreOne s1 t))
      ∧ (temp ≤ s.mgmt.cfg.thot → s.mgmt.cfg.tcool ≤ temp →
        exec (.thermalCheck t temp) s = .next s1)))
  ∧ (∀ (s : State) (t : Nat),
    (displacePick s t = none → exec (.displaceThread t) s = .next s)
    ∧ (∀ k h n, displacePick s t = some (k, h) → freeSlots s h 1 = [n] →
      exec (.displaceThread t) s = .next (moveStart s ⟨t, k⟩ ⟨h, n⟩)))
  ∧ (∀ (s : State) (i : Tid),
    (goesHome s i = false → exec (.returnHome i.tile i.slot) s = .next s)
    ∧ (goesHome s i = true → exec (.returnHome i.tile i.slot) s
      = .next (moveStart s i ⟨(thr s i).home, (thr s i).homeSlot⟩)))
  ∧ (∀ (s s1 : State) (i j : Tid) (b : Nat), i.tile < 1024 → j.tile < 1024 → i.tile ≠ j.tile →
    pickBase (windowsOf (tile s j.tile)) (thr s i).vwSize = some b →
    publishTile (landAll s i) i.tile = (s1, true) →
    let u := moveStart s i j
    (thr u i).st = .migrating (thr s1 i).st ∧ (thr u i).x = (thr s1 i).x
    ∧ (thr u j).st = .arriving i ∧ u.hbm = s1.hbm)
  ∧ (∀ (s : State) (p : Nat) (o : CurtainOp) (i : Instr) (ops : List Nat),
    (i = .curtainStop p ∧ ops = [cuStop, cuSave]) ∨ (i = .curtainResume p ∧ ops = [cuResume])
      ∨ (i = .curtainStart p ∧ ops = [cuStart]) ∨ (i = .curtainRestore p ∧ ops = [cuRestore]) →
    (curtainOp s p ops = none → exec i s = .next s)
    ∧ (curtainOp s p ops = some o → curtainRefusal s p o ≠ 0 →
      i ≠ .curtainStop p ∨ o.moving ≠ 1 →
      exec i s = .next (curtainEnd s p o (curtainRefusal s p o))))
  ∧ (∀ (s : State) (p : Nat) (o : CurtainOp),
    let s1 := updPart (stopTiles s (partTiles s p)) p fun x =>
      { x with run := .stopped, tstop := o.t }
    ((∃ t ∈ partTiles s p, pairsLevel (tile s t) = false) → stopEnd s p o = s)
    ∧ ((∀ t ∈ partTiles s p, pairsLevel (tile s t) = true) →
      (o.op = cuSave → stopEnd s p o = setMoving s1 p 0)
      ∧ (o.op = cuStop → stopEnd s p o = curtainEnd s1 p o 0))
    ∧ (curtainOp s p [cuStop, cuSave] = some o → o.moving = 1 →
      exec (.curtainStop p) s = .next (stopEnd s p o)))
  ∧ (∀ (s : State) (p : Nat) (o : CurtainOp), curtainRefusal s p o = 0 →
    (curtainOp s p [cuStop, cuSave] = some o → (part s p).run = .running → o.moving ≠ 1 →
      (atBoundary s o = false → exec (.curtainStop p) s = .next s)
      ∧ (atBoundary s o = true → exec (.curtainStop p) s
        = .next (stopEnd (setMoving ((partTiles s p).foldl haltTile s) p 1) p o)))
    ∧ (curtainOp s p [cuResume] = some o →
      (atBoundary s o = false → exec (.curtainResume p) s = .next s)
      ∧ (atBoundary s o = true →
        exec (.curtainResume p) s = .next (curtainEnd (resumePart s p) p o 0)))
    ∧ (curtainOp s p [cuStart] = some o → ∃ u, exec (.curtainStart p) s = .next (curtainEnd u p o 0)
        ∧ (part u p).run = .running ∧ (part u p).remaps = []
        ∧ ∀ c ∈ (part u p).cmap, cluster u c = Cluster.zero))
  ∧ (∀ (s : State) (p : Nat) (o : CurtainOp), curtainOp s p [cuSave] = some o →
    curtainRefusal s p o = 0 →
    ((part s p).run = .running → exec (.curtainSave p) s = .next s)
    ∧ ((part s p).run = .stopped → saveReady s (partTiles s p) = true →
      entriesFull s p = true → exec (.curtainSave p) s = .next (curtainEnd s p o 1))
    ∧ ((part s p).run = .stopped → saveReady s (partTiles s p) = true → entriesFull s p = false →
      (∀ s1 z b l, saveAreas s p o = (.ok s1 z b, l) → ∃ u,
        exec (.curtainSave p) s = .next (curtainEnd u p o 0)
          ∧ (part u p).run = .idle ∧ (part u p).valid = false ∧ (part u p).remaps = [])
      ∧ (∀ s1 c sub l, saveAreas s p o = (.fail s1 c sub, l) → ∃ u,
        exec (.curtainSave p) s = .next (raiseHyp (curtainEnd u p o 4) 0x13
          (p * 2 ^ 48 + l * 2 ^ 40 + 4)) ∧ (part u p).run = (part s1 p).run)))
  ∧ (∀ (s s1 s2 s3 : State) (p z : Nat) (b : Bool) (o : CurtainOp) (ns : List Nat)
      (ls : List Loaded), curtainOp s p [cuRestore] = some o → curtainRefusal s p o = 0 →
    let g := saveAgent s o (saveClient p)
    let cs := (entryClusters s p).zipIdx
    readHeads g p o cs s = .ok s1 ns →
    (atBoundary s o = false → exec (.curtainRestore p) s = .next s)
    ∧ (atBoundary s o = true → clearHeads s1 g o cs = .ok s2 z b →
      (loadAreas g p o (cs.zip ns) s2 = .ok s3 ls → exec (.curtainRestore p) s
        = .next (curtainEnd (resumePart (restorePut (fwdDone s3 (saveClient p)) p ls) p) p o 0))
      ∧ (loadAreas g p o (cs.zip ns) s2 = .fail s3 → exec (.curtainRestore p) s
        = .next (curtainEnd (fwdDone s1 (saveClient p)) p o 4))))
  ∧ (∀ (s : State) (p : Nat) (o : CurtainOp),
    (migrOp s p 0 = some o → o.moving = 0 →
      let src := (ltilePhys s p o.ltile).getD 0
      (moveRefusal s p o ≠ 0 →
        exec (.migrMove p) s = .next (curtainEnd s p o (moveRefusal s p o)))
      ∧ (moveRefusal s p o = 0 →
        (atBoundary s o = false ∨ displacing (tile s src) = true → exec (.migrMove p) s = .next s)
        ∧ (atBoundary s o = true → displacing (tile s src) = false → exec (.migrMove p) s
          = .next (moveOff (setMoving (stopTiles s [src]) p 1) p o))))
    ∧ (migrOp s p 0 = some o → o.moving = 1 → exec (.migrMove p) s = .next (moveOff s p o))
    ∧ (migrOp s p 0 = some o → 2 ≤ o.moving →
      (atBoundary s o = false → exec (.migrMove p) s = .next s)
      ∧ (atBoundary s o = true → ∃ s1, s1 = { s with draws := s1.draws }
        ∧ (exec (.migrMove p) s = .next (moveArrive s1 p o)
          ∨ exec (.migrMove p) s = .next (setMoving s1 p 2))))
    ∧ (∀ src, ltilePhys s p o.ltile = some src →
      (pairsLevel (tile s src) = false → moveOff s p o = s)
      ∧ (pairsLevel (tile s src) = true → src < 1024 → o.phys < 1024 → src ≠ o.phys →
        let u := moveOff s p o
        (∃ e ∈ (tile u src).fwd, e.part = p ∧ e.ltile = o.ltile ∧ e.kind = .migrated o.phys)
        ∧ (o.ltile, o.phys) ∈ (part u p).remaps ∧ (tile u src).threads = []
        ∧ (tile u o.phys).stopped = true ∧ (tile u o.phys).spad = (tile s src).spad))
    ∧ (migrOp s p 1 = some o → o.bad = false →
      (retireEntry s p o = none → exec (.migrRetire p) s = .next (curtainEnd s p o 6))
      ∧ (∀ e, retireEntry s p o = some e → retirePending s p o e = true →
        exec (.migrRetire p) s = .next (curtainEnd s p o 5))
      ∧ (∀ e, retireEntry s p o = some e → retirePending s p o e = false → o.phys < 1024 →
        ∃ u n, exec (.migrRetire p) s
            = .next (curtainEnd (placeWrite u o.tile (o.rec_ + 16) 4 n 0 (ltileOf u o.tile)) p o 0)
          ∧ ∀ x ∈ (tile u o.phys).fwd,
            ¬ (x.part = p ∧ x.ltile = o.ltile ∧ x.to?.isSome = true))))
  ∧ (∀ (s : State) (k : Pkt) (i : Tid) (n t : Nat), pktOf s k.id = some k →
    fwdTarget s k = some i →
    (viaDue s k = true → exec (.forwardPacket k.id) s = .next (passVia s k.id))
    ∧ (viaDue s k = false → savedGoal k = none →
    (departed s i = false → exec (.forwardPacket k.id) s = .next s)
    ∧ (departed s i = true → fwdEntryOf s i = some (n, t) →
      exec (.forwardPacket k.id) s = .next (forwardTo s k i n t))))

/-- Starts, registers, attestation, alarms and tile registers. RESET_COLD and RESET_WARM outside
BOOT, and POWER_UP, stop the package and begin a start, which counts in BOOTCNT; HBM4E and the time
base stay. REGISTER_WRITE stores SPTB while no hypervisor thread lives, and a doubleword of the
descriptor, and at RESET and the attestation register does what the write asks; a read of BOOTST
shows the state, one of RESET 0. ATTEST_START begins a report and ATTEST_REPORT ends it with the
signed body, zeros for a signature without the key. SENSOR_ALARM counts and, by its policy, erases
the key or goes to SAFE; THERMAL_TRIP at TTRIP goes to SAFE; TELEMETRY_REFRESH keeps the measured
words, with the hottest tile of each die. TAGCFG_WRITE, TRCTL_CLEAR and TQUOTA_WRITE do to their
tile what the write of the register does. The warm start without R361's condition that the package
has cooled is log 24 (DEDUCED), the telemetry's values log 5 (DESIGN CHOICE), and the time base that
survives a start log 24 (DEDUCED). -/
def Obligations.ManagementControllerSteps : Prop :=
  (∀ (s : State), ∃ c w u, exec .resetCold s = .next c ∧ exec .resetWarm s = .next w
    ∧ exec .powerUp s = .next u
    ∧ u.mgmt.state = 0 ∧ u.mgmt.warm = false ∧ u.mgmt.bootcnt = (s.mgmt.bootcnt + 1) % 2 ^ 32
    ∧ u.hbm = s.hbm ∧ u.timeNs = s.timeNs ∧ u.tiles = State.reset.tiles ∧ u.net = []
    ∧ u.launches = [] ∧ u.mgmt.keyStore = s.mgmt.keyStore
    ∧ (s.mgmt.state = 0 → c = s ∧ w = s)
    ∧ (s.mgmt.state ≠ 0 → c = u ∧ (w.mgmt.warm = true ↔ (s.mgmt.keyStore = true
        ∧ s.mgmt.training = true ∧ ¬ (s.mgmt.state = 1 ∧ s.mgmt.reason ∈ [1, 5, 6, 8])))
      ∧ w.mgmt.state = 0 ∧ w.mgmt.bootcnt = u.mgmt.bootcnt ∧ w.hbm = s.hbm))
  ∧ (∀ (s : State) (v : BitVec 64), s.mgmt.state = 2 →
    (hypLive s = false → exec (.registerWrite 0x800 v) s = .next { s with sptb := v })
    ∧ (hypLive s = true → exec (.registerWrite 0x800 v) s = .next s)
    ∧ (∀ n < 8, exec (.registerWrite (0x840 + 8 * n) v) s
        = .next { s with mgmt := { s.mgmt with desc := smSet s.mgmt.desc n v } }))
  ∧ (∀ (s : State), exec (.registerWrite 0x8 1) s = exec .resetCold s
    ∧ exec (.registerWrite 0x8 2) s = exec .resetWarm s
    ∧ exec (.registerWrite 0x120 1) s = exec .attestStart s
    ∧ exec (.registerWrite 0x0 1) s = .next s ∧ windowRead s 0 = some (w64 (bootst s.mgmt))
    ∧ (s.mgmt.state ≠ 0 → windowRead s 0x8 = some 0)
    ∧ (s.mgmt.state = 2 → windowRead s 0x800 = some s.sptb ∧ windowRead s 0x888 = some s.mgmt.hlstat))
  ∧ (∀ (s : State), (s.mgmt.state = 0 → exec .attestStart s = .next s)
    ∧ (s.mgmt.attesting = true → exec .attestStart s = .next s)
    ∧ (s.mgmt.state ≠ 0 → s.mgmt.attesting = false → exec .attestStart s
      = .next { s with mgmt := { s.mgmt with attesting := true, attestAge := 0 } })
    ∧ (s.mgmt.attesting = false → exec .attestReport s = .next s)
    ∧ (s.mgmt.attesting = true → ∃ sig, exec .attestReport s = .next { s with mgmt := { s.mgmt with
        report := reportBody s ++ sig, attesting := false } }
      ∧ sig.length = 384 ∧ (s.mgmt.keyStore = false → ∀ b ∈ sig, b = 0)))
  ∧ (∀ (s : State) (kind : Nat), kind < 3 →
    let pol := sensorPolicy s.mgmt kind
    let s1 := { s with mgmt := countAlarm s.mgmt kind }
    let s2 := { s with mgmt := { s1.mgmt with keyStore := false } }
    (s.mgmt.state ≠ 0 → pol = 0 → exec (.sensorAlarm kind) s = .next s1)
    ∧ (s.mgmt.state ≠ 0 → pol = 1 → exec (.sensorAlarm kind) s = .next s2)
    ∧ (s.mgmt.state = 0 ∨ 2 ≤ pol → exec (.sensorAlarm kind) s
      = .next (toSafe (stopAll s2) 8)))
  ∧ (∀ (s : State) (t temp : Nat),
    let s1 := { s with mgmt := { s.mgmt with temps := smSet s.mgmt.temps t temp } }
    (harvested s t = false → s.mgmt.cfg.ttrip ≤ temp →
      exec (.thermalTrip t temp) s = .next (toSafe (stopAll s1) 9))
    ∧ (harvested s t = true ∨ temp < s.mgmt.cfg.ttrip →
      exec (.thermalTrip t temp) s = .next s1))
  ∧ (∀ (s : State) (n : Nat) (v : BitVec 64), 4 ≤ n → n < 0x16 → ∃ u,
    exec (.telemetryRefresh [(n, v)]) s = .next u
      ∧ smGet 0 u.mgmt.telemetry n = (if 0x14 ≤ n ∧ Config.onModule = false then 0 else v)
      ∧ (∀ k < 0x16, 4 ≤ k → k ≠ n → smFind u.mgmt.telemetry k = smFind s.mgmt.telemetry k)
      ∧ (∀ d < 4, smGet 0 u.mgmt.telemetry d = BitVec.ofNat 64 (hottest s.mgmt d))
      ∧ u = { s with mgmt := { s.mgmt with telemetry := u.mgmt.telemetry } })
  ∧ (∀ (s : State) (t : Nat) (v : BitVec 64),
    exec (.tagcfgWrite t v) s = .next (updTile s t (tagcfgPut v.toNat))
    ∧ exec (.tquotaWrite t v) s = .next (updTile s t (tquotaPut v.toNat))
    ∧ exec (.trctlClear t) s
      = .next (updTile s t fun tl => { tl with trace := traceClear tl.trace }))

/-- What the register words leave unchanged. For every ALU, immediate, multiplication, division and
pointer word, every floating-point word that raises no trap, every branch and jump whose target fits
and every load from the own scratchpad: all memory, every other thread, every register of the thread
but the destination (for a jump its link register, for a branch none) and every special register are
as before (for a load, as they are once the thread's own stores on their way to that scratchpad have
been performed); only the floating-point words change FFLAGS or the generator. -/
def Obligations.RegisterWordsChangeOnlyTheirRegister : Prop :=
  ∀ (s t : State) (i : Instr), exec i s = .next t →
    (∀ r, aluTable (landed s) i = some r ∨ immTable (landed s) i = some r
        ∨ mulDivTable (landed s) i = some r ∨ ptrTable (landed s) i = some r →
      Clear { xs := r.regs } s → OnlyRegister s t r.rd ∧ NoFlag s t)
    ∧ (∀ r, fpTable (landed s) i = some r → Clear (r.chk (landed s)) s →
      traps (r.res (theMode (landed s))).fl (me (landed s)) = false → OnlyRegister s t r.rd)
    ∧ (∀ stl ra rb taken off, branchTable (landed s) i = some (stl, ra, rb, taken, off) →
      Clear { xs := [ra, rb] } s →
      taken = false ∨ (wordsFrom (me (landed s)).pc off.toInt).toNat < 2 ^ 52 →
      OnlyRegister s t 0 ∧ NoFlag s t)
    ∧ (∀ stl c goal rd, jumpTable (landed s) i = some (stl, c, goal, rd) → Clear c s →
      goal.toNat < 2 ^ 52 → OnlyRegister s t rd ∧ NoFlag s t)
    ∧ (∀ r o, loadTable (landed s) i = some r → Clear r.chk s → r.fits →
      threadTarget (landed s) s.cur r.ea r.size = .ok (.here o) →
      let s1 := hereAt o r.size (landed s)
      (spadRead s1 s.cur.tile o r.size).2 = false → OnlyRegisterOf s1 t r.rd ∧ NoFlag s t
        ∧ ∀ j, j ≠ s.cur → thr t j = thr s j)

/-- The machine right after reset. At power-up the controller is in BOOT, at STEP 0 with REASON 0
and BOOTCNT 1, no thread lives, every tile, cluster and partition is at its reset value, no packet
is on its way, no command is in progress, CYCLE and SPTB are 0, and HBM4E, which lists nothing, has
its canonical form. The reset values that the spec does not state are the choice of log entry 1. -/
def Obligations.ResetState : Prop :=
  let s := State.reset
  s.mgmt.state = 0 ∧ s.mgmt.step = 0 ∧ s.mgmt.reason = 0 ∧ bootst s.mgmt = 2 ^ 32
  ∧ allThreads s = [] ∧ s.net = [] ∧ s.launches = [] ∧ s.cycle = 0 ∧ s.sptb = 0
  ∧ (∀ t, tile s t = Tile.zero) ∧ (∀ c, cluster s c = Cluster.zero)
  ∧ (∀ p, part s p = Part.zero) ∧ (∀ i, thr s i = Thread.none)
  ∧ s.swapEntries = [] ∧ s.fwds = [] ∧ s.outst = [] ∧ s.xl = [] ∧ s.hbm = []
  ∧ cellsWf hbmDefault s.hbm = true

/-- Every step keeps HBM4E in its canonical form. For every state whose HBM4E lists its cells with
strictly rising addresses and none equal to the byte an unlisted address reads as, every next state
of a step has that form too: equal contents of HBM4E are equal data, whatever path a write took (a
slice's write-back, an atomic, a swap, a drain, an op packet, a save, a table write). -/
def Obligations.MemoryKeepsItsForm : Prop :=
  ∀ (s t : State), cellsWf hbmDefault s.hbm = true → step s = .next t →
    cellsWf hbmDefault t.hbm = true
end

