-- ==== Sys2Proof/Laws/State.lean ====
section
/-! SUPPORT. What each update of the state leaves of every field: one lemma per field per update. -/

namespace Sys2Proof.Machine

/-! ### setTile -/

@[simp] theorem setTile_inputs (s : State) (t : Nat) (x : Tile) :
    (setTile s t x).inputs = s.inputs := rfl
@[simp] theorem setTile_upsets (s : State) (t : Nat) (x : Tile) :
    (setTile s t x).upsets = s.upsets := rfl
@[simp] theorem setTile_draws (s : State) (t : Nat) (x : Tile) :
    (setTile s t x).draws = s.draws := rfl
@[simp] theorem setTile_turn (s : State) (t : Nat) (x : Tile) :
    (setTile s t x).turn = s.turn := rfl
@[simp] theorem setTile_cur (s : State) (t : Nat) (x : Tile) :
    (setTile s t x).cur = s.cur := rfl
@[simp] theorem setTile_ir (s : State) (t : Nat) (x : Tile) :
    (setTile s t x).ir = s.ir := rfl
@[simp] theorem setTile_fresh (s : State) (t : Nat) (x : Tile) :
    (setTile s t x).fresh = s.fresh := rfl
@[simp] theorem setTile_cycle (s : State) (t : Nat) (x : Tile) :
    (setTile s t x).cycle = s.cycle := rfl
@[simp] theorem setTile_rotDone (s : State) (t : Nat) (x : Tile) :
    (setTile s t x).rotDone = s.rotDone := rfl
@[simp] theorem setTile_timeNs (s : State) (t : Nat) (x : Tile) :
    (setTile s t x).timeNs = s.timeNs := rfl
@[simp] theorem setTile_timeFollows (s : State) (t : Nat) (x : Tile) :
    (setTile s t x).timeFollows = s.timeFollows := rfl
@[simp] theorem setTile_ticks (s : State) (t : Nat) (x : Tile) :
    (setTile s t x).ticks = s.ticks := rfl
@[simp] theorem setTile_sptb (s : State) (t : Nat) (x : Tile) :
    (setTile s t x).sptb = s.sptb := rfl
@[simp] theorem setTile_tiles (s : State) (t : Nat) (x : Tile) :
    (setTile s t x).tiles = smSet s.tiles t x := rfl
@[simp] theorem setTile_clusters (s : State) (t : Nat) (x : Tile) :
    (setTile s t x).clusters = s.clusters := rfl
@[simp] theorem setTile_swapArrivals (s : State) (t : Nat) (x : Tile) :
    (setTile s t x).swapArrivals = s.swapArrivals := rfl
@[simp] theorem setTile_swapQueue (s : State) (t : Nat) (x : Tile) :
    (setTile s t x).swapQueue = s.swapQueue := rfl
@[simp] theorem setTile_swapEntries (s : State) (t : Nat) (x : Tile) :
    (setTile s t x).swapEntries = s.swapEntries := rfl
@[simp] theorem setTile_lines (s : State) (t : Nat) (x : Tile) :
    (setTile s t x).lines = s.lines := rfl
@[simp] theorem setTile_tlbs (s : State) (t : Nat) (x : Tile) :
    (setTile s t x).tlbs = s.tlbs := rfl
@[simp] theorem setTile_heldPages (s : State) (t : Nat) (x : Tile) :
    (setTile s t x).heldPages = s.heldPages := rfl
@[simp] theorem setTile_retired (s : State) (t : Nat) (x : Tile) :
    (setTile s t x).retired = s.retired := rfl
@[simp] theorem setTile_xl (s : State) (t : Nat) (x : Tile) :
    (setTile s t x).xl = s.xl := rfl
@[simp] theorem setTile_hbm (s : State) (t : Nat) (x : Tile) :
    (setTile s t x).hbm = s.hbm := rfl
@[simp] theorem setTile_pcCorr (s : State) (t : Nat) (x : Tile) :
    (setTile s t x).pcCorr = s.pcCorr := rfl
@[simp] theorem setTile_pcBad (s : State) (t : Nat) (x : Tile) :
    (setTile s t x).pcBad = s.pcBad := rfl
@[simp] theorem setTile_gates (s : State) (t : Nat) (x : Tile) :
    (setTile s t x).gates = s.gates := rfl
@[simp] theorem setTile_net (s : State) (t : Nat) (x : Tile) :
    (setTile s t x).net = s.net := rfl
@[simp] theorem setTile_via (s : State) (t : Nat) (x : Tile) :
    (setTile s t x).via = s.via := rfl
@[simp] theorem setTile_parts (s : State) (t : Nat) (x : Tile) :
    (setTile s t x).parts = s.parts := rfl
@[simp] theorem setTile_saved (s : State) (t : Nat) (x : Tile) :
    (setTile s t x).saved = s.saved := rfl
@[simp] theorem setTile_launchQ (s : State) (t : Nat) (x : Tile) :
    (setTile s t x).launchQ = s.launchQ := rfl
@[simp] theorem setTile_launches (s : State) (t : Nat) (x : Tile) :
    (setTile s t x).launches = s.launches := rfl
@[simp] theorem setTile_sheetLaunch (s : State) (t : Nat) (x : Tile) :
    (setTile s t x).sheetLaunch = s.sheetLaunch := rfl
@[simp] theorem setTile_sheetNext (s : State) (t : Nat) (x : Tile) :
    (setTile s t x).sheetNext = s.sheetNext := rfl
@[simp] theorem setTile_sheetTime (s : State) (t : Nat) (x : Tile) :
    (setTile s t x).sheetTime = s.sheetTime := rfl
@[simp] theorem setTile_wakeQ (s : State) (t : Nat) (x : Tile) :
    (setTile s t x).wakeQ = s.wakeQ := rfl
@[simp] theorem setTile_hypEvents (s : State) (t : Nat) (x : Tile) :
    (setTile s t x).hypEvents = s.hypEvents := rfl
@[simp] theorem setTile_hypLoss (s : State) (t : Nat) (x : Tile) :
    (setTile s t x).hypLoss = s.hypLoss := rfl
@[simp] theorem setTile_ports (s : State) (t : Nat) (x : Tile) :
    (setTile s t x).ports = s.ports := rfl
@[simp] theorem setTile_outst (s : State) (t : Nat) (x : Tile) :
    (setTile s t x).outst = s.outst := rfl
@[simp] theorem setTile_fwds (s : State) (t : Nat) (x : Tile) :
    (setTile s t x).fwds = s.fwds := rfl
@[simp] theorem setTile_mgmt (s : State) (t : Nat) (x : Tile) :
    (setTile s t x).mgmt = s.mgmt := rfl

/-! ### setCluster -/

@[simp] theorem setCluster_inputs (s : State) (c : Nat) (x : Cluster) :
    (setCluster s c x).inputs = s.inputs := rfl
@[simp] theorem setCluster_upsets (s : State) (c : Nat) (x : Cluster) :
    (setCluster s c x).upsets = s.upsets := rfl
@[simp] theorem setCluster_draws (s : State) (c : Nat) (x : Cluster) :
    (setCluster s c x).draws = s.draws := rfl
@[simp] theorem setCluster_turn (s : State) (c : Nat) (x : Cluster) :
    (setCluster s c x).turn = s.turn := rfl
@[simp] theorem setCluster_cur (s : State) (c : Nat) (x : Cluster) :
    (setCluster s c x).cur = s.cur := rfl
@[simp] theorem setCluster_ir (s : State) (c : Nat) (x : Cluster) :
    (setCluster s c x).ir = s.ir := rfl
@[simp] theorem setCluster_fresh (s : State) (c : Nat) (x : Cluster) :
    (setCluster s c x).fresh = s.fresh := rfl
@[simp] theorem setCluster_cycle (s : State) (c : Nat) (x : Cluster) :
    (setCluster s c x).cycle = s.cycle := rfl
@[simp] theorem setCluster_rotDone (s : State) (c : Nat) (x : Cluster) :
    (setCluster s c x).rotDone = s.rotDone := rfl
@[simp] theorem setCluster_timeNs (s : State) (c : Nat) (x : Cluster) :
    (setCluster s c x).timeNs = s.timeNs := rfl
@[simp] theorem setCluster_timeFollows (s : State) (c : Nat) (x : Cluster) :
    (setCluster s c x).timeFollows = s.timeFollows := rfl
@[simp] theorem setCluster_ticks (s : State) (c : Nat) (x : Cluster) :
    (setCluster s c x).ticks = s.ticks := rfl
@[simp] theorem setCluster_sptb (s : State) (c : Nat) (x : Cluster) :
    (setCluster s c x).sptb = s.sptb := rfl
@[simp] theorem setCluster_tiles (s : State) (c : Nat) (x : Cluster) :
    (setCluster s c x).tiles = s.tiles := rfl
@[simp] theorem setCluster_clusters (s : State) (c : Nat) (x : Cluster) :
    (setCluster s c x).clusters = smSet s.clusters c x := rfl
@[simp] theorem setCluster_swapArrivals (s : State) (c : Nat) (x : Cluster) :
    (setCluster s c x).swapArrivals = s.swapArrivals := rfl
@[simp] theorem setCluster_swapQueue (s : State) (c : Nat) (x : Cluster) :
    (setCluster s c x).swapQueue = s.swapQueue := rfl
@[simp] theorem setCluster_swapEntries (s : State) (c : Nat) (x : Cluster) :
    (setCluster s c x).swapEntries = s.swapEntries := rfl
@[simp] theorem setCluster_lines (s : State) (c : Nat) (x : Cluster) :
    (setCluster s c x).lines = s.lines := rfl
@[simp] theorem setCluster_tlbs (s : State) (c : Nat) (x : Cluster) :
    (setCluster s c x).tlbs = s.tlbs := rfl
@[simp] theorem setCluster_heldPages (s : State) (c : Nat) (x : Cluster) :
    (setCluster s c x).heldPages = s.heldPages := rfl
@[simp] theorem setCluster_retired (s : State) (c : Nat) (x : Cluster) :
    (setCluster s c x).retired = s.retired := rfl
@[simp] theorem setCluster_xl (s : State) (c : Nat) (x : Cluster) :
    (setCluster s c x).xl = s.xl := rfl
@[simp] theorem setCluster_hbm (s : State) (c : Nat) (x : Cluster) :
    (setCluster s c x).hbm = s.hbm := rfl
@[simp] theorem setCluster_pcCorr (s : State) (c : Nat) (x : Cluster) :
    (setCluster s c x).pcCorr = s.pcCorr := rfl
@[simp] theorem setCluster_pcBad (s : State) (c : Nat) (x : Cluster) :
    (setCluster s c x).pcBad = s.pcBad := rfl
@[simp] theorem setCluster_gates (s : State) (c : Nat) (x : Cluster) :
    (setCluster s c x).gates = s.gates := rfl
@[simp] theorem setCluster_net (s : State) (c : Nat) (x : Cluster) :
    (setCluster s c x).net = s.net := rfl
@[simp] theorem setCluster_via (s : State) (c : Nat) (x : Cluster) :
    (setCluster s c x).via = s.via := rfl
@[simp] theorem setCluster_parts (s : State) (c : Nat) (x : Cluster) :
    (setCluster s c x).parts = s.parts := rfl
@[simp] theorem setCluster_saved (s : State) (c : Nat) (x : Cluster) :
    (setCluster s c x).saved = s.saved := rfl
@[simp] theorem setCluster_launchQ (s : State) (c : Nat) (x : Cluster) :
    (setCluster s c x).launchQ = s.launchQ := rfl
@[simp] theorem setCluster_launches (s : State) (c : Nat) (x : Cluster) :
    (setCluster s c x).launches = s.launches := rfl
@[simp] theorem setCluster_sheetLaunch (s : State) (c : Nat) (x : Cluster) :
    (setCluster s c x).sheetLaunch = s.sheetLaunch := rfl
@[simp] theorem setCluster_sheetNext (s : State) (c : Nat) (x : Cluster) :
    (setCluster s c x).sheetNext = s.sheetNext := rfl
@[simp] theorem setCluster_sheetTime (s : State) (c : Nat) (x : Cluster) :
    (setCluster s c x).sheetTime = s.sheetTime := rfl
@[simp] theorem setCluster_wakeQ (s : State) (c : Nat) (x : Cluster) :
    (setCluster s c x).wakeQ = s.wakeQ := rfl
@[simp] theorem setCluster_hypEvents (s : State) (c : Nat) (x : Cluster) :
    (setCluster s c x).hypEvents = s.hypEvents := rfl
@[simp] theorem setCluster_hypLoss (s : State) (c : Nat) (x : Cluster) :
    (setCluster s c x).hypLoss = s.hypLoss := rfl
@[simp] theorem setCluster_ports (s : State) (c : Nat) (x : Cluster) :
    (setCluster s c x).ports = s.ports := rfl
@[simp] theorem setCluster_outst (s : State) (c : Nat) (x : Cluster) :
    (setCluster s c x).outst = s.outst := rfl
@[simp] theorem setCluster_fwds (s : State) (c : Nat) (x : Cluster) :
    (setCluster s c x).fwds = s.fwds := rfl
@[simp] theorem setCluster_mgmt (s : State) (c : Nat) (x : Cluster) :
    (setCluster s c x).mgmt = s.mgmt := rfl

/-! ### updPart -/

@[simp] theorem updPart_inputs (s : State) (p : Nat) (f : Part → Part) :
    (updPart s p f).inputs = s.inputs := rfl
@[simp] theorem updPart_upsets (s : State) (p : Nat) (f : Part → Part) :
    (updPart s p f).upsets = s.upsets := rfl
@[simp] theorem updPart_draws (s : State) (p : Nat) (f : Part → Part) :
    (updPart s p f).draws = s.draws := rfl
@[simp] theorem updPart_turn (s : State) (p : Nat) (f : Part → Part) :
    (updPart s p f).turn = s.turn := rfl
@[simp] theorem updPart_cur (s : State) (p : Nat) (f : Part → Part) :
    (updPart s p f).cur = s.cur := rfl
@[simp] theorem updPart_ir (s : State) (p : Nat) (f : Part → Part) :
    (updPart s p f).ir = s.ir := rfl
@[simp] theorem updPart_fresh (s : State) (p : Nat) (f : Part → Part) :
    (updPart s p f).fresh = s.fresh := rfl
@[simp] theorem updPart_cycle (s : State) (p : Nat) (f : Part → Part) :
    (updPart s p f).cycle = s.cycle := rfl
@[simp] theorem updPart_rotDone (s : State) (p : Nat) (f : Part → Part) :
    (updPart s p f).rotDone = s.rotDone := rfl
@[simp] theorem updPart_timeNs (s : State) (p : Nat) (f : Part → Part) :
    (updPart s p f).timeNs = s.timeNs := rfl
@[simp] theorem updPart_timeFollows (s : State) (p : Nat) (f : Part → Part) :
    (updPart s p f).timeFollows = s.timeFollows := rfl
@[simp] theorem updPart_ticks (s : State) (p : Nat) (f : Part → Part) :
    (updPart s p f).ticks = s.ticks := rfl
@[simp] theorem updPart_sptb (s : State) (p : Nat) (f : Part → Part) :
    (updPart s p f).sptb = s.sptb := rfl
@[simp] theorem updPart_tiles (s : State) (p : Nat) (f : Part → Part) :
    (updPart s p f).tiles = s.tiles := rfl
@[simp] theorem updPart_clusters (s : State) (p : Nat) (f : Part → Part) :
    (updPart s p f).clusters = s.clusters := rfl
@[simp] theorem updPart_swapArrivals (s : State) (p : Nat) (f : Part → Part) :
    (updPart s p f).swapArrivals = s.swapArrivals := rfl
@[simp] theorem updPart_swapQueue (s : State) (p : Nat) (f : Part → Part) :
    (updPart s p f).swapQueue = s.swapQueue := rfl
@[simp] theorem updPart_swapEntries (s : State) (p : Nat) (f : Part → Part) :
    (updPart s p f).swapEntries = s.swapEntries := rfl
@[simp] theorem updPart_lines (s : State) (p : Nat) (f : Part → Part) :
    (updPart s p f).lines = s.lines := rfl
@[simp] theorem updPart_tlbs (s : State) (p : Nat) (f : Part → Part) :
    (updPart s p f).tlbs = s.tlbs := rfl
@[simp] theorem updPart_heldPages (s : State) (p : Nat) (f : Part → Part) :
    (updPart s p f).heldPages = s.heldPages := rfl
@[simp] theorem updPart_retired (s : State) (p : Nat) (f : Part → Part) :
    (updPart s p f).retired = s.retired := rfl
@[simp] theorem updPart_xl (s : State) (p : Nat) (f : Part → Part) :
    (updPart s p f).xl = s.xl := rfl
@[simp] theorem updPart_hbm (s : State) (p : Nat) (f : Part → Part) :
    (updPart s p f).hbm = s.hbm := rfl
@[simp] theorem updPart_pcCorr (s : State) (p : Nat) (f : Part → Part) :
    (updPart s p f).pcCorr = s.pcCorr := rfl
@[simp] theorem updPart_pcBad (s : State) (p : Nat) (f : Part → Part) :
    (updPart s p f).pcBad = s.pcBad := rfl
@[simp] theorem updPart_gates (s : State) (p : Nat) (f : Part → Part) :
    (updPart s p f).gates = s.gates := rfl
@[simp] theorem updPart_net (s : State) (p : Nat) (f : Part → Part) :
    (updPart s p f).net = s.net := rfl
@[simp] theorem updPart_via (s : State) (p : Nat) (f : Part → Part) :
    (updPart s p f).via = s.via := rfl
@[simp] theorem updPart_parts (s : State) (p : Nat) (f : Part → Part) :
    (updPart s p f).parts = smSet s.parts p (f (part s p)) := rfl
@[simp] theorem updPart_saved (s : State) (p : Nat) (f : Part → Part) :
    (updPart s p f).saved = s.saved := rfl
@[simp] theorem updPart_launchQ (s : State) (p : Nat) (f : Part → Part) :
    (updPart s p f).launchQ = s.launchQ := rfl
@[simp] theorem updPart_launches (s : State) (p : Nat) (f : Part → Part) :
    (updPart s p f).launches = s.launches := rfl
@[simp] theorem updPart_sheetLaunch (s : State) (p : Nat) (f : Part → Part) :
    (updPart s p f).sheetLaunch = s.sheetLaunch := rfl
@[simp] theorem updPart_sheetNext (s : State) (p : Nat) (f : Part → Part) :
    (updPart s p f).sheetNext = s.sheetNext := rfl
@[simp] theorem updPart_sheetTime (s : State) (p : Nat) (f : Part → Part) :
    (updPart s p f).sheetTime = s.sheetTime := rfl
@[simp] theorem updPart_wakeQ (s : State) (p : Nat) (f : Part → Part) :
    (updPart s p f).wakeQ = s.wakeQ := rfl
@[simp] theorem updPart_hypEvents (s : State) (p : Nat) (f : Part → Part) :
    (updPart s p f).hypEvents = s.hypEvents := rfl
@[simp] theorem updPart_hypLoss (s : State) (p : Nat) (f : Part → Part) :
    (updPart s p f).hypLoss = s.hypLoss := rfl
@[simp] theorem updPart_ports (s : State) (p : Nat) (f : Part → Part) :
    (updPart s p f).ports = s.ports := rfl
@[simp] theorem updPart_outst (s : State) (p : Nat) (f : Part → Part) :
    (updPart s p f).outst = s.outst := rfl
@[simp] theorem updPart_fwds (s : State) (p : Nat) (f : Part → Part) :
    (updPart s p f).fwds = s.fwds := rfl
@[simp] theorem updPart_mgmt (s : State) (p : Nat) (f : Part → Part) :
    (updPart s p f).mgmt = s.mgmt := rfl

/-! ### putTable64 -/

/-- Counting an error touches the two counts of the pseudo-channels only. -/
theorem countError_form (gran f i0 : Nat) (s : State) (e : MemError) :
    ∃ c b, countError gran f i0 s e = { s with pcCorr := c, pcBad := b } := by
  unfold countError
  split
  · exact ⟨_, s.pcBad, rfl⟩
  · exact ⟨s.pcCorr, _, rfl⟩

/-- The same of a run of errors. -/
theorem countErrors_form (gran f i0 : Nat) (l : List MemError) (s : State) :
    ∃ c b, l.foldl (countError gran f i0) s = { s with pcCorr := c, pcBad := b } := by
  induction l generalizing s with
  | nil => exact ⟨s.pcCorr, s.pcBad, rfl⟩
  | cons e l ih =>
    obtain ⟨c, b, h⟩ := countError_form gran f i0 s e
    obtain ⟨c', b', h'⟩ := ih { s with pcCorr := c, pcBad := b }
    exact ⟨c', b', by rw [List.foldl_cons, h, h']⟩

/-- What the device's own read of a granule leaves: the two counts, and nothing else. -/
theorem physNote_form (s : State) (gran pa : Nat) :
    ∃ c b, physNote s gran pa = { s with pcCorr := c, pcBad := b } :=
  countErrors_form _ _ _ _ s

@[simp] theorem physNote_hbm (s : State) (gran pa : Nat) : (physNote s gran pa).hbm = s.hbm := by
  obtain ⟨c, b, h⟩ := physNote_form s gran pa
  rw [h]

/-- A table word written changes memory and the two counts. -/
theorem putTable64_form (s : State) (o v : Nat) : ∃ c b, putTable64 s o v = { s with
    hbm := physWrite s.hbm 0 ((tableBase s + o) % 2 ^ 40) 8 v, pcCorr := c, pcBad := b } := by
  obtain ⟨c, b, h⟩ := physNote_form s 0 ((tableBase s + o) % 2 ^ 40)
  exact ⟨c, b, by rw [putTable64, physStore, h]⟩

/-- What looks at neither memory nor the counts does not see a table word written. -/
theorem putTable64_keeps {α : Type} (g : State → α) (s : State) (o v : Nat)
    (h : ∀ m c b, g { s with hbm := m, pcCorr := c, pcBad := b } = g s) :
    g (putTable64 s o v) = g s := by
  obtain ⟨c, b, e⟩ := putTable64_form s o v
  rw [e]
  exact h _ c b

@[simp] theorem putTable64_hbm (s : State) (o v : Nat) :
    (putTable64 s o v).hbm = physWrite s.hbm 0 ((tableBase s + o) % 2 ^ 40) 8 v := by
  obtain ⟨c, b, e⟩ := putTable64_form s o v
  rw [e]

@[simp] theorem putTable64_inputs (s : State) (o v : Nat) :
    (putTable64 s o v).inputs = s.inputs :=
  putTable64_keeps State.inputs s o v fun _ _ _ => rfl
@[simp] theorem putTable64_upsets (s : State) (o v : Nat) :
    (putTable64 s o v).upsets = s.upsets :=
  putTable64_keeps State.upsets s o v fun _ _ _ => rfl
@[simp] theorem putTable64_draws (s : State) (o v : Nat) :
    (putTable64 s o v).draws = s.draws :=
  putTable64_keeps State.draws s o v fun _ _ _ => rfl
@[simp] theorem putTable64_turn (s : State) (o v : Nat) :
    (putTable64 s o v).turn = s.turn :=
  putTable64_keeps State.turn s o v fun _ _ _ => rfl
@[simp] theorem putTable64_cur (s : State) (o v : Nat) :
    (putTable64 s o v).cur = s.cur :=
  putTable64_keeps State.cur s o v fun _ _ _ => rfl
@[simp] theorem putTable64_ir (s : State) (o v : Nat) :
    (putTable64 s o v).ir = s.ir :=
  putTable64_keeps State.ir s o v fun _ _ _ => rfl
@[simp] theorem putTable64_fresh (s : State) (o v : Nat) :
    (putTable64 s o v).fresh = s.fresh :=
  putTable64_keeps State.fresh s o v fun _ _ _ => rfl
@[simp] theorem putTable64_cycle (s : State) (o v : Nat) :
    (putTable64 s o v).cycle = s.cycle :=
  putTable64_keeps State.cycle s o v fun _ _ _ => rfl
@[simp] theorem putTable64_rotDone (s : State) (o v : Nat) :
    (putTable64 s o v).rotDone = s.rotDone :=
  putTable64_keeps State.rotDone s o v fun _ _ _ => rfl
@[simp] theorem putTable64_timeNs (s : State) (o v : Nat) :
    (putTable64 s o v).timeNs = s.timeNs :=
  putTable64_keeps State.timeNs s o v fun _ _ _ => rfl
@[simp] theorem putTable64_timeFollows (s : State) (o v : Nat) :
    (putTable64 s o v).timeFollows = s.timeFollows :=
  putTable64_keeps State.timeFollows s o v fun _ _ _ => rfl
@[simp] theorem putTable64_ticks (s : State) (o v : Nat) :
    (putTable64 s o v).ticks = s.ticks :=
  putTable64_keeps State.ticks s o v fun _ _ _ => rfl
@[simp] theorem putTable64_sptb (s : State) (o v : Nat) :
    (putTable64 s o v).sptb = s.sptb :=
  putTable64_keeps State.sptb s o v fun _ _ _ => rfl
@[simp] theorem putTable64_tiles (s : State) (o v : Nat) :
    (putTable64 s o v).tiles = s.tiles :=
  putTable64_keeps State.tiles s o v fun _ _ _ => rfl
@[simp] theorem putTable64_clusters (s : State) (o v : Nat) :
    (putTable64 s o v).clusters = s.clusters :=
  putTable64_keeps State.clusters s o v fun _ _ _ => rfl
@[simp] theorem putTable64_swapArrivals (s : State) (o v : Nat) :
    (putTable64 s o v).swapArrivals = s.swapArrivals :=
  putTable64_keeps State.swapArrivals s o v fun _ _ _ => rfl
@[simp] theorem putTable64_swapQueue (s : State) (o v : Nat) :
    (putTable64 s o v).swapQueue = s.swapQueue :=
  putTable64_keeps State.swapQueue s o v fun _ _ _ => rfl
@[simp] theorem putTable64_swapEntries (s : State) (o v : Nat) :
    (putTable64 s o v).swapEntries = s.swapEntries :=
  putTable64_keeps State.swapEntries s o v fun _ _ _ => rfl
@[simp] theorem putTable64_lines (s : State) (o v : Nat) :
    (putTable64 s o v).lines = s.lines :=
  putTable64_keeps State.lines s o v fun _ _ _ => rfl
@[simp] theorem putTable64_tlbs (s : State) (o v : Nat) :
    (putTable64 s o v).tlbs = s.tlbs :=
  putTable64_keeps State.tlbs s o v fun _ _ _ => rfl
@[simp] theorem putTable64_heldPages (s : State) (o v : Nat) :
    (putTable64 s o v).heldPages = s.heldPages :=
  putTable64_keeps State.heldPages s o v fun _ _ _ => rfl
@[simp] theorem putTable64_retired (s : State) (o v : Nat) :
    (putTable64 s o v).retired = s.retired :=
  putTable64_keeps State.retired s o v fun _ _ _ => rfl
@[simp] theorem putTable64_xl (s : State) (o v : Nat) :
    (putTable64 s o v).xl = s.xl :=
  putTable64_keeps State.xl s o v fun _ _ _ => rfl
@[simp] theorem putTable64_gates (s : State) (o v : Nat) :
    (putTable64 s o v).gates = s.gates :=
  putTable64_keeps State.gates s o v fun _ _ _ => rfl
@[simp] theorem putTable64_net (s : State) (o v : Nat) :
    (putTable64 s o v).net = s.net :=
  putTable64_keeps State.net s o v fun _ _ _ => rfl
@[simp] theorem putTable64_via (s : State) (o v : Nat) :
    (putTable64 s o v).via = s.via :=
  putTable64_keeps State.via s o v fun _ _ _ => rfl
@[simp] theorem putTable64_parts (s : State) (o v : Nat) :
    (putTable64 s o v).parts = s.parts :=
  putTable64_keeps State.parts s o v fun _ _ _ => rfl
@[simp] theorem putTable64_saved (s : State) (o v : Nat) :
    (putTable64 s o v).saved = s.saved :=
  putTable64_keeps State.saved s o v fun _ _ _ => rfl
@[simp] theorem putTable64_launchQ (s : State) (o v : Nat) :
    (putTable64 s o v).launchQ = s.launchQ :=
  putTable64_keeps State.launchQ s o v fun _ _ _ => rfl
@[simp] theorem putTable64_launches (s : State) (o v : Nat) :
    (putTable64 s o v).launches = s.launches :=
  putTable64_keeps State.launches s o v fun _ _ _ => rfl
@[simp] theorem putTable64_sheetLaunch (s : State) (o v : Nat) :
    (putTable64 s o v).sheetLaunch = s.sheetLaunch :=
  putTable64_keeps State.sheetLaunch s o v fun _ _ _ => rfl
@[simp] theorem putTable64_sheetNext (s : State) (o v : Nat) :
    (putTable64 s o v).sheetNext = s.sheetNext :=
  putTable64_keeps State.sheetNext s o v fun _ _ _ => rfl
@[simp] theorem putTable64_sheetTime (s : State) (o v : Nat) :
    (putTable64 s o v).sheetTime = s.sheetTime :=
  putTable64_keeps State.sheetTime s o v fun _ _ _ => rfl
@[simp] theorem putTable64_wakeQ (s : State) (o v : Nat) :
    (putTable64 s o v).wakeQ = s.wakeQ :=
  putTable64_keeps State.wakeQ s o v fun _ _ _ => rfl
@[simp] theorem putTable64_hypEvents (s : State) (o v : Nat) :
    (putTable64 s o v).hypEvents = s.hypEvents :=
  putTable64_keeps State.hypEvents s o v fun _ _ _ => rfl
@[simp] theorem putTable64_hypLoss (s : State) (o v : Nat) :
    (putTable64 s o v).hypLoss = s.hypLoss :=
  putTable64_keeps State.hypLoss s o v fun _ _ _ => rfl
@[simp] theorem putTable64_ports (s : State) (o v : Nat) :
    (putTable64 s o v).ports = s.ports :=
  putTable64_keeps State.ports s o v fun _ _ _ => rfl
@[simp] theorem putTable64_outst (s : State) (o v : Nat) :
    (putTable64 s o v).outst = s.outst :=
  putTable64_keeps State.outst s o v fun _ _ _ => rfl
@[simp] theorem putTable64_fwds (s : State) (o v : Nat) :
    (putTable64 s o v).fwds = s.fwds :=
  putTable64_keeps State.fwds s o v fun _ _ _ => rfl
@[simp] theorem putTable64_mgmt (s : State) (o v : Nat) :
    (putTable64 s o v).mgmt = s.mgmt :=
  putTable64_keeps State.mgmt s o v fun _ _ _ => rfl

/-! ### setThr: only a tile's threads -/

/-- What does not look at the tiles does not see a thread replaced. -/
theorem setThr_keeps {α : Type} (g : State → α) (s : State) (i : Tid) (x : Thread)
    (h : ∀ m, g { s with tiles := m } = g s) : g (setThr s i x) = g s := by
  unfold setThr
  split
  · exact h _
  · rfl

@[simp] theorem setThr_inputs (s : State) (i : Tid) (x : Thread) :
    (setThr s i x).inputs = s.inputs :=
  setThr_keeps State.inputs s i x fun _ => rfl
@[simp] theorem setThr_upsets (s : State) (i : Tid) (x : Thread) :
    (setThr s i x).upsets = s.upsets :=
  setThr_keeps State.upsets s i x fun _ => rfl
@[simp] theorem setThr_draws (s : State) (i : Tid) (x : Thread) :
    (setThr s i x).draws = s.draws :=
  setThr_keeps State.draws s i x fun _ => rfl
@[simp] theorem setThr_turn (s : State) (i : Tid) (x : Thread) :
    (setThr s i x).turn = s.turn :=
  setThr_keeps State.turn s i x fun _ => rfl
@[simp] theorem setThr_cur (s : State) (i : Tid) (x : Thread) :
    (setThr s i x).cur = s.cur :=
  setThr_keeps State.cur s i x fun _ => rfl
@[simp] theorem setThr_ir (s : State) (i : Tid) (x : Thread) :
    (setThr s i x).ir = s.ir :=
  setThr_keeps State.ir s i x fun _ => rfl
@[simp] theorem setThr_fresh (s : State) (i : Tid) (x : Thread) :
    (setThr s i x).fresh = s.fresh :=
  setThr_keeps State.fresh s i x fun _ => rfl
@[simp] theorem setThr_cycle (s : State) (i : Tid) (x : Thread) :
    (setThr s i x).cycle = s.cycle :=
  setThr_keeps State.cycle s i x fun _ => rfl
@[simp] theorem setThr_rotDone (s : State) (i : Tid) (x : Thread) :
    (setThr s i x).rotDone = s.rotDone :=
  setThr_keeps State.rotDone s i x fun _ => rfl
@[simp] theorem setThr_timeNs (s : State) (i : Tid) (x : Thread) :
    (setThr s i x).timeNs = s.timeNs :=
  setThr_keeps State.timeNs s i x fun _ => rfl
@[simp] theorem setThr_timeFollows (s : State) (i : Tid) (x : Thread) :
    (setThr s i x).timeFollows = s.timeFollows :=
  setThr_keeps State.timeFollows s i x fun _ => rfl
@[simp] theorem setThr_ticks (s : State) (i : Tid) (x : Thread) :
    (setThr s i x).ticks = s.ticks :=
  setThr_keeps State.ticks s i x fun _ => rfl
@[simp] theorem setThr_sptb (s : State) (i : Tid) (x : Thread) :
    (setThr s i x).sptb = s.sptb :=
  setThr_keeps State.sptb s i x fun _ => rfl
@[simp] theorem setThr_clusters (s : State) (i : Tid) (x : Thread) :
    (setThr s i x).clusters = s.clusters :=
  setThr_keeps State.clusters s i x fun _ => rfl
@[simp] theorem setThr_swapArrivals (s : State) (i : Tid) (x : Thread) :
    (setThr s i x).swapArrivals = s.swapArrivals :=
  setThr_keeps State.swapArrivals s i x fun _ => rfl
@[simp] theorem setThr_swapQueue (s : State) (i : Tid) (x : Thread) :
    (setThr s i x).swapQueue = s.swapQueue :=
  setThr_keeps State.swapQueue s i x fun _ => rfl
@[simp] theorem setThr_swapEntries (s : State) (i : Tid) (x : Thread) :
    (setThr s i x).swapEntries = s.swapEntries :=
  setThr_keeps State.swapEntries s i x fun _ => rfl
@[simp] theorem setThr_lines (s : State) (i : Tid) (x : Thread) :
    (setThr s i x).lines = s.lines :=
  setThr_keeps State.lines s i x fun _ => rfl
@[simp] theorem setThr_tlbs (s : State) (i : Tid) (x : Thread) :
    (setThr s i x).tlbs = s.tlbs :=
  setThr_keeps State.tlbs s i x fun _ => rfl
@[simp] theorem setThr_heldPages (s : State) (i : Tid) (x : Thread) :
    (setThr s i x).heldPages = s.heldPages :=
  setThr_keeps State.heldPages s i x fun _ => rfl
@[simp] theorem setThr_retired (s : State) (i : Tid) (x : Thread) :
    (setThr s i x).retired = s.retired :=
  setThr_keeps State.retired s i x fun _ => rfl
@[simp] theorem setThr_xl (s : State) (i : Tid) (x : Thread) :
    (setThr s i x).xl = s.xl :=
  setThr_keeps State.xl s i x fun _ => rfl
@[simp] theorem setThr_hbm (s : State) (i : Tid) (x : Thread) :
    (setThr s i x).hbm = s.hbm :=
  setThr_keeps State.hbm s i x fun _ => rfl
@[simp] theorem setThr_pcCorr (s : State) (i : Tid) (x : Thread) :
    (setThr s i x).pcCorr = s.pcCorr :=
  setThr_keeps State.pcCorr s i x fun _ => rfl
@[simp] theorem setThr_pcBad (s : State) (i : Tid) (x : Thread) :
    (setThr s i x).pcBad = s.pcBad :=
  setThr_keeps State.pcBad s i x fun _ => rfl
@[simp] theorem setThr_gates (s : State) (i : Tid) (x : Thread) :
    (setThr s i x).gates = s.gates :=
  setThr_keeps State.gates s i x fun _ => rfl
@[simp] theorem setThr_net (s : State) (i : Tid) (x : Thread) :
    (setThr s i x).net = s.net :=
  setThr_keeps State.net s i x fun _ => rfl
@[simp] theorem setThr_via (s : State) (i : Tid) (x : Thread) :
    (setThr s i x).via = s.via :=
  setThr_keeps State.via s i x fun _ => rfl
@[simp] theorem setThr_parts (s : State) (i : Tid) (x : Thread) :
    (setThr s i x).parts = s.parts :=
  setThr_keeps State.parts s i x fun _ => rfl
@[simp] theorem setThr_saved (s : State) (i : Tid) (x : Thread) :
    (setThr s i x).saved = s.saved :=
  setThr_keeps State.saved s i x fun _ => rfl
@[simp] theorem setThr_launchQ (s : State) (i : Tid) (x : Thread) :
    (setThr s i x).launchQ = s.launchQ :=
  setThr_keeps State.launchQ s i x fun _ => rfl
@[simp] theorem setThr_launches (s : State) (i : Tid) (x : Thread) :
    (setThr s i x).launches = s.launches :=
  setThr_keeps State.launches s i x fun _ => rfl
@[simp] theorem setThr_sheetLaunch (s : State) (i : Tid) (x : Thread) :
    (setThr s i x).sheetLaunch = s.sheetLaunch :=
  setThr_keeps State.sheetLaunch s i x fun _ => rfl
@[simp] theorem setThr_sheetNext (s : State) (i : Tid) (x : Thread) :
    (setThr s i x).sheetNext = s.sheetNext :=
  setThr_keeps State.sheetNext s i x fun _ => rfl
@[simp] theorem setThr_sheetTime (s : State) (i : Tid) (x : Thread) :
    (setThr s i x).sheetTime = s.sheetTime :=
  setThr_keeps State.sheetTime s i x fun _ => rfl
@[simp] theorem setThr_wakeQ (s : State) (i : Tid) (x : Thread) :
    (setThr s i x).wakeQ = s.wakeQ :=
  setThr_keeps State.wakeQ s i x fun _ => rfl
@[simp] theorem setThr_hypEvents (s : State) (i : Tid) (x : Thread) :
    (setThr s i x).hypEvents = s.hypEvents :=
  setThr_keeps State.hypEvents s i x fun _ => rfl
@[simp] theorem setThr_hypLoss (s : State) (i : Tid) (x : Thread) :
    (setThr s i x).hypLoss = s.hypLoss :=
  setThr_keeps State.hypLoss s i x fun _ => rfl
@[simp] theorem setThr_ports (s : State) (i : Tid) (x : Thread) :
    (setThr s i x).ports = s.ports :=
  setThr_keeps State.ports s i x fun _ => rfl
@[simp] theorem setThr_outst (s : State) (i : Tid) (x : Thread) :
    (setThr s i x).outst = s.outst :=
  setThr_keeps State.outst s i x fun _ => rfl
@[simp] theorem setThr_fwds (s : State) (i : Tid) (x : Thread) :
    (setThr s i x).fwds = s.fwds :=
  setThr_keeps State.fwds s i x fun _ => rfl
@[simp] theorem setThr_mgmt (s : State) (i : Tid) (x : Thread) :
    (setThr s i x).mgmt = s.mgmt :=
  setThr_keeps State.mgmt s i x fun _ => rfl

/-! ### The derived updates -/

@[simp] theorem updTile_eq (s : State) (t : Nat) (f : Tile → Tile) :
    updTile s t f = setTile s t (f (tile s t)) := rfl

@[simp] theorem updCluster_eq (s : State) (c : Nat) (f : Cluster → Cluster) :
    updCluster s c f = setCluster s c (f (cluster s c)) := rfl

@[simp] theorem updThr_eq (s : State) (i : Tid) (f : Thread → Thread) :
    updThr s i f = setThr s i (f (thr s i)) := rfl

end Sys2Proof.Machine
end

