-- ==== Sys2Proof/Laws/Store.lean ====
section
/-! SUPPORT. Sparse maps and byte memories: reading after writing, and the canonical form that
every write keeps. -/

namespace Sys2Proof.Machine

/-! ### Maps -/

@[simp] theorem smGet_nil {α : Type} (d : α) (k : Nat) : smGet d [] k = d := rfl

@[simp] theorem smGet_smSet_same {α : Type} (d : α) (m : SMap α) (k : Nat) (v : α) :
    smGet d (smSet m k v) k = v := by
  induction m with
  | nil => simp [smSet, smGet]
  | cons e m ih =>
    obtain ⟨j, w⟩ := e
    rcases Nat.lt_trichotomy j k with h | h | h
    · simp [smSet, smGet, h, Nat.ne_of_lt h, ih]
    · simp [smSet, smGet, h]
    · simp [smSet, smGet, Nat.not_lt_of_gt h, Nat.ne_of_gt h]

theorem smGet_smSet_ne {α : Type} (d : α) (m : SMap α) {k j : Nat} (v : α) (h : j ≠ k) :
    smGet d (smSet m k v) j = smGet d m j := by
  induction m with
  | nil => simp [smSet, smGet, Ne.symm h]
  | cons e m ih =>
    obtain ⟨i, w⟩ := e
    rcases Nat.lt_trichotomy i k with hi | hi | hi
    · simp [smSet, smGet, hi, ih]
    · subst hi
      simp [smSet, smGet, Ne.symm h]
    · simp [smSet, smGet, Nat.not_lt_of_gt hi, Nat.ne_of_gt hi, Ne.symm h]

@[simp] theorem smSet_smSet {α : Type} (m : SMap α) (k : Nat) (v w : α) :
    smSet (smSet m k v) k w = smSet m k w := by
  induction m with
  | nil => simp [smSet]
  | cons e m ih =>
    obtain ⟨j, u⟩ := e
    rcases Nat.lt_trichotomy j k with h | h | h
    · simp [smSet, h, ih]
    · simp [smSet, h]
    · simp [smSet, Nat.not_lt_of_gt h, Nat.ne_of_gt h]

/-! ### Byte memories -/

theorem cellRead_cellWrite_same (d : Nat → Byte) (m : Memory) (a : Nat) (b : Byte)
    (h : cellsWf d m = true) : cellRead d (cellWrite d m a b) a = b := by
  have low : ∀ (m : Memory) (k : Nat) (c : Byte), a < k →
      cellsWf d ((k, c) :: m) = true → cellRead d ((k, c) :: m) a = d a := by
    intro m
    induction m with
    | nil => intro k c hk _; simp [cellRead, Nat.ne_of_gt hk]
    | cons e m ih =>
      intro k c hk hw
      obtain ⟨j, x⟩ := e
      simp only [cellsWf, Bool.and_eq_true, decide_eq_true_eq] at hw
      have := ih j x (Nat.lt_trans hk hw.1.2) hw.2
      simp only [cellRead, Nat.ne_of_gt hk, if_false]
      simpa [cellRead] using this
  induction m with
  | nil =>
    by_cases hb : b = d a
    · simp [cellWrite, cellRead, hb]
    · simp [cellWrite, cellRead, hb]
  | cons e m ih =>
    obtain ⟨k, c⟩ := e
    have hm : cellsWf d m = true := by
      cases m with
      | nil => rfl
      | cons f m => simp only [cellsWf, Bool.and_eq_true] at h; exact h.2
    rcases Nat.lt_trichotomy k a with hk | hk | hk
    · simp [cellWrite, cellRead, hk, Nat.ne_of_lt hk, ih hm]
    · subst hk
      by_cases hb : b = d k
      · simp only [cellWrite, Nat.lt_irrefl, if_false, if_true, hb]
        cases m with
        | nil => simp [cellRead]
        | cons f m =>
          obtain ⟨j, x⟩ := f
          simp only [cellsWf, Bool.and_eq_true, decide_eq_true_eq] at h
          exact low m j x h.1.2 h.2
      · simp [cellWrite, cellRead, hb]
    · by_cases hb : b = d a
      · simp only [cellWrite, Nat.not_lt_of_gt hk, Nat.ne_of_gt hk, if_false, hb, if_true]
        exact low m k c hk h
      · simp [cellWrite, cellRead, Nat.not_lt_of_gt hk, Nat.ne_of_gt hk, hb]

theorem cellRead_cellWrite_ne (d : Nat → Byte) (m : Memory) {a x : Nat} (b : Byte) (h : x ≠ a) :
    cellRead d (cellWrite d m a b) x = cellRead d m x := by
  induction m with
  | nil => by_cases hb : b = d a <;> simp [cellWrite, cellRead, hb, Ne.symm h]
  | cons e m ih =>
    obtain ⟨k, c⟩ := e
    rcases Nat.lt_trichotomy k a with hk | hk | hk
    · simp [cellWrite, cellRead, hk, ih]
    · subst hk
      by_cases hb : b = d k <;> simp [cellWrite, cellRead, hb, Ne.symm h]
    · by_cases hb : b = d a <;>
        simp [cellWrite, cellRead, Nat.not_lt_of_gt hk, Nat.ne_of_gt hk, hb, Ne.symm h]

/-- The canonical form cell by cell: an entry differs from its default and lies below the next. -/
theorem cellsWf_cons (d : Nat → Byte) (k : Nat) (c : Byte) (m : Memory) :
    cellsWf d ((k, c) :: m) = true ↔
      c ≠ d k ∧ (∀ e ∈ m.head?, k < e.1) ∧ cellsWf d m = true := by
  cases m with
  | nil => simp [cellsWf]
  | cons e m => obtain ⟨j, x⟩ := e; simp [cellsWf, and_assoc]

theorem head_cellWrite (d : Nat → Byte) (m : Memory) (a : Nat) (b : Byte) (k : Nat) (hk : k < a)
    (h : cellsWf d m = true) (hm : ∀ e ∈ m.head?, k < e.1) :
    ∀ e ∈ (cellWrite d m a b).head?, k < e.1 := by
  cases m with
  | nil => by_cases hb : b = d a <;> simp [cellWrite, hb, hk]
  | cons e m =>
    obtain ⟨j, c⟩ := e
    have hj : k < j := by simpa using hm
    have hw := (cellsWf_cons d j c m).1 h
    rcases Nat.lt_trichotomy j a with hja | hja | hja
    · simp [cellWrite, hja, hj]
    · subst hja
      by_cases hb : b = d j
      · simp only [cellWrite, Nat.lt_irrefl, if_false, if_true, hb]
        intro e he
        exact Nat.lt_trans hj (hw.2.1 e he)
      · simp [cellWrite, hb, hk]
    · by_cases hb : b = d a <;>
        simp [cellWrite, Nat.not_lt_of_gt hja, Nat.ne_of_gt hja, hb, hk, hj]

theorem cellWrite_wf (d : Nat → Byte) (m : Memory) (a : Nat) (b : Byte)
    (h : cellsWf d m = true) : cellsWf d (cellWrite d m a b) = true := by
  induction m with
  | nil => by_cases hb : b = d a <;> simp [cellWrite, cellsWf, hb]
  | cons e m ih =>
    obtain ⟨k, c⟩ := e
    have hw := (cellsWf_cons d k c m).1 h
    rcases Nat.lt_trichotomy k a with hk | hk | hk
    · simp only [cellWrite, hk, if_true]
      exact (cellsWf_cons d k c _).2 ⟨hw.1, head_cellWrite d m a b k hk hw.2.2 hw.2.1, ih hw.2.2⟩
    · subst hk
      by_cases hb : b = d k
      · simpa [cellWrite, hb] using hw.2.2
      · simp only [cellWrite, Nat.lt_irrefl, if_false, if_true, hb]
        exact (cellsWf_cons d k b m).2 ⟨hb, hw.2.1, hw.2.2⟩
    · by_cases hb : b = d a
      · simpa [cellWrite, Nat.not_lt_of_gt hk, Nat.ne_of_gt hk, hb] using h
      · simp only [cellWrite, Nat.not_lt_of_gt hk, Nat.ne_of_gt hk, if_false, hb]
        exact (cellsWf_cons d a b _).2 ⟨hb, by simpa using hk, h⟩

/-- Filtering keeps the canonical form. -/
theorem filter_wf (d : Nat → Byte) (p : Nat × Byte → Bool) (m : Memory)
    (h : cellsWf d m = true) : cellsWf d (m.filter p) = true := by
  have above : ∀ (m : Memory) (k : Nat), (∀ e ∈ m.head?, k < e.1) → cellsWf d m = true →
      ∀ e ∈ m, k < e.1 := by
    intro m
    induction m with
    | nil => intro k _ _ e he; cases he
    | cons f m ih =>
      intro k hk hw e he
      obtain ⟨j, c⟩ := f
      have hj : k < j := by simpa using hk
      have hw := (cellsWf_cons d j c m).1 hw
      cases he with
      | head => exact hj
      | tail _ he => exact Nat.lt_trans hj (ih j hw.2.1 hw.2.2 e he)
  induction m with
  | nil => rfl
  | cons e m ih =>
    obtain ⟨k, c⟩ := e
    have hw := (cellsWf_cons d k c m).1 h
    by_cases hp : p (k, c) = true
    · rw [List.filter_cons_of_pos hp]
      refine (cellsWf_cons d k c _).2 ⟨hw.1, ?_, ih hw.2.2⟩
      intro f hf
      have : f ∈ m.filter p := List.mem_of_mem_head? hf
      exact above m k hw.2.1 hw.2.2 f (List.mem_filter.1 this).1
    · rw [List.filter_cons_of_neg hp]
      exact ih hw.2.2

theorem memWrite_wf (m : Memory) (a : Nat) (b : Byte) (h : m.wf = true) :
    (memWrite m a b).wf = true := cellWrite_wf zeroByte m a b h

theorem memRead_memWrite_same (m : Memory) (a : Nat) (b : Byte) (h : m.wf = true) :
    memRead (memWrite m a b) a = b := cellRead_cellWrite_same zeroByte m a b h

theorem memRead_memWrite_ne (m : Memory) {a x : Nat} (b : Byte) (h : x ≠ a) :
    memRead (memWrite m a b) x = memRead m x := cellRead_cellWrite_ne zeroByte m b h

theorem writeBytes_wf (m : Memory) (a : Nat) (bs : List Byte) (h : m.wf = true) :
    (writeBytes m a bs).wf = true := by
  induction bs generalizing m a with
  | nil => exact h
  | cons b bs ih => exact ih _ _ (memWrite_wf m a b h)

theorem writeLE_wf (m : Memory) (a n v : Nat) (h : m.wf = true) : (writeLE m a n v).wf = true :=
  writeBytes_wf m a _ h

theorem clearRange_wf (m : Memory) (a n : Nat) (h : m.wf = true) : (clearRange m a n).wf = true :=
  filter_wf zeroByte _ m h

theorem writeCells_wf (m cs : Memory) (h : m.wf = true) : (writeCells m cs).wf = true := by
  unfold writeCells
  induction cs generalizing m with
  | nil => exact h
  | cons c cs ih => exact ih _ (memWrite_wf m c.1 c.2 h)

theorem copyRange_wf (src : Memory) (a n : Nat) (dst : Memory) (b : Nat) (h : dst.wf = true) :
    (copyRange src a n dst b).wf = true := writeCells_wf _ _ (clearRange_wf dst b n h)

/-- A byte outside the bytes written keeps its value. -/
theorem memRead_writeBytes_out (m : Memory) (a x : Nat) (bs : List Byte)
    (h : x < a ∨ a + bs.length ≤ x) : memRead (writeBytes m a bs) x = memRead m x := by
  induction bs generalizing m a with
  | nil => rfl
  | cons b bs ih =>
    simp only [List.length_cons] at h
    have hx : x ≠ a := by omega
    rw [writeBytes, ih _ _ (by omega), memRead_memWrite_ne m b hx]

/-- A byte among the bytes written is the one written there. -/
theorem memRead_writeBytes_in (m : Memory) (a k : Nat) (bs : List Byte) (h : m.wf = true)
    (hk : k < bs.length) : memRead (writeBytes m a bs) (a + k) = bs.getD k 0 := by
  induction bs generalizing m a k with
  | nil => cases hk
  | cons b bs ih =>
    cases k with
    | zero =>
      rw [writeBytes, memRead_writeBytes_out _ _ _ _ (by omega)]
      simpa using memRead_memWrite_same m a b h
    | succ k =>
      have := ih (memWrite m a b) (a + 1) k (memWrite_wf m a b h) (by simpa using hk)
      rw [writeBytes]
      simpa [Nat.add_comm, Nat.add_left_comm, Nat.add_assoc] using this

@[simp] theorem natBytes_length (n v : Nat) : (natBytes n v).length = n := by
  induction n generalizing v with
  | zero => rfl
  | succ n ih => simp [natBytes, ih]

theorem memRead_writeLE_out (m : Memory) (a n v x : Nat) (h : x < a ∨ a + n ≤ x) :
    memRead (writeLE m a n v) x = memRead m x :=
  memRead_writeBytes_out m a x _ (by simpa using h)

/-- The number read back is the number written, cut to its bytes. -/
theorem readLE_writeLE (m : Memory) (a n v : Nat) (h : m.wf = true) :
    readLE (writeLE m a n v) a n = v % 2 ^ (8 * n) := by
  have two : ∀ (bs : List Byte) (m : Memory) (a : Nat), m.wf = true →
      readBytes (writeBytes m a bs) a bs.length = bs := by
    intro bs
    induction bs with
    | nil => intro m a _; rfl
    | cons b bs ih =>
      intro m a hm
      simp only [List.length_cons, readBytes, writeBytes]
      rw [ih _ _ (memWrite_wf m a b hm),
        memRead_writeBytes_out _ _ _ _ (by omega), memRead_memWrite_same m a b hm]
  have num : ∀ (n v : Nat), bytesNat (natBytes n v) = v % 2 ^ (8 * n) := by
    intro n
    induction n with
    | zero => intro v; simp [natBytes, bytesNat, Nat.mod_one]
    | succ n ih =>
      intro v
      simp only [natBytes, bytesNat, ih, BitVec.toNat_ofNat]
      rw [show 8 * (n + 1) = 8 + 8 * n by omega, Nat.pow_add, Nat.mod_mul]
  have := two (natBytes n v) m a h
  rw [natBytes_length] at this
  rw [readLE, writeLE, this, num]

/-! ### Evaluation order -/

/-- `strictN` only fixes when its argument is evaluated. -/
@[simp] theorem strictN_eq {α : Type} (n : Nat) (f : Nat → α) : strictN n f = f n := by
  cases n <;> rfl

@[simp] theorem strictL_eq {α : Type} (l : List Nat) (f : List Nat → α) : strictL l f = f l := by
  induction l generalizing f with
  | nil => rfl
  | cons x xs ih => simp [strictL, ih]

end Sys2Proof.Machine
end

