-- ==== Sys2Proof/Laws/Ops.lean ====
section
/-! SUPPORT. Places, threads and registers: reading after an update, and what landing a thread's
results leaves. -/

namespace Sys2Proof.Machine

/-! ### Tiles and clusters -/

@[simp] theorem tile_setTile_same (s : State) (t : Nat) (x : Tile) : tile (setTile s t x) t = x := by
  simp [tile, setTile]

theorem tile_setTile_ne (s : State) {t u : Nat} (x : Tile) (h : u ≠ t) :
    tile (setTile s t x) u = tile s u := by
  simp [tile, setTile, smGet_smSet_ne _ _ _ h]

@[simp] theorem setTile_setTile (s : State) (t : Nat) (x y : Tile) :
    setTile (setTile s t x) t y = setTile s t y := by
  simp [setTile]

@[simp] theorem cluster_setTile (s : State) (t : Nat) (x : Tile) (c : Nat) :
    cluster (setTile s t x) c = cluster s c := rfl

@[simp] theorem part_setTile (s : State) (t : Nat) (x : Tile) (p : Nat) :
    part (setTile s t x) p = part s p := rfl

@[simp] theorem cluster_setCluster_same (s : State) (c : Nat) (x : Cluster) :
    cluster (setCluster s c x) c = x := by simp [cluster, setCluster]

theorem cluster_setCluster_ne (s : State) {c d : Nat} (x : Cluster) (h : d ≠ c) :
    cluster (setCluster s c x) d = cluster s d := by
  simp [cluster, setCluster, smGet_smSet_ne _ _ _ h]

@[simp] theorem tile_setCluster (s : State) (c : Nat) (x : Cluster) (t : Nat) :
    tile (setCluster s c x) t = tile s t := rfl

/-! ### Threads -/

theorem setThr_lt (s : State) {i : Tid} (x : Thread) (h : i.tile < 1024) :
    setThr s i x = setTile s i.tile
      { tile s i.tile with threads := smSet (tile s i.tile).threads i.slot x } := by
  simp [setThr, h]

theorem thr_setThr_same (s : State) {i : Tid} (x : Thread) (h : i.tile < 1024) :
    thr (setThr s i x) i = x := by
  simp [setThr_lt s x h, thr]

theorem thr_setThr_ne (s : State) {i j : Tid} (x : Thread) (h : j ≠ i) :
    thr (setThr s i x) j = thr s j := by
  by_cases hi : i.tile < 1024
  · rw [setThr_lt s x hi]
    by_cases ht : j.tile = i.tile
    · have hs : j.slot ≠ i.slot := by
        intro hs; apply h; cases i; cases j; simp_all
      simp [thr, ht, smGet_smSet_ne _ _ _ hs]
    · simp [thr, tile_setTile_ne s _ ht]
  · simp [setThr, hi]

theorem setThr_setThr (s : State) (i : Tid) (x y : Thread) :
    setThr (setThr s i x) i y = setThr s i y := by
  by_cases hi : i.tile < 1024
  · simp [setThr_lt _ _ hi]
  · simp [setThr, hi]

/-- A context is the only thing of its tile that `setThr` changes. -/
theorem tile_setThr (s : State) (i : Tid) (x : Thread) (t : Nat) :
    tile (setThr s i x) t = tile s t
      ∨ tile (setThr s i x) t
        = { tile s t with threads := smSet (tile s t).threads i.slot x } := by
  by_cases hi : i.tile < 1024
  · rw [setThr_lt s x hi]
    by_cases ht : t = i.tile
    · subst ht; exact .inr (by simp)
    · exact .inl (tile_setTile_ne s _ ht)
  · simp [setThr, hi]

@[simp] theorem cluster_setThr (s : State) (i : Tid) (x : Thread) (c : Nat) :
    cluster (setThr s i x) c = cluster s c := by
  simp [cluster]

/-- Changing a context changes no byte of memory. -/
theorem sameMemory_setThr (s : State) (i : Tid) (x : Thread) : SameMemory s (setThr s i x) := by
  refine ⟨by simp, by simp, ?_, by simp, ?_⟩
  · intro k; rcases tile_setThr s i x k with h | h <;> simp [h]
  · intro k; rcases tile_setThr s i x k with h | h <;> simp [h]

theorem SameMemory.refl (s : State) : SameMemory s s :=
  ⟨rfl, rfl, fun _ => rfl, fun _ => rfl, fun _ => ⟨rfl, rfl, rfl⟩⟩

theorem SameMemory.trans {s t u : State} (h : SameMemory s t) (g : SameMemory t u) :
    SameMemory s u := by
  obtain ⟨h1, h2, h3, h4, h5⟩ := h
  obtain ⟨g1, g2, g3, g4, g5⟩ := g
  refine ⟨g1.trans h1, g2.trans h2, fun k => (g3 k).trans (h3 k), fun c => (g4 c).trans (h4 c),
    fun k => ?_⟩
  exact ⟨(g5 k).1.trans (h5 k).1, (g5 k).2.1.trans (h5 k).2.1, (g5 k).2.2.trans (h5 k).2.2⟩

/-! ### Registers -/

@[simp] theorem getXR_zero (th : Thread) : getXR th 0 = XReg.zero := rfl

@[simp] theorem getX_zero (th : Thread) : getX th 0 = 0 := rfl

theorem getXR_setXR_same (th : Thread) {n : Nat} (v : Word) (r : BitVec 4) (h : n ≠ 0) :
    getXR (setXR th n v r) n = ⟨v, r⟩ := by
  simp [getXR, setXR, h]

theorem getXR_setXR_ne (th : Thread) {n k : Nat} (v : Word) (r : BitVec 4) (h : k ≠ n) :
    getXR (setXR th n v r) k = getXR th k := by
  by_cases hn : n = 0
  · simp [setXR, hn]
  · by_cases hk : k = 0
    · simp [getXR, hk]
    · simp [getXR, setXR, hn, hk, smGet_smSet_ne _ _ _ h]

theorem getX_setX_same (th : Thread) {n : Nat} (v : Word) (h : n ≠ 0) :
    getX (setX th n v) n = v := by
  simp [getX, setX, getXR_setXR_same th v _ h]

theorem getX_setX_ne (th : Thread) {n k : Nat} (v : Word) (h : k ≠ n) :
    getX (setX th n v) k = getX th k := by
  simp [getX, setX, getXR_setXR_ne th v _ h]

/-- A write of the residue that belongs to the value leaves a sound register. -/
theorem setX_sound (th : Thread) {n : Nat} (v : Word) (h : n ≠ 0) :
    (getXR (setX th n v) n).r = residue (getXR (setX th n v) n).v := by
  simp [setX, getXR_setXR_same th v _ h]

/-! ### Landing -/

@[simp] theorem landUpTo_cur (s : State) (i : Tid) (c : Nat) : (landUpTo s i c).cur = s.cur := by
  unfold landUpTo; split <;> simp

@[simp] theorem landUpTo_cycle (s : State) (i : Tid) (c : Nat) :
    (landUpTo s i c).cycle = s.cycle := by
  unfold landUpTo; split <;> simp

@[simp] theorem landUpTo_ir (s : State) (i : Tid) (c : Nat) : (landUpTo s i c).ir = s.ir := by
  unfold landUpTo; split <;> simp

@[simp] theorem landUpTo_hbm (s : State) (i : Tid) (c : Nat) : (landUpTo s i c).hbm = s.hbm := by
  unfold landUpTo; split <;> simp

@[simp] theorem landed_cur (s : State) : (landed s).cur = s.cur := landUpTo_cur _ _ _

@[simp] theorem landed_cycle (s : State) : (landed s).cycle = s.cycle := landUpTo_cycle _ _ _

@[simp] theorem landed_ir (s : State) : (landed s).ir = s.ir := landUpTo_ir _ _ _

/-- A thread with no pending result lands nothing. -/
theorem landed_of_pend (s : State) (h : (me s).pend = []) : landed s = s := by
  unfold landed landUpTo
  rw [show (thr s s.cur).pend = [] from h]

/-! ### An issue -/

/-- Checks that agree on fields, privilege, registers and residues clear the same issues: the kind of a
trap, the reread vectors and the understudy's way are no part of it. -/
theorem clear_agree {c d : Chk} {s : State} (h : Clear c s) (hok : d.ok = c.ok) (hp : d.priv = c.priv)
    (hx : d.xs = c.xs) (hv : d.vs = c.vs) (hr : d.res = c.res) : Clear d s where
  place := h.place
  single := h.single
  fields := hok.trans h.fields
  priv := hp ▸ h.priv
  bank := hx ▸ h.bank
  window := hv ▸ h.window
  ready := fun hc => by simpa [notReady, hx, hv] using h.ready hc
  sound := hr ▸ h.sound

/-- What a clear issue does: the body, on the state in which due results are written, and the end
of the issue. -/
theorem run_clear (stl : BitVec 3) (c : Chk) (body : State → Ret) (s : State) (h : Clear c s) :
    run stl c body s = .next (settle stl (body (landed s))) := by
  have hres : residueBad (me (landed s)) c.res = none := by
    unfold residueBad
    rw [List.find?_eq_none]
    intro e he
    simp [h.sound e he]
  have hj : judge c body (landed s) = body (landed s) := by
    unfold judge
    have hb : (!(tile (landed s) (landed s).cur.tile).wide
        && c.xs.any (fun x => decide (16 ≤ x.toNat))) = false := by
      rw [landed_cur]
      rcases h.bank with hw | hw
      · simp [hw]
      · simp only [Bool.and_eq_false_iff, List.any_eq_false, decide_eq_true_eq, Nat.not_le]
        exact .inr hw
    have hv : c.vs.any (fun v => decide (v.toNat < 24)
        && decide ((me (landed s)).vwSize ≤ v.toNat)) = false := by
      simp only [List.any_eq_false, Bool.and_eq_true, decide_eq_true_eq, not_and, Nat.not_le]
      exact h.window
    have hr : ((me (landed s)).chkstl && notReady (landed s) c) = false := by
      cases hc : (me (landed s)).chkstl
      · rfl
      · simpa using h.ready hc
    simp only [h.fields, Bool.not_true, Bool.false_eq_true, if_false, Nat.not_lt.2 h.priv, hb, hv, hr,
      hres]
  have hs := h.single
  simp only [run, runState, ← show landed s = landUpTo s s.cur s.cycle from rfl, hs,
    Bool.false_eq_true, if_false, hj]

@[simp] theorem settle_go (stl : BitVec 3) (s : State) : settle stl (.go s) = went stl s := rfl

@[simp] theorem settle_goto (stl : BitVec 3) (pc : Word) (s : State) :
    settle stl (.goto pc s) = wentTo stl pc s := rfl

@[simp] theorem settle_sleep (stl : BitVec 3) (w : Wait) (s : State) :
    settle stl (.sleep w s) = slept stl w s := by
  cases w <;> rfl

/-- A scalar result changes the context of the issuing thread as `withX` says. -/
theorem putXR_eq (stl : BitVec 3) (lat : Nat) (fp : Bool) (rd : BitVec 5) (v : Word) (r : BitVec 4)
    (s : State) : putXR stl lat fp rd v r s = onMe s (withX s stl lat fp rd v r) := by
  have h : rd = 0 ∨ rd.toNat ≠ 0 := by
    by_cases h : rd = 0
    · exact .inl h
    · exact .inr fun h0 => h (BitVec.eq_of_toNat_eq (by simpa using h0))
  rcases h with h | h
  · simp [putXR, onMe, withX, me, h, flagsBy]
  · have h' : rd ≠ 0 := by rintro rfl; exact h rfl
    unfold putXR onMe withX me
    simp only [updThr_eq, h', if_false, flagsBy]
    split <;> split <;> simp [setXR, h]

theorem went_onMe (stl : BitVec 3) (s : State) (f : Thread → Thread) (h : s.cur.tile < 1024)
    (ha : (f (me s)).again = (me s).again) :
    went stl (onMe s f)
      = setThr s s.cur { advance (f (me s)) with st := .issued (nextFrom s stl) } := by
  have hc : (onMe s f).cur = s.cur := by simp [onMe]
  have hm : me (onMe s f) = f (me s) := by
    unfold me
    rw [hc]
    exact thr_setThr_same s _ h
  have hn : nextFrom (onMe s f) stl = nextFrom s stl := by
    simp only [nextFrom, hm, ha, show (onMe s f).cycle = s.cycle by simp [onMe]]
  unfold went
  rw [hm, hn, hc]
  exact setThr_setThr s s.cur _ _

end Sys2Proof.Machine
end

