-- ==== Sys2Proof/Laws/PerInstr.lean ====
section
/-! SUPPORT. One lemma per instruction: the number that the encoder makes of it is a word. -/

namespace Sys2Proof.Laws.Fits

/-- The number that stands for an instruction is below 2^32. -/
def Statement (i : Instr) : Prop := ∀ n, encodeNat i = some n → n < 2 ^ 32

end Sys2Proof.Laws.Fits

open Sys2Proof

theorem Sys2Proof.Laws.fits_of_word {i : Instr} {m : Nat} (h : encodeNat i = some m)
    (hm : m < 2 ^ 32) : Sys2Proof.Laws.Fits.Statement i := by
  intro n hn
  rw [h] at hn
  cases hn
  exact hm

theorem Sys2Proof.Laws.fits_of_none {i : Instr} (h : encodeNat i = none) :
    Sys2Proof.Laws.Fits.Statement i := by
  intro n hn
  rw [h] at hn
  cases hn

theorem Sys2Proof.Laws.Fits.add (stl : BitVec 3) (rd : BitVec 5) (ra : BitVec 5) (rb : BitVec 5) :
    Sys2Proof.Laws.Fits.Statement (.add stl rd ra rb) :=
  Sys2Proof.Laws.fits_of_word rfl (by simp only [packWord]; omega)
theorem Sys2Proof.Laws.Fits.sub (stl : BitVec 3) (rd : BitVec 5) (ra : BitVec 5) (rb : BitVec 5) :
    Sys2Proof.Laws.Fits.Statement (.sub stl rd ra rb) :=
  Sys2Proof.Laws.fits_of_word rfl (by simp only [packWord]; omega)
theorem Sys2Proof.Laws.Fits.and (stl : BitVec 3) (rd : BitVec 5) (ra : BitVec 5) (rb : BitVec 5) :
    Sys2Proof.Laws.Fits.Statement (.and stl rd ra rb) :=
  Sys2Proof.Laws.fits_of_word rfl (by simp only [packWord]; omega)
theorem Sys2Proof.Laws.Fits.or (stl : BitVec 3) (rd : BitVec 5) (ra : BitVec 5) (rb : BitVec 5) :
    Sys2Proof.Laws.Fits.Statement (.or stl rd ra rb) :=
  Sys2Proof.Laws.fits_of_word rfl (by simp only [packWord]; omega)
theorem Sys2Proof.Laws.Fits.xor (stl : BitVec 3) (rd : BitVec 5) (ra : BitVec 5) (rb : BitVec 5) :
    Sys2Proof.Laws.Fits.Statement (.xor stl rd ra rb) :=
  Sys2Proof.Laws.fits_of_word rfl (by simp only [packWord]; omega)
theorem Sys2Proof.Laws.Fits.andn (stl : BitVec 3) (rd : BitVec 5) (ra : BitVec 5) (rb : BitVec 5) :
    Sys2Proof.Laws.Fits.Statement (.andn stl rd ra rb) :=
  Sys2Proof.Laws.fits_of_word rfl (by simp only [packWord]; omega)
theorem Sys2Proof.Laws.Fits.orn (stl : BitVec 3) (rd : BitVec 5) (ra : BitVec 5) (rb : BitVec 5) :
    Sys2Proof.Laws.Fits.Statement (.orn stl rd ra rb) :=
  Sys2Proof.Laws.fits_of_word rfl (by simp only [packWord]; omega)
theorem Sys2Proof.Laws.Fits.sll (stl : BitVec 3) (rd : BitVec 5) (ra : BitVec 5) (rb : BitVec 5) :
    Sys2Proof.Laws.Fits.Statement (.sll stl rd ra rb) :=
  Sys2Proof.Laws.fits_of_word rfl (by simp only [packWord]; omega)
theorem Sys2Proof.Laws.Fits.srl (stl : BitVec 3) (rd : BitVec 5) (ra : BitVec 5) (rb : BitVec 5) :
    Sys2Proof.Laws.Fits.Statement (.srl stl rd ra rb) :=
  Sys2Proof.Laws.fits_of_word rfl (by simp only [packWord]; omega)
theorem Sys2Proof.Laws.Fits.sra (stl : BitVec 3) (rd : BitVec 5) (ra : BitVec 5) (rb : BitVec 5) :
    Sys2Proof.Laws.Fits.Statement (.sra stl rd ra rb) :=
  Sys2Proof.Laws.fits_of_word rfl (by simp only [packWord]; omega)
theorem Sys2Proof.Laws.Fits.rol (stl : BitVec 3) (rd : BitVec 5) (ra : BitVec 5) (rb : BitVec 5) :
    Sys2Proof.Laws.Fits.Statement (.rol stl rd ra rb) :=
  Sys2Proof.Laws.fits_of_word rfl (by simp only [packWord]; omega)
theorem Sys2Proof.Laws.Fits.ror (stl : BitVec 3) (rd : BitVec 5) (ra : BitVec 5) (rb : BitVec 5) :
    Sys2Proof.Laws.Fits.Statement (.ror stl rd ra rb) :=
  Sys2Proof.Laws.fits_of_word rfl (by simp only [packWord]; omega)
theorem Sys2Proof.Laws.Fits.slt (stl : BitVec 3) (rd : BitVec 5) (ra : BitVec 5) (rb : BitVec 5) :
    Sys2Proof.Laws.Fits.Statement (.slt stl rd ra rb) :=
  Sys2Proof.Laws.fits_of_word rfl (by simp only [packWord]; omega)
theorem Sys2Proof.Laws.Fits.sltu (stl : BitVec 3) (rd : BitVec 5) (ra : BitVec 5) (rb : BitVec 5) :
    Sys2Proof.Laws.Fits.Statement (.sltu stl rd ra rb) :=
  Sys2Proof.Laws.fits_of_word rfl (by simp only [packWord]; omega)
theorem Sys2Proof.Laws.Fits.seq (stl : BitVec 3) (rd : BitVec 5) (ra : BitVec 5) (rb : BitVec 5) :
    Sys2Proof.Laws.Fits.Statement (.seq stl rd ra rb) :=
  Sys2Proof.Laws.fits_of_word rfl (by simp only [packWord]; omega)
theorem Sys2Proof.Laws.Fits.sne (stl : BitVec 3) (rd : BitVec 5) (ra : BitVec 5) (rb : BitVec 5) :
    Sys2Proof.Laws.Fits.Statement (.sne stl rd ra rb) :=
  Sys2Proof.Laws.fits_of_word rfl (by simp only [packWord]; omega)
theorem Sys2Proof.Laws.Fits.min (stl : BitVec 3) (rd : BitVec 5) (ra : BitVec 5) (rb : BitVec 5) :
    Sys2Proof.Laws.Fits.Statement (.min stl rd ra rb) :=
  Sys2Proof.Laws.fits_of_word rfl (by simp only [packWord]; omega)
theorem Sys2Proof.Laws.Fits.max (stl : BitVec 3) (rd : BitVec 5) (ra : BitVec 5) (rb : BitVec 5) :
    Sys2Proof.Laws.Fits.Statement (.max stl rd ra rb) :=
  Sys2Proof.Laws.fits_of_word rfl (by simp only [packWord]; omega)
theorem Sys2Proof.Laws.Fits.minu (stl : BitVec 3) (rd : BitVec 5) (ra : BitVec 5) (rb : BitVec 5) :
    Sys2Proof.Laws.Fits.Statement (.minu stl rd ra rb) :=
  Sys2Proof.Laws.fits_of_word rfl (by simp only [packWord]; omega)
theorem Sys2Proof.Laws.Fits.maxu (stl : BitVec 3) (rd : BitVec 5) (ra : BitVec 5) (rb : BitVec 5) :
    Sys2Proof.Laws.Fits.Statement (.maxu stl rd ra rb) :=
  Sys2Proof.Laws.fits_of_word rfl (by simp only [packWord]; omega)
theorem Sys2Proof.Laws.Fits.clz (stl : BitVec 3) (rd : BitVec 5) (ra : BitVec 5) :
    Sys2Proof.Laws.Fits.Statement (.clz stl rd ra) :=
  Sys2Proof.Laws.fits_of_word rfl (by simp only [packWord]; omega)
theorem Sys2Proof.Laws.Fits.ctz (stl : BitVec 3) (rd : BitVec 5) (ra : BitVec 5) :
    Sys2Proof.Laws.Fits.Statement (.ctz stl rd ra) :=
  Sys2Proof.Laws.fits_of_word rfl (by simp only [packWord]; omega)
theorem Sys2Proof.Laws.Fits.popc (stl : BitVec 3) (rd : BitVec 5) (ra : BitVec 5) :
    Sys2Proof.Laws.Fits.Statement (.popc stl rd ra) :=
  Sys2Proof.Laws.fits_of_word rfl (by simp only [packWord]; omega)
theorem Sys2Proof.Laws.Fits.bswap (stl : BitVec 3) (rd : BitVec 5) (ra : BitVec 5) :
    Sys2Proof.Laws.Fits.Statement (.bswap stl rd ra) :=
  Sys2Proof.Laws.fits_of_word rfl (by simp only [packWord]; omega)
theorem Sys2Proof.Laws.Fits.sextb (stl : BitVec 3) (rd : BitVec 5) (ra : BitVec 5) :
    Sys2Proof.Laws.Fits.Statement (.sextb stl rd ra) :=
  Sys2Proof.Laws.fits_of_word rfl (by simp only [packWord]; omega)
theorem Sys2Proof.Laws.Fits.sexth (stl : BitVec 3) (rd : BitVec 5) (ra : BitVec 5) :
    Sys2Proof.Laws.Fits.Statement (.sexth stl rd ra) :=
  Sys2Proof.Laws.fits_of_word rfl (by simp only [packWord]; omega)
theorem Sys2Proof.Laws.Fits.sextw (stl : BitVec 3) (rd : BitVec 5) (ra : BitVec 5) :
    Sys2Proof.Laws.Fits.Statement (.sextw stl rd ra) :=
  Sys2Proof.Laws.fits_of_word rfl (by simp only [packWord]; omega)
theorem Sys2Proof.Laws.Fits.zextw (stl : BitVec 3) (rd : BitVec 5) (ra : BitVec 5) :
    Sys2Proof.Laws.Fits.Statement (.zextw stl rd ra) :=
  Sys2Proof.Laws.fits_of_word rfl (by simp only [packWord]; omega)
theorem Sys2Proof.Laws.Fits.addi (stl : BitVec 3) (rd : BitVec 5) (ra : BitVec 5) (imm : BitVec 13) :
    Sys2Proof.Laws.Fits.Statement (.addi stl rd ra imm) :=
  Sys2Proof.Laws.fits_of_word rfl (by simp only [packWord]; omega)
theorem Sys2Proof.Laws.Fits.andi (stl : BitVec 3) (rd : BitVec 5) (ra : BitVec 5) (imm : BitVec 13) :
    Sys2Proof.Laws.Fits.Statement (.andi stl rd ra imm) :=
  Sys2Proof.Laws.fits_of_word rfl (by simp only [packWord]; omega)
theorem Sys2Proof.Laws.Fits.ori (stl : BitVec 3) (rd : BitVec 5) (ra : BitVec 5) (imm : BitVec 13) :
    Sys2Proof.Laws.Fits.Statement (.ori stl rd ra imm) :=
  Sys2Proof.Laws.fits_of_word rfl (by simp only [packWord]; omega)
theorem Sys2Proof.Laws.Fits.xori (stl : BitVec 3) (rd : BitVec 5) (ra : BitVec 5) (imm : BitVec 13) :
    Sys2Proof.Laws.Fits.Statement (.xori stl rd ra imm) :=
  Sys2Proof.Laws.fits_of_word rfl (by simp only [packWord]; omega)
theorem Sys2Proof.Laws.Fits.slti (stl : BitVec 3) (rd : BitVec 5) (ra : BitVec 5) (imm : BitVec 13) :
    Sys2Proof.Laws.Fits.Statement (.slti stl rd ra imm) :=
  Sys2Proof.Laws.fits_of_word rfl (by simp only [packWord]; omega)
theorem Sys2Proof.Laws.Fits.sltiu (stl : BitVec 3) (rd : BitVec 5) (ra : BitVec 5) (imm : BitVec 13) :
    Sys2Proof.Laws.Fits.Statement (.sltiu stl rd ra imm) :=
  Sys2Proof.Laws.fits_of_word rfl (by simp only [packWord]; omega)
theorem Sys2Proof.Laws.Fits.slli (stl : BitVec 3) (rd : BitVec 5) (ra : BitVec 5) (amt : BitVec 6) :
    Sys2Proof.Laws.Fits.Statement (.slli stl rd ra amt) :=
  Sys2Proof.Laws.fits_of_word rfl (by simp only [packWord]; omega)
theorem Sys2Proof.Laws.Fits.srli (stl : BitVec 3) (rd : BitVec 5) (ra : BitVec 5) (amt : BitVec 6) :
    Sys2Proof.Laws.Fits.Statement (.srli stl rd ra amt) :=
  Sys2Proof.Laws.fits_of_word rfl (by simp only [packWord]; omega)
theorem Sys2Proof.Laws.Fits.srai (stl : BitVec 3) (rd : BitVec 5) (ra : BitVec 5) (amt : BitVec 6) :
    Sys2Proof.Laws.Fits.Statement (.srai stl rd ra amt) :=
  Sys2Proof.Laws.fits_of_word rfl (by simp only [packWord]; omega)
theorem Sys2Proof.Laws.Fits.rori (stl : BitVec 3) (rd : BitVec 5) (ra : BitVec 5) (amt : BitVec 6) :
    Sys2Proof.Laws.Fits.Statement (.rori stl rd ra amt) :=
  Sys2Proof.Laws.fits_of_word rfl (by simp only [packWord]; omega)
theorem Sys2Proof.Laws.Fits.lui (stl : BitVec 3) (rd : BitVec 5) (imm : BitVec 18) :
    Sys2Proof.Laws.Fits.Statement (.lui stl rd imm) :=
  Sys2Proof.Laws.fits_of_word rfl (by simp only [packWord]; omega)
theorem Sys2Proof.Laws.Fits.auipc (stl : BitVec 3) (rd : BitVec 5) (imm : BitVec 18) :
    Sys2Proof.Laws.Fits.Statement (.auipc stl rd imm) :=
  Sys2Proof.Laws.fits_of_word rfl (by simp only [packWord]; omega)
theorem Sys2Proof.Laws.Fits.padd (stl : BitVec 3) (rd : BitVec 5) (ra : BitVec 5) (rb : BitVec 5) :
    Sys2Proof.Laws.Fits.Statement (.padd stl rd ra rb) :=
  Sys2Proof.Laws.fits_of_word rfl (by simp only [packWord]; omega)
theorem Sys2Proof.Laws.Fits.psub (stl : BitVec 3) (rd : BitVec 5) (ra : BitVec 5) (rb : BitVec 5) :
    Sys2Proof.Laws.Fits.Statement (.psub stl rd ra rb) :=
  Sys2Proof.Laws.fits_of_word rfl (by simp only [packWord]; omega)
theorem Sys2Proof.Laws.Fits.ptag (stl : BitVec 3) (rd : BitVec 5) (ra : BitVec 5) (rb : BitVec 5) :
    Sys2Proof.Laws.Fits.Statement (.ptag stl rd ra rb) :=
  Sys2Proof.Laws.fits_of_word rfl (by simp only [packWord]; omega)
theorem Sys2Proof.Laws.Fits.pfmt (stl : BitVec 3) (rd : BitVec 5) (ra : BitVec 5) (rb : BitVec 5) :
    Sys2Proof.Laws.Fits.Statement (.pfmt stl rd ra rb) :=
  Sys2Proof.Laws.fits_of_word rfl (by simp only [packWord]; omega)
theorem Sys2Proof.Laws.Fits.pchk (stl : BitVec 3) (rd : BitVec 5) (ra : BitVec 5) (rb : BitVec 5) :
    Sys2Proof.Laws.Fits.Statement (.pchk stl rd ra rb) :=
  Sys2Proof.Laws.fits_of_word rfl (by simp only [packWord]; omega)
theorem Sys2Proof.Laws.Fits.pspc (stl : BitVec 3) (rd : BitVec 5) (ra : BitVec 5) (rb : BitVec 5) :
    Sys2Proof.Laws.Fits.Statement (.pspc stl rd ra rb) :=
  Sys2Proof.Laws.fits_of_word rfl (by simp only [packWord]; omega)
theorem Sys2Proof.Laws.Fits.paddi (stl : BitVec 3) (rd : BitVec 5) (ra : BitVec 5) (imm : BitVec 13) :
    Sys2Proof.Laws.Fits.Statement (.paddi stl rd ra imm) :=
  Sys2Proof.Laws.fits_of_word rfl (by simp only [packWord]; omega)
theorem Sys2Proof.Laws.Fits.fadd (stl : BitVec 3) (rd : BitVec 5) (ra : BitVec 5) (rb : BitVec 5) (prec : BitVec 2) :
    Sys2Proof.Laws.Fits.Statement (.fadd stl rd ra rb prec) :=
  Sys2Proof.Laws.fits_of_word rfl (by simp only [packWord]; omega)
theorem Sys2Proof.Laws.Fits.fsub (stl : BitVec 3) (rd : BitVec 5) (ra : BitVec 5) (rb : BitVec 5) (prec : BitVec 2) :
    Sys2Proof.Laws.Fits.Statement (.fsub stl rd ra rb prec) :=
  Sys2Proof.Laws.fits_of_word rfl (by simp only [packWord]; omega)
theorem Sys2Proof.Laws.Fits.fmul (stl : BitVec 3) (rd : BitVec 5) (ra : BitVec 5) (rb : BitVec 5) (prec : BitVec 2) :
    Sys2Proof.Laws.Fits.Statement (.fmul stl rd ra rb prec) :=
  Sys2Proof.Laws.fits_of_word rfl (by simp only [packWord]; omega)
theorem Sys2Proof.Laws.Fits.fdiv (stl : BitVec 3) (rd : BitVec 5) (ra : BitVec 5) (rb : BitVec 5) (prec : BitVec 2) :
    Sys2Proof.Laws.Fits.Statement (.fdiv stl rd ra rb prec) :=
  Sys2Proof.Laws.fits_of_word rfl (by simp only [packWord]; omega)
theorem Sys2Proof.Laws.Fits.fsqrt (stl : BitVec 3) (rd : BitVec 5) (ra : BitVec 5) (prec : BitVec 2) :
    Sys2Proof.Laws.Fits.Statement (.fsqrt stl rd ra prec) :=
  Sys2Proof.Laws.fits_of_word rfl (by simp only [packWord]; omega)
theorem Sys2Proof.Laws.Fits.fmin (stl : BitVec 3) (rd : BitVec 5) (ra : BitVec 5) (rb : BitVec 5) (prec : BitVec 2) :
    Sys2Proof.Laws.Fits.Statement (.fmin stl rd ra rb prec) :=
  Sys2Proof.Laws.fits_of_word rfl (by simp only [packWord]; omega)
theorem Sys2Proof.Laws.Fits.fmax (stl : BitVec 3) (rd : BitVec 5) (ra : BitVec 5) (rb : BitVec 5) (prec : BitVec 2) :
    Sys2Proof.Laws.Fits.Statement (.fmax stl rd ra rb prec) :=
  Sys2Proof.Laws.fits_of_word rfl (by simp only [packWord]; omega)
theorem Sys2Proof.Laws.Fits.ffma (stl : BitVec 3) (rd : BitVec 5) (ra : BitVec 5) (rb : BitVec 5) (prec : BitVec 2) :
    Sys2Proof.Laws.Fits.Statement (.ffma stl rd ra rb prec) :=
  Sys2Proof.Laws.fits_of_word rfl (by simp only [packWord]; omega)
theorem Sys2Proof.Laws.Fits.ffms (stl : BitVec 3) (rd : BitVec 5) (ra : BitVec 5) (rb : BitVec 5) (prec : BitVec 2) :
    Sys2Proof.Laws.Fits.Statement (.ffms stl rd ra rb prec) :=
  Sys2Proof.Laws.fits_of_word rfl (by simp only [packWord]; omega)
theorem Sys2Proof.Laws.Fits.feq (stl : BitVec 3) (rd : BitVec 5) (ra : BitVec 5) (rb : BitVec 5) (prec : BitVec 2) :
    Sys2Proof.Laws.Fits.Statement (.feq stl rd ra rb prec) :=
  Sys2Proof.Laws.fits_of_word rfl (by simp only [packWord]; omega)
theorem Sys2Proof.Laws.Fits.flt (stl : BitVec 3) (rd : BitVec 5) (ra : BitVec 5) (rb : BitVec 5) (prec : BitVec 2) :
    Sys2Proof.Laws.Fits.Statement (.flt stl rd ra rb prec) :=
  Sys2Proof.Laws.fits_of_word rfl (by simp only [packWord]; omega)
theorem Sys2Proof.Laws.Fits.fle (stl : BitVec 3) (rd : BitVec 5) (ra : BitVec 5) (rb : BitVec 5) (prec : BitVec 2) :
    Sys2Proof.Laws.Fits.Statement (.fle stl rd ra rb prec) :=
  Sys2Proof.Laws.fits_of_word rfl (by simp only [packWord]; omega)
theorem Sys2Proof.Laws.Fits.fclass (stl : BitVec 3) (rd : BitVec 5) (ra : BitVec 5) (prec : BitVec 2) :
    Sys2Proof.Laws.Fits.Statement (.fclass stl rd ra prec) :=
  Sys2Proof.Laws.fits_of_word rfl (by simp only [packWord]; omega)
theorem Sys2Proof.Laws.Fits.fsgnj (stl : BitVec 3) (rd : BitVec 5) (ra : BitVec 5) (rb : BitVec 5) (prec : BitVec 2) :
    Sys2Proof.Laws.Fits.Statement (.fsgnj stl rd ra rb prec) :=
  Sys2Proof.Laws.fits_of_word rfl (by simp only [packWord]; omega)
theorem Sys2Proof.Laws.Fits.fsgnjn (stl : BitVec 3) (rd : BitVec 5) (ra : BitVec 5) (rb : BitVec 5) (prec : BitVec 2) :
    Sys2Proof.Laws.Fits.Statement (.fsgnjn stl rd ra rb prec) :=
  Sys2Proof.Laws.fits_of_word rfl (by simp only [packWord]; omega)
theorem Sys2Proof.Laws.Fits.fsgnjx (stl : BitVec 3) (rd : BitVec 5) (ra : BitVec 5) (rb : BitVec 5) (prec : BitVec 2) :
    Sys2Proof.Laws.Fits.Statement (.fsgnjx stl rd ra rb prec) :=
  Sys2Proof.Laws.fits_of_word rfl (by simp only [packWord]; omega)
theorem Sys2Proof.Laws.Fits.fcvtI (stl : BitVec 3) (rd : BitVec 5) (ra : BitVec 5) (prec : BitVec 2) :
    Sys2Proof.Laws.Fits.Statement (.fcvtI stl rd ra prec) :=
  Sys2Proof.Laws.fits_of_word rfl (by simp only [packWord]; omega)
theorem Sys2Proof.Laws.Fits.fcvtIu (stl : BitVec 3) (rd : BitVec 5) (ra : BitVec 5) (prec : BitVec 2) :
    Sys2Proof.Laws.Fits.Statement (.fcvtIu stl rd ra prec) :=
  Sys2Proof.Laws.fits_of_word rfl (by simp only [packWord]; omega)
theorem Sys2Proof.Laws.Fits.fcvtF (stl : BitVec 3) (rd : BitVec 5) (ra : BitVec 5) (prec : BitVec 2) :
    Sys2Proof.Laws.Fits.Statement (.fcvtF stl rd ra prec) :=
  Sys2Proof.Laws.fits_of_word rfl (by simp only [packWord]; omega)
theorem Sys2Proof.Laws.Fits.fcvtFu (stl : BitVec 3) (rd : BitVec 5) (ra : BitVec 5) (prec : BitVec 2) :
    Sys2Proof.Laws.Fits.Statement (.fcvtFu stl rd ra prec) :=
  Sys2Proof.Laws.fits_of_word rfl (by simp only [packWord]; omega)
theorem Sys2Proof.Laws.Fits.fcvtP (stl : BitVec 3) (rd : BitVec 5) (ra : BitVec 5) (sprec : BitVec 2) (prec : BitVec 2) :
    Sys2Proof.Laws.Fits.Statement (.fcvtP stl rd ra sprec prec) :=
  Sys2Proof.Laws.fits_of_word rfl (by simp only [packWord]; omega)
theorem Sys2Proof.Laws.Fits.mul (stl : BitVec 3) (rd : BitVec 5) (ra : BitVec 5) (rb : BitVec 5) :
    Sys2Proof.Laws.Fits.Statement (.mul stl rd ra rb) :=
  Sys2Proof.Laws.fits_of_word rfl (by simp only [packWord]; omega)
theorem Sys2Proof.Laws.Fits.mulh (stl : BitVec 3) (rd : BitVec 5) (ra : BitVec 5) (rb : BitVec 5) :
    Sys2Proof.Laws.Fits.Statement (.mulh stl rd ra rb) :=
  Sys2Proof.Laws.fits_of_word rfl (by simp only [packWord]; omega)
theorem Sys2Proof.Laws.Fits.mulhu (stl : BitVec 3) (rd : BitVec 5) (ra : BitVec 5) (rb : BitVec 5) :
    Sys2Proof.Laws.Fits.Statement (.mulhu stl rd ra rb) :=
  Sys2Proof.Laws.fits_of_word rfl (by simp only [packWord]; omega)
theorem Sys2Proof.Laws.Fits.mulhsu (stl : BitVec 3) (rd : BitVec 5) (ra : BitVec 5) (rb : BitVec 5) :
    Sys2Proof.Laws.Fits.Statement (.mulhsu stl rd ra rb) :=
  Sys2Proof.Laws.fits_of_word rfl (by simp only [packWord]; omega)
theorem Sys2Proof.Laws.Fits.div (stl : BitVec 3) (rd : BitVec 5) (ra : BitVec 5) (rb : BitVec 5) :
    Sys2Proof.Laws.Fits.Statement (.div stl rd ra rb) :=
  Sys2Proof.Laws.fits_of_word rfl (by simp only [packWord]; omega)
theorem Sys2Proof.Laws.Fits.divu (stl : BitVec 3) (rd : BitVec 5) (ra : BitVec 5) (rb : BitVec 5) :
    Sys2Proof.Laws.Fits.Statement (.divu stl rd ra rb) :=
  Sys2Proof.Laws.fits_of_word rfl (by simp only [packWord]; omega)
theorem Sys2Proof.Laws.Fits.rem (stl : BitVec 3) (rd : BitVec 5) (ra : BitVec 5) (rb : BitVec 5) :
    Sys2Proof.Laws.Fits.Statement (.rem stl rd ra rb) :=
  Sys2Proof.Laws.fits_of_word rfl (by simp only [packWord]; omega)
theorem Sys2Proof.Laws.Fits.remu (stl : BitVec 3) (rd : BitVec 5) (ra : BitVec 5) (rb : BitVec 5) :
    Sys2Proof.Laws.Fits.Statement (.remu stl rd ra rb) :=
  Sys2Proof.Laws.fits_of_word rfl (by simp only [packWord]; omega)
theorem Sys2Proof.Laws.Fits.beq (stl : BitVec 3) (ra : BitVec 5) (rb : BitVec 5) (off : BitVec 13) :
    Sys2Proof.Laws.Fits.Statement (.beq stl ra rb off) :=
  Sys2Proof.Laws.fits_of_word rfl (by simp only [packWord]; omega)
theorem Sys2Proof.Laws.Fits.bne (stl : BitVec 3) (ra : BitVec 5) (rb : BitVec 5) (off : BitVec 13) :
    Sys2Proof.Laws.Fits.Statement (.bne stl ra rb off) :=
  Sys2Proof.Laws.fits_of_word rfl (by simp only [packWord]; omega)
theorem Sys2Proof.Laws.Fits.blt (stl : BitVec 3) (ra : BitVec 5) (rb : BitVec 5) (off : BitVec 13) :
    Sys2Proof.Laws.Fits.Statement (.blt stl ra rb off) :=
  Sys2Proof.Laws.fits_of_word rfl (by simp only [packWord]; omega)
theorem Sys2Proof.Laws.Fits.bge (stl : BitVec 3) (ra : BitVec 5) (rb : BitVec 5) (off : BitVec 13) :
    Sys2Proof.Laws.Fits.Statement (.bge stl ra rb off) :=
  Sys2Proof.Laws.fits_of_word rfl (by simp only [packWord]; omega)
theorem Sys2Proof.Laws.Fits.bltu (stl : BitVec 3) (ra : BitVec 5) (rb : BitVec 5) (off : BitVec 13) :
    Sys2Proof.Laws.Fits.Statement (.bltu stl ra rb off) :=
  Sys2Proof.Laws.fits_of_word rfl (by simp only [packWord]; omega)
theorem Sys2Proof.Laws.Fits.bgeu (stl : BitVec 3) (ra : BitVec 5) (rb : BitVec 5) (off : BitVec 13) :
    Sys2Proof.Laws.Fits.Statement (.bgeu stl ra rb off) :=
  Sys2Proof.Laws.fits_of_word rfl (by simp only [packWord]; omega)
theorem Sys2Proof.Laws.Fits.j (stl : BitVec 3) (off : BitVec 23) :
    Sys2Proof.Laws.Fits.Statement (.j stl off) :=
  Sys2Proof.Laws.fits_of_word rfl (by simp only [packWord]; omega)
theorem Sys2Proof.Laws.Fits.jal (stl : BitVec 3) (off : BitVec 23) :
    Sys2Proof.Laws.Fits.Statement (.jal stl off) :=
  Sys2Proof.Laws.fits_of_word rfl (by simp only [packWord]; omega)
theorem Sys2Proof.Laws.Fits.jalr (stl : BitVec 3) (rd : BitVec 5) (ra : BitVec 5) (imm : BitVec 13) :
    Sys2Proof.Laws.Fits.Statement (.jalr stl rd ra imm) :=
  Sys2Proof.Laws.fits_of_word rfl (by simp only [packWord]; omega)
theorem Sys2Proof.Laws.Fits.lb (stl : BitVec 3) (rd : BitVec 5) (ra : BitVec 5) (off : BitVec 10) :
    Sys2Proof.Laws.Fits.Statement (.lb stl rd ra off) :=
  Sys2Proof.Laws.fits_of_word rfl (by simp only [packWord]; omega)
theorem Sys2Proof.Laws.Fits.lbu (stl : BitVec 3) (rd : BitVec 5) (ra : BitVec 5) (off : BitVec 10) :
    Sys2Proof.Laws.Fits.Statement (.lbu stl rd ra off) :=
  Sys2Proof.Laws.fits_of_word rfl (by simp only [packWord]; omega)
theorem Sys2Proof.Laws.Fits.lh (stl : BitVec 3) (rd : BitVec 5) (ra : BitVec 5) (off : BitVec 10) :
    Sys2Proof.Laws.Fits.Statement (.lh stl rd ra off) :=
  Sys2Proof.Laws.fits_of_word rfl (by simp only [packWord]; omega)
theorem Sys2Proof.Laws.Fits.lhu (stl : BitVec 3) (rd : BitVec 5) (ra : BitVec 5) (off : BitVec 10) :
    Sys2Proof.Laws.Fits.Statement (.lhu stl rd ra off) :=
  Sys2Proof.Laws.fits_of_word rfl (by simp only [packWord]; omega)
theorem Sys2Proof.Laws.Fits.lw (stl : BitVec 3) (rd : BitVec 5) (ra : BitVec 5) (off : BitVec 10) :
    Sys2Proof.Laws.Fits.Statement (.lw stl rd ra off) :=
  Sys2Proof.Laws.fits_of_word rfl (by simp only [packWord]; omega)
theorem Sys2Proof.Laws.Fits.lwu (stl : BitVec 3) (rd : BitVec 5) (ra : BitVec 5) (off : BitVec 10) :
    Sys2Proof.Laws.Fits.Statement (.lwu stl rd ra off) :=
  Sys2Proof.Laws.fits_of_word rfl (by simp only [packWord]; omega)
theorem Sys2Proof.Laws.Fits.ld (stl : BitVec 3) (rd : BitVec 5) (ra : BitVec 5) (off : BitVec 10) :
    Sys2Proof.Laws.Fits.Statement (.ld stl rd ra off) :=
  Sys2Proof.Laws.fits_of_word rfl (by simp only [packWord]; omega)
theorem Sys2Proof.Laws.Fits.sb (stl : BitVec 3) (rd : BitVec 5) (ra : BitVec 5) (off : BitVec 10) :
    Sys2Proof.Laws.Fits.Statement (.sb stl rd ra off) :=
  Sys2Proof.Laws.fits_of_word rfl (by simp only [packWord]; omega)
theorem Sys2Proof.Laws.Fits.sh (stl : BitVec 3) (rd : BitVec 5) (ra : BitVec 5) (off : BitVec 10) :
    Sys2Proof.Laws.Fits.Statement (.sh stl rd ra off) :=
  Sys2Proof.Laws.fits_of_word rfl (by simp only [packWord]; omega)
theorem Sys2Proof.Laws.Fits.sw (stl : BitVec 3) (rd : BitVec 5) (ra : BitVec 5) (off : BitVec 10) :
    Sys2Proof.Laws.Fits.Statement (.sw stl rd ra off) :=
  Sys2Proof.Laws.fits_of_word rfl (by simp only [packWord]; omega)
theorem Sys2Proof.Laws.Fits.sd (stl : BitVec 3) (rd : BitVec 5) (ra : BitVec 5) (off : BitVec 10) :
    Sys2Proof.Laws.Fits.Statement (.sd stl rd ra off) :=
  Sys2Proof.Laws.fits_of_word rfl (by simp only [packWord]; omega)
theorem Sys2Proof.Laws.Fits.lbx (stl : BitVec 3) (rd : BitVec 5) (ra : BitVec 5) (rb : BitVec 5) (sh : BitVec 2) :
    Sys2Proof.Laws.Fits.Statement (.lbx stl rd ra rb sh) :=
  Sys2Proof.Laws.fits_of_word rfl (by simp only [packWord]; omega)
theorem Sys2Proof.Laws.Fits.lbux (stl : BitVec 3) (rd : BitVec 5) (ra : BitVec 5) (rb : BitVec 5) (sh : BitVec 2) :
    Sys2Proof.Laws.Fits.Statement (.lbux stl rd ra rb sh) :=
  Sys2Proof.Laws.fits_of_word rfl (by simp only [packWord]; omega)
theorem Sys2Proof.Laws.Fits.lhx (stl : BitVec 3) (rd : BitVec 5) (ra : BitVec 5) (rb : BitVec 5) (sh : BitVec 2) :
    Sys2Proof.Laws.Fits.Statement (.lhx stl rd ra rb sh) :=
  Sys2Proof.Laws.fits_of_word rfl (by simp only [packWord]; omega)
theorem Sys2Proof.Laws.Fits.lhux (stl : BitVec 3) (rd : BitVec 5) (ra : BitVec 5) (rb : BitVec 5) (sh : BitVec 2) :
    Sys2Proof.Laws.Fits.Statement (.lhux stl rd ra rb sh) :=
  Sys2Proof.Laws.fits_of_word rfl (by simp only [packWord]; omega)
theorem Sys2Proof.Laws.Fits.lwx (stl : BitVec 3) (rd : BitVec 5) (ra : BitVec 5) (rb : BitVec 5) (sh : BitVec 2) :
    Sys2Proof.Laws.Fits.Statement (.lwx stl rd ra rb sh) :=
  Sys2Proof.Laws.fits_of_word rfl (by simp only [packWord]; omega)
theorem Sys2Proof.Laws.Fits.lwux (stl : BitVec 3) (rd : BitVec 5) (ra : BitVec 5) (rb : BitVec 5) (sh : BitVec 2) :
    Sys2Proof.Laws.Fits.Statement (.lwux stl rd ra rb sh) :=
  Sys2Proof.Laws.fits_of_word rfl (by simp only [packWord]; omega)
theorem Sys2Proof.Laws.Fits.ldx (stl : BitVec 3) (rd : BitVec 5) (ra : BitVec 5) (rb : BitVec 5) (sh : BitVec 2) :
    Sys2Proof.Laws.Fits.Statement (.ldx stl rd ra rb sh) :=
  Sys2Proof.Laws.fits_of_word rfl (by simp only [packWord]; omega)
theorem Sys2Proof.Laws.Fits.sbx (stl : BitVec 3) (rd : BitVec 5) (ra : BitVec 5) (rb : BitVec 5) (sh : BitVec 2) :
    Sys2Proof.Laws.Fits.Statement (.sbx stl rd ra rb sh) :=
  Sys2Proof.Laws.fits_of_word rfl (by simp only [packWord]; omega)
theorem Sys2Proof.Laws.Fits.shx (stl : BitVec 3) (rd : BitVec 5) (ra : BitVec 5) (rb : BitVec 5) (sh : BitVec 2) :
    Sys2Proof.Laws.Fits.Statement (.shx stl rd ra rb sh) :=
  Sys2Proof.Laws.fits_of_word rfl (by simp only [packWord]; omega)
theorem Sys2Proof.Laws.Fits.swx (stl : BitVec 3) (rd : BitVec 5) (ra : BitVec 5) (rb : BitVec 5) (sh : BitVec 2) :
    Sys2Proof.Laws.Fits.Statement (.swx stl rd ra rb sh) :=
  Sys2Proof.Laws.fits_of_word rfl (by simp only [packWord]; omega)
theorem Sys2Proof.Laws.Fits.sdx (stl : BitVec 3) (rd : BitVec 5) (ra : BitVec 5) (rb : BitVec 5) (sh : BitVec 2) :
    Sys2Proof.Laws.Fits.Statement (.sdx stl rd ra rb sh) :=
  Sys2Proof.Laws.fits_of_word rfl (by simp only [packWord]; omega)
theorem Sys2Proof.Laws.Fits.amoadd (stl : BitVec 3) (rd : BitVec 5) (ra : BitVec 5) (rb : BitVec 5) (w : BitVec 1) :
    Sys2Proof.Laws.Fits.Statement (.amoadd stl rd ra rb w) :=
  Sys2Proof.Laws.fits_of_word rfl (by simp only [packWord]; omega)
theorem Sys2Proof.Laws.Fits.amoand (stl : BitVec 3) (rd : BitVec 5) (ra : BitVec 5) (rb : BitVec 5) (w : BitVec 1) :
    Sys2Proof.Laws.Fits.Statement (.amoand stl rd ra rb w) :=
  Sys2Proof.Laws.fits_of_word rfl (by simp only [packWord]; omega)
theorem Sys2Proof.Laws.Fits.amoor (stl : BitVec 3) (rd : BitVec 5) (ra : BitVec 5) (rb : BitVec 5) (w : BitVec 1) :
    Sys2Proof.Laws.Fits.Statement (.amoor stl rd ra rb w) :=
  Sys2Proof.Laws.fits_of_word rfl (by simp only [packWord]; omega)
theorem Sys2Proof.Laws.Fits.amoxor (stl : BitVec 3) (rd : BitVec 5) (ra : BitVec 5) (rb : BitVec 5) (w : BitVec 1) :
    Sys2Proof.Laws.Fits.Statement (.amoxor stl rd ra rb w) :=
  Sys2Proof.Laws.fits_of_word rfl (by simp only [packWord]; omega)
theorem Sys2Proof.Laws.Fits.amomin (stl : BitVec 3) (rd : BitVec 5) (ra : BitVec 5) (rb : BitVec 5) (w : BitVec 1) :
    Sys2Proof.Laws.Fits.Statement (.amomin stl rd ra rb w) :=
  Sys2Proof.Laws.fits_of_word rfl (by simp only [packWord]; omega)
theorem Sys2Proof.Laws.Fits.amomax (stl : BitVec 3) (rd : BitVec 5) (ra : BitVec 5) (rb : BitVec 5) (w : BitVec 1) :
    Sys2Proof.Laws.Fits.Statement (.amomax stl rd ra rb w) :=
  Sys2Proof.Laws.fits_of_word rfl (by simp only [packWord]; omega)
theorem Sys2Proof.Laws.Fits.amominu (stl : BitVec 3) (rd : BitVec 5) (ra : BitVec 5) (rb : BitVec 5) (w : BitVec 1) :
    Sys2Proof.Laws.Fits.Statement (.amominu stl rd ra rb w) :=
  Sys2Proof.Laws.fits_of_word rfl (by simp only [packWord]; omega)
theorem Sys2Proof.Laws.Fits.amomaxu (stl : BitVec 3) (rd : BitVec 5) (ra : BitVec 5) (rb : BitVec 5) (w : BitVec 1) :
    Sys2Proof.Laws.Fits.Statement (.amomaxu stl rd ra rb w) :=
  Sys2Proof.Laws.fits_of_word rfl (by simp only [packWord]; omega)
theorem Sys2Proof.Laws.Fits.amoswap (stl : BitVec 3) (rd : BitVec 5) (ra : BitVec 5) (rb : BitVec 5) (w : BitVec 1) :
    Sys2Proof.Laws.Fits.Statement (.amoswap stl rd ra rb w) :=
  Sys2Proof.Laws.fits_of_word rfl (by simp only [packWord]; omega)
theorem Sys2Proof.Laws.Fits.amocas (stl : BitVec 3) (rd : BitVec 5) (ra : BitVec 5) (rb : BitVec 5) (w : BitVec 1) :
    Sys2Proof.Laws.Fits.Statement (.amocas stl rd ra rb w) :=
  Sys2Proof.Laws.fits_of_word rfl (by simp only [packWord]; omega)
theorem Sys2Proof.Laws.Fits.amofadd (stl : BitVec 3) (rd : BitVec 5) (ra : BitVec 5) (rb : BitVec 5) (w : BitVec 1) :
    Sys2Proof.Laws.Fits.Statement (.amofadd stl rd ra rb w) :=
  Sys2Proof.Laws.fits_of_word rfl (by simp only [packWord]; omega)
theorem Sys2Proof.Laws.Fits.amofaddBf (stl : BitVec 3) (rd : BitVec 5) (ra : BitVec 5) (rb : BitVec 5) :
    Sys2Proof.Laws.Fits.Statement (.amofaddBf stl rd ra rb) :=
  Sys2Proof.Laws.fits_of_word rfl (by simp only [packWord]; omega)
theorem Sys2Proof.Laws.Fits.amofmin (stl : BitVec 3) (rd : BitVec 5) (ra : BitVec 5) (rb : BitVec 5) (w : BitVec 1) :
    Sys2Proof.Laws.Fits.Statement (.amofmin stl rd ra rb w) :=
  Sys2Proof.Laws.fits_of_word rfl (by simp only [packWord]; omega)
theorem Sys2Proof.Laws.Fits.amofmax (stl : BitVec 3) (rd : BitVec 5) (ra : BitVec 5) (rb : BitVec 5) (w : BitVec 1) :
    Sys2Proof.Laws.Fits.Statement (.amofmax stl rd ra rb w) :=
  Sys2Proof.Laws.fits_of_word rfl (by simp only [packWord]; omega)
theorem Sys2Proof.Laws.Fits.amold (stl : BitVec 3) (rd : BitVec 5) (ra : BitVec 5) (w : BitVec 1) :
    Sys2Proof.Laws.Fits.Statement (.amold stl rd ra w) :=
  Sys2Proof.Laws.fits_of_word rfl (by simp only [packWord]; omega)
theorem Sys2Proof.Laws.Fits.tlook (stl : BitVec 3) (rd : BitVec 5) (ra : BitVec 5) :
    Sys2Proof.Laws.Fits.Statement (.tlook stl rd ra) :=
  Sys2Proof.Laws.fits_of_word rfl (by simp only [packWord]; omega)
theorem Sys2Proof.Laws.Fits.tset (stl : BitVec 3) (ra : BitVec 5) (rb : BitVec 5) :
    Sys2Proof.Laws.Fits.Statement (.tset stl ra rb) :=
  Sys2Proof.Laws.fits_of_word rfl (by simp only [packWord]; omega)
theorem Sys2Proof.Laws.Fits.tinv (stl : BitVec 3) (ra : BitVec 5) :
    Sys2Proof.Laws.Fits.Statement (.tinv stl ra) :=
  Sys2Proof.Laws.fits_of_word rfl (by simp only [packWord]; omega)
theorem Sys2Proof.Laws.Fits.tvict (stl : BitVec 3) (rd : BitVec 5) (ra : BitVec 5) :
    Sys2Proof.Laws.Fits.Statement (.tvict stl rd ra) :=
  Sys2Proof.Laws.fits_of_word rfl (by simp only [packWord]; omega)
theorem Sys2Proof.Laws.Fits.tdirty (stl : BitVec 3) (rd : BitVec 5) (ra : BitVec 5) :
    Sys2Proof.Laws.Fits.Statement (.tdirty stl rd ra) :=
  Sys2Proof.Laws.fits_of_word rfl (by simp only [packWord]; omega)
theorem Sys2Proof.Laws.Fits.fence (stl : BitVec 3) (pred : BitVec 6) (succ : BitVec 6) (scope : BitVec 3) :
    Sys2Proof.Laws.Fits.Statement (.fence stl pred succ scope) :=
  Sys2Proof.Laws.fits_of_word rfl (by simp only [packWord]; omega)
theorem Sys2Proof.Laws.Fits.phase (stl : BitVec 3) (pred : BitVec 6) (succ : BitVec 6) (scope : BitVec 3) :
    Sys2Proof.Laws.Fits.Statement (.phase stl pred succ scope) :=
  Sys2Proof.Laws.fits_of_word rfl (by simp only [packWord]; omega)
theorem Sys2Proof.Laws.Fits.ifence (stl : BitVec 3) (scope : BitVec 3) :
    Sys2Proof.Laws.Fits.Statement (.ifence stl scope) :=
  Sys2Proof.Laws.fits_of_word rfl (by simp only [packWord]; omega)
theorem Sys2Proof.Laws.Fits.rep (count : BitVec 6) (step : BitVec 3) (ssize : BitVec 2) :
    Sys2Proof.Laws.Fits.Statement (.rep count step ssize) :=
  Sys2Proof.Laws.fits_of_word rfl (by simp only [packWord]; omega)
theorem Sys2Proof.Laws.Fits.repReg (xreg : BitVec 5) (step : BitVec 3) (ssize : BitVec 2) :
    Sys2Proof.Laws.Fits.Statement (.repReg xreg step ssize) :=
  Sys2Proof.Laws.fits_of_word rfl (by simp only [packWord]; omega)
theorem Sys2Proof.Laws.Fits.vadd (stl : BitVec 3) (rd : BitVec 5) (ra : BitVec 5) (rb : BitVec 5) (et : BitVec 3) :
    Sys2Proof.Laws.Fits.Statement (.vadd stl rd ra rb et) :=
  Sys2Proof.Laws.fits_of_word rfl (by simp only [packWord]; omega)
theorem Sys2Proof.Laws.Fits.vsub (stl : BitVec 3) (rd : BitVec 5) (ra : BitVec 5) (rb : BitVec 5) (et : BitVec 3) :
    Sys2Proof.Laws.Fits.Statement (.vsub stl rd ra rb et) :=
  Sys2Proof.Laws.fits_of_word rfl (by simp only [packWord]; omega)
theorem Sys2Proof.Laws.Fits.vmul (stl : BitVec 3) (rd : BitVec 5) (ra : BitVec 5) (rb : BitVec 5) (et : BitVec 3) :
    Sys2Proof.Laws.Fits.Statement (.vmul stl rd ra rb et) :=
  Sys2Proof.Laws.fits_of_word rfl (by simp only [packWord]; omega)
theorem Sys2Proof.Laws.Fits.vfma (stl : BitVec 3) (rd : BitVec 5) (ra : BitVec 5) (rb : BitVec 5) (et : BitVec 3) :
    Sys2Proof.Laws.Fits.Statement (.vfma stl rd ra rb et) :=
  Sys2Proof.Laws.fits_of_word rfl (by simp only [packWord]; omega)
theorem Sys2Proof.Laws.Fits.vfms (stl : BitVec 3) (rd : BitVec 5) (ra : BitVec 5) (rb : BitVec 5) (et : BitVec 3) :
    Sys2Proof.Laws.Fits.Statement (.vfms stl rd ra rb et) :=
  Sys2Proof.Laws.fits_of_word rfl (by simp only [packWord]; omega)
theorem Sys2Proof.Laws.Fits.vmin (stl : BitVec 3) (rd : BitVec 5) (ra : BitVec 5) (rb : BitVec 5) (et : BitVec 3) :
    Sys2Proof.Laws.Fits.Statement (.vmin stl rd ra rb et) :=
  Sys2Proof.Laws.fits_of_word rfl (by simp only [packWord]; omega)
theorem Sys2Proof.Laws.Fits.vmax (stl : BitVec 3) (rd : BitVec 5) (ra : BitVec 5) (rb : BitVec 5) (et : BitVec 3) :
    Sys2Proof.Laws.Fits.Statement (.vmax stl rd ra rb et) :=
  Sys2Proof.Laws.fits_of_word rfl (by simp only [packWord]; omega)
theorem Sys2Proof.Laws.Fits.vabs (stl : BitVec 3) (rd : BitVec 5) (ra : BitVec 5) (et : BitVec 3) :
    Sys2Proof.Laws.Fits.Statement (.vabs stl rd ra et) :=
  Sys2Proof.Laws.fits_of_word rfl (by simp only [packWord]; omega)
theorem Sys2Proof.Laws.Fits.vneg (stl : BitVec 3) (rd : BitVec 5) (ra : BitVec 5) (et : BitVec 3) :
    Sys2Proof.Laws.Fits.Statement (.vneg stl rd ra et) :=
  Sys2Proof.Laws.fits_of_word rfl (by simp only [packWord]; omega)
theorem Sys2Proof.Laws.Fits.vand (stl : BitVec 3) (rd : BitVec 5) (ra : BitVec 5) (rb : BitVec 5) (et : BitVec 3) :
    Sys2Proof.Laws.Fits.Statement (.vand stl rd ra rb et) :=
  Sys2Proof.Laws.fits_of_word rfl (by simp only [packWord]; omega)
theorem Sys2Proof.Laws.Fits.vor (stl : BitVec 3) (rd : BitVec 5) (ra : BitVec 5) (rb : BitVec 5) (et : BitVec 3) :
    Sys2Proof.Laws.Fits.Statement (.vor stl rd ra rb et) :=
  Sys2Proof.Laws.fits_of_word rfl (by simp only [packWord]; omega)
theorem Sys2Proof.Laws.Fits.vxor (stl : BitVec 3) (rd : BitVec 5) (ra : BitVec 5) (rb : BitVec 5) (et : BitVec 3) :
    Sys2Proof.Laws.Fits.Statement (.vxor stl rd ra rb et) :=
  Sys2Proof.Laws.fits_of_word rfl (by simp only [packWord]; omega)
theorem Sys2Proof.Laws.Fits.vshl (stl : BitVec 3) (rd : BitVec 5) (ra : BitVec 5) (rb : BitVec 5) (et : BitVec 3) :
    Sys2Proof.Laws.Fits.Statement (.vshl stl rd ra rb et) :=
  Sys2Proof.Laws.fits_of_word rfl (by simp only [packWord]; omega)
theorem Sys2Proof.Laws.Fits.vshr (stl : BitVec 3) (rd : BitVec 5) (ra : BitVec 5) (rb : BitVec 5) (et : BitVec 3) :
    Sys2Proof.Laws.Fits.Statement (.vshr stl rd ra rb et) :=
  Sys2Proof.Laws.fits_of_word rfl (by simp only [packWord]; omega)
theorem Sys2Proof.Laws.Fits.vsra (stl : BitVec 3) (rd : BitVec 5) (ra : BitVec 5) (rb : BitVec 5) (et : BitVec 3) :
    Sys2Proof.Laws.Fits.Statement (.vsra stl rd ra rb et) :=
  Sys2Proof.Laws.fits_of_word rfl (by simp only [packWord]; omega)
theorem Sys2Proof.Laws.Fits.vceq (stl : BitVec 3) (rd : BitVec 5) (ra : BitVec 5) (rb : BitVec 5) (et : BitVec 3) :
    Sys2Proof.Laws.Fits.Statement (.vceq stl rd ra rb et) :=
  Sys2Proof.Laws.fits_of_word rfl (by simp only [packWord]; omega)
theorem Sys2Proof.Laws.Fits.vclt (stl : BitVec 3) (rd : BitVec 5) (ra : BitVec 5) (rb : BitVec 5) (et : BitVec 3) :
    Sys2Proof.Laws.Fits.Statement (.vclt stl rd ra rb et) :=
  Sys2Proof.Laws.fits_of_word rfl (by simp only [packWord]; omega)
theorem Sys2Proof.Laws.Fits.vcle (stl : BitVec 3) (rd : BitVec 5) (ra : BitVec 5) (rb : BitVec 5) (et : BitVec 3) :
    Sys2Proof.Laws.Fits.Statement (.vcle stl rd ra rb et) :=
  Sys2Proof.Laws.fits_of_word rfl (by simp only [packWord]; omega)
theorem Sys2Proof.Laws.Fits.vsel (stl : BitVec 3) (rd : BitVec 5) (ra : BitVec 5) (rb : BitVec 5) (et : BitVec 3) :
    Sys2Proof.Laws.Fits.Statement (.vsel stl rd ra rb et) :=
  Sys2Proof.Laws.fits_of_word rfl (by simp only [packWord]; omega)
theorem Sys2Proof.Laws.Fits.vadds (stl : BitVec 3) (rd : BitVec 5) (ra : BitVec 5) (rb : BitVec 5) (et : BitVec 3) :
    Sys2Proof.Laws.Fits.Statement (.vadds stl rd ra rb et) :=
  Sys2Proof.Laws.fits_of_word rfl (by simp only [packWord]; omega)
theorem Sys2Proof.Laws.Fits.vsubs (stl : BitVec 3) (rd : BitVec 5) (ra : BitVec 5) (rb : BitVec 5) (et : BitVec 3) :
    Sys2Proof.Laws.Fits.Statement (.vsubs stl rd ra rb et) :=
  Sys2Proof.Laws.fits_of_word rfl (by simp only [packWord]; omega)
theorem Sys2Proof.Laws.Fits.vmov (stl : BitVec 3) (rd : BitVec 5) (ra : BitVec 5) (et : BitVec 3) :
    Sys2Proof.Laws.Fits.Statement (.vmov stl rd ra et) :=
  Sys2Proof.Laws.fits_of_word rfl (by simp only [packWord]; omega)
theorem Sys2Proof.Laws.Fits.vdiv (stl : BitVec 3) (rd : BitVec 5) (ra : BitVec 5) (rb : BitVec 5) (et : BitVec 3) :
    Sys2Proof.Laws.Fits.Statement (.vdiv stl rd ra rb et) :=
  Sys2Proof.Laws.fits_of_word rfl (by simp only [packWord]; omega)
theorem Sys2Proof.Laws.Fits.vmulhi (stl : BitVec 3) (rd : BitVec 5) (ra : BitVec 5) (rb : BitVec 5) (et : BitVec 3) :
    Sys2Proof.Laws.Fits.Statement (.vmulhi stl rd ra rb et) :=
  Sys2Proof.Laws.fits_of_word rfl (by simp only [packWord]; omega)
theorem Sys2Proof.Laws.Fits.vrcp (stl : BitVec 3) (rd : BitVec 5) (ra : BitVec 5) (ct : BitVec 2) (rm : BitVec 2) :
    Sys2Proof.Laws.Fits.Statement (.vrcp stl rd ra ct rm) :=
  Sys2Proof.Laws.fits_of_word rfl (by simp only [packWord]; omega)
theorem Sys2Proof.Laws.Fits.vrsq (stl : BitVec 3) (rd : BitVec 5) (ra : BitVec 5) (ct : BitVec 2) (rm : BitVec 2) :
    Sys2Proof.Laws.Fits.Statement (.vrsq stl rd ra ct rm) :=
  Sys2Proof.Laws.fits_of_word rfl (by simp only [packWord]; omega)
theorem Sys2Proof.Laws.Fits.vsqrt (stl : BitVec 3) (rd : BitVec 5) (ra : BitVec 5) (ct : BitVec 2) (rm : BitVec 2) :
    Sys2Proof.Laws.Fits.Statement (.vsqrt stl rd ra ct rm) :=
  Sys2Proof.Laws.fits_of_word rfl (by simp only [packWord]; omega)
theorem Sys2Proof.Laws.Fits.vexp2 (stl : BitVec 3) (rd : BitVec 5) (ra : BitVec 5) (ct : BitVec 2) (rm : BitVec 2) :
    Sys2Proof.Laws.Fits.Statement (.vexp2 stl rd ra ct rm) :=
  Sys2Proof.Laws.fits_of_word rfl (by simp only [packWord]; omega)
theorem Sys2Proof.Laws.Fits.vlog2 (stl : BitVec 3) (rd : BitVec 5) (ra : BitVec 5) (ct : BitVec 2) (rm : BitVec 2) :
    Sys2Proof.Laws.Fits.Statement (.vlog2 stl rd ra ct rm) :=
  Sys2Proof.Laws.fits_of_word rfl (by simp only [packWord]; omega)
theorem Sys2Proof.Laws.Fits.vtanh (stl : BitVec 3) (rd : BitVec 5) (ra : BitVec 5) (ct : BitVec 2) (rm : BitVec 2) :
    Sys2Proof.Laws.Fits.Statement (.vtanh stl rd ra ct rm) :=
  Sys2Proof.Laws.fits_of_word rfl (by simp only [packWord]; omega)
theorem Sys2Proof.Laws.Fits.vsigm (stl : BitVec 3) (rd : BitVec 5) (ra : BitVec 5) (ct : BitVec 2) (rm : BitVec 2) :
    Sys2Proof.Laws.Fits.Statement (.vsigm stl rd ra ct rm) :=
  Sys2Proof.Laws.fits_of_word rfl (by simp only [packWord]; omega)
theorem Sys2Proof.Laws.Fits.vcvt (stl : BitVec 3) (rd : BitVec 5) (ra : BitVec 5) (ct : BitVec 2) (sf : BitVec 4) (rm : BitVec 2) :
    Sys2Proof.Laws.Fits.Statement (.vcvt stl rd ra ct sf rm) :=
  Sys2Proof.Laws.fits_of_word rfl (by simp only [packWord]; omega)
theorem Sys2Proof.Laws.Fits.vcvtf (stl : BitVec 3) (rd : BitVec 5) (ra : BitVec 5) (ct : BitVec 2) (sf : BitVec 4) (rm : BitVec 2) :
    Sys2Proof.Laws.Fits.Statement (.vcvtf stl rd ra ct sf rm) :=
  Sys2Proof.Laws.fits_of_word rfl (by simp only [packWord]; omega)
theorem Sys2Proof.Laws.Fits.vpack (stl : BitVec 3) (rd : BitVec 5) (ra : BitVec 5) :
    Sys2Proof.Laws.Fits.Statement (.vpack stl rd ra) :=
  Sys2Proof.Laws.fits_of_word rfl (by simp only [packWord]; omega)
theorem Sys2Proof.Laws.Fits.vunpack (stl : BitVec 3) (rd : BitVec 5) (ra : BitVec 5) :
    Sys2Proof.Laws.Fits.Statement (.vunpack stl rd ra) :=
  Sys2Proof.Laws.fits_of_word rfl (by simp only [packWord]; omega)
theorem Sys2Proof.Laws.Fits.vscale (stl : BitVec 3) (rd : BitVec 5) (ra : BitVec 5) (ct : BitVec 2) (sf : BitVec 4) (rm : BitVec 2) :
    Sys2Proof.Laws.Fits.Statement (.vscale stl rd ra ct sf rm) :=
  Sys2Proof.Laws.fits_of_word rfl (by simp only [packWord]; omega)
theorem Sys2Proof.Laws.Fits.vbscl (stl : BitVec 3) (rd : BitVec 5) (ra : BitVec 5) (ct : BitVec 2) (sf : BitVec 4) :
    Sys2Proof.Laws.Fits.Statement (.vbscl stl rd ra ct sf) :=
  Sys2Proof.Laws.fits_of_word rfl (by simp only [packWord]; omega)
theorem Sys2Proof.Laws.Fits.vrsum (stl : BitVec 3) (rd : BitVec 5) (ra : BitVec 5) (et : BitVec 3) :
    Sys2Proof.Laws.Fits.Statement (.vrsum stl rd ra et) :=
  Sys2Proof.Laws.fits_of_word rfl (by simp only [packWord]; omega)
theorem Sys2Proof.Laws.Fits.vrmax (stl : BitVec 3) (rd : BitVec 5) (ra : BitVec 5) (et : BitVec 3) :
    Sys2Proof.Laws.Fits.Statement (.vrmax stl rd ra et) :=
  Sys2Proof.Laws.fits_of_word rfl (by simp only [packWord]; omega)
theorem Sys2Proof.Laws.Fits.vrmin (stl : BitVec 3) (rd : BitVec 5) (ra : BitVec 5) (et : BitVec 3) :
    Sys2Proof.Laws.Fits.Statement (.vrmin stl rd ra et) :=
  Sys2Proof.Laws.fits_of_word rfl (by simp only [packWord]; omega)
theorem Sys2Proof.Laws.Fits.vperm (stl : BitVec 3) (rd : BitVec 5) (ra : BitVec 5) (rb : BitVec 5) (et : BitVec 3) :
    Sys2Proof.Laws.Fits.Statement (.vperm stl rd ra rb et) :=
  Sys2Proof.Laws.fits_of_word rfl (by simp only [packWord]; omega)
theorem Sys2Proof.Laws.Fits.vrotx (stl : BitVec 3) (rd : BitVec 5) (ra : BitVec 5) (rb : BitVec 5) (et : BitVec 3) :
    Sys2Proof.Laws.Fits.Statement (.vrotx stl rd ra rb et) :=
  Sys2Proof.Laws.fits_of_word rfl (by simp only [packWord]; omega)
theorem Sys2Proof.Laws.Fits.vbcast (stl : BitVec 3) (rd : BitVec 5) (ra : BitVec 5) (et : BitVec 3) :
    Sys2Proof.Laws.Fits.Statement (.vbcast stl rd ra et) :=
  Sys2Proof.Laws.fits_of_word rfl (by simp only [packWord]; omega)
theorem Sys2Proof.Laws.Fits.vext (stl : BitVec 3) (rd : BitVec 5) (ra : BitVec 5) (rb : BitVec 5) (et : BitVec 3) :
    Sys2Proof.Laws.Fits.Statement (.vext stl rd ra rb et) :=
  Sys2Proof.Laws.fits_of_word rfl (by simp only [packWord]; omega)
theorem Sys2Proof.Laws.Fits.vins (stl : BitVec 3) (rd : BitVec 5) (ra : BitVec 5) (rb : BitVec 5) (et : BitVec 3) :
    Sys2Proof.Laws.Fits.Statement (.vins stl rd ra rb et) :=
  Sys2Proof.Laws.fits_of_word rfl (by simp only [packWord]; omega)
theorem Sys2Proof.Laws.Fits.viota (stl : BitVec 3) (rd : BitVec 5) (et : BitVec 3) :
    Sys2Proof.Laws.Fits.Statement (.viota stl rd et) :=
  Sys2Proof.Laws.fits_of_word rfl (by simp only [packWord]; omega)
theorem Sys2Proof.Laws.Fits.vld (stl : BitVec 3) (rd : BitVec 5) (ra : BitVec 5) (part : BitVec 3) (off : BitVec 10) :
    Sys2Proof.Laws.Fits.Statement (.vld stl rd ra part off) :=
  Sys2Proof.Laws.fits_of_word rfl (by simp only [packWord]; omega)
theorem Sys2Proof.Laws.Fits.vst (stl : BitVec 3) (rd : BitVec 5) (ra : BitVec 5) (part : BitVec 3) (off : BitVec 10) :
    Sys2Proof.Laws.Fits.Statement (.vst stl rd ra part off) :=
  Sys2Proof.Laws.fits_of_word rfl (by simp only [packWord]; omega)
theorem Sys2Proof.Laws.Fits.vldxW (stl : BitVec 3) (rd : BitVec 5) (ra : BitVec 5) (rb : BitVec 5) :
    Sys2Proof.Laws.Fits.Statement (.vldxW stl rd ra rb) :=
  Sys2Proof.Laws.fits_of_word rfl (by simp only [packWord]; omega)
theorem Sys2Proof.Laws.Fits.vldxD (stl : BitVec 3) (rd : BitVec 5) (ra : BitVec 5) (rb : BitVec 5) :
    Sys2Proof.Laws.Fits.Statement (.vldxD stl rd ra rb) :=
  Sys2Proof.Laws.fits_of_word rfl (by simp only [packWord]; omega)
theorem Sys2Proof.Laws.Fits.vstxW (stl : BitVec 3) (rd : BitVec 5) (ra : BitVec 5) (rb : BitVec 5) :
    Sys2Proof.Laws.Fits.Statement (.vstxW stl rd ra rb) :=
  Sys2Proof.Laws.fits_of_word rfl (by simp only [packWord]; omega)
theorem Sys2Proof.Laws.Fits.vstxD (stl : BitVec 3) (rd : BitVec 5) (ra : BitVec 5) (rb : BitVec 5) :
    Sys2Proof.Laws.Fits.Statement (.vstxD stl rd ra rb) :=
  Sys2Proof.Laws.fits_of_word rfl (by simp only [packWord]; omega)
theorem Sys2Proof.Laws.Fits.vmerge (stl : BitVec 3) (rd : BitVec 5) (ra : BitVec 5) (rb : BitVec 5) (et : BitVec 1) :
    Sys2Proof.Laws.Fits.Statement (.vmerge stl rd ra rb et) :=
  Sys2Proof.Laws.fits_of_word rfl (by simp only [packWord]; omega)
theorem Sys2Proof.Laws.Fits.pmx (stl : BitVec 3) (rd : BitVec 5) (ra : BitVec 5) (rb : BitVec 5) (et : BitVec 1) :
    Sys2Proof.Laws.Fits.Statement (.pmx stl rd ra rb et) :=
  Sys2Proof.Laws.fits_of_word rfl (by simp only [packWord]; omega)
theorem Sys2Proof.Laws.Fits.pmsend (stl : BitVec 3) (ra : BitVec 5) (rb : BitVec 5) :
    Sys2Proof.Laws.Fits.Statement (.pmsend stl ra rb) :=
  Sys2Proof.Laws.fits_of_word rfl (by simp only [packWord]; omega)
theorem Sys2Proof.Laws.Fits.pmrecv (stl : BitVec 3) (rd : BitVec 5) (rb : BitVec 5) :
    Sys2Proof.Laws.Fits.Statement (.pmrecv stl rd rb) :=
  Sys2Proof.Laws.fits_of_word rfl (by simp only [packWord]; omega)
theorem Sys2Proof.Laws.Fits.sbind (stl : BitVec 3) (rd : BitVec 5) (ra : BitVec 5) :
    Sys2Proof.Laws.Fits.Statement (.sbind stl rd ra) :=
  Sys2Proof.Laws.fits_of_word rfl (by simp only [packWord]; omega)
theorem Sys2Proof.Laws.Fits.sunbind (stl : BitVec 3) (rd : BitVec 5) :
    Sys2Proof.Laws.Fits.Statement (.sunbind stl rd) :=
  Sys2Proof.Laws.fits_of_word rfl (by simp only [packWord]; omega)
theorem Sys2Proof.Laws.Fits.sstat (stl : BitVec 3) (rd : BitVec 5) (ra : BitVec 5) :
    Sys2Proof.Laws.Fits.Statement (.sstat stl rd ra) :=
  Sys2Proof.Laws.fits_of_word rfl (by simp only [packWord]; omega)
theorem Sys2Proof.Laws.Fits.sdrain (stl : BitVec 3) (rd : BitVec 5) :
    Sys2Proof.Laws.Fits.Statement (.sdrain stl rd) :=
  Sys2Proof.Laws.fits_of_word rfl (by simp only [packWord]; omega)
theorem Sys2Proof.Laws.Fits.sskip (stl : BitVec 3) (rd : BitVec 5) (ra : BitVec 5) :
    Sys2Proof.Laws.Fits.Statement (.sskip stl rd ra) :=
  Sys2Proof.Laws.fits_of_word rfl (by simp only [packWord]; omega)
theorem Sys2Proof.Laws.Fits.spawn (stl : BitVec 3) (rd : BitVec 5) (ra : BitVec 5) (rb : BitVec 5) :
    Sys2Proof.Laws.Fits.Statement (.spawn stl rd ra rb) :=
  Sys2Proof.Laws.fits_of_word rfl (by simp only [packWord]; omega)
theorem Sys2Proof.Laws.Fits.join (stl : BitVec 3) (rd : BitVec 5) (ra : BitVec 5) :
    Sys2Proof.Laws.Fits.Statement (.join stl rd ra) :=
  Sys2Proof.Laws.fits_of_word rfl (by simp only [packWord]; omega)
theorem Sys2Proof.Laws.Fits.exit (stl : BitVec 3) (ra : BitVec 5) :
    Sys2Proof.Laws.Fits.Statement (.exit stl ra) :=
  Sys2Proof.Laws.fits_of_word rfl (by simp only [packWord]; omega)
theorem Sys2Proof.Laws.Fits.yield (stl : BitVec 3) :
    Sys2Proof.Laws.Fits.Statement (.yield stl) :=
  Sys2Proof.Laws.fits_of_word rfl (by simp only [packWord]; omega)
theorem Sys2Proof.Laws.Fits.prio (stl : BitVec 3) (ra : BitVec 5) :
    Sys2Proof.Laws.Fits.Statement (.prio stl ra) :=
  Sys2Proof.Laws.fits_of_word rfl (by simp only [packWord]; omega)
theorem Sys2Proof.Laws.Fits.tid (stl : BitVec 3) (rd : BitVec 5) :
    Sys2Proof.Laws.Fits.Statement (.tid stl rd) :=
  Sys2Proof.Laws.fits_of_word rfl (by simp only [packWord]; omega)
theorem Sys2Proof.Laws.Fits.detach (stl : BitVec 3) (ra : BitVec 5) :
    Sys2Proof.Laws.Fits.Statement (.detach stl ra) :=
  Sys2Proof.Laws.fits_of_word rfl (by simp only [packWord]; omega)
theorem Sys2Proof.Laws.Fits.kill (stl : BitVec 3) (ra : BitVec 5) :
    Sys2Proof.Laws.Fits.Statement (.kill stl ra) :=
  Sys2Proof.Laws.fits_of_word rfl (by simp only [packWord]; omega)
theorem Sys2Proof.Laws.Fits.cinit (stl : BitVec 3) (prv : BitVec 1) (cue : BitVec 8) (ra : BitVec 5) :
    Sys2Proof.Laws.Fits.Statement (.cinit stl prv cue ra) :=
  Sys2Proof.Laws.fits_of_word rfl (by simp only [packWord]; omega)
theorem Sys2Proof.Laws.Fits.cwait (stl : BitVec 3) (prv : BitVec 1) (cue : BitVec 8) (ra : BitVec 5) :
    Sys2Proof.Laws.Fits.Statement (.cwait stl prv cue ra) :=
  Sys2Proof.Laws.fits_of_word rfl (by simp only [packWord]; omega)
theorem Sys2Proof.Laws.Fits.csig (stl : BitVec 3) (prv : BitVec 1) (cue : BitVec 8) (ra : BitVec 5) :
    Sys2Proof.Laws.Fits.Statement (.csig stl prv cue ra) :=
  Sys2Proof.Laws.fits_of_word rfl (by simp only [packWord]; omega)
theorem Sys2Proof.Laws.Fits.cread (stl : BitVec 3) (prv : BitVec 1) (cue : BitVec 8) (rd : BitVec 5) :
    Sys2Proof.Laws.Fits.Statement (.cread stl prv cue rd) :=
  Sys2Proof.Laws.fits_of_word rfl (by simp only [packWord]; omega)
theorem Sys2Proof.Laws.Fits.ctry (stl : BitVec 3) (prv : BitVec 1) (cue : BitVec 8) (ra : BitVec 5) (rd : BitVec 5) :
    Sys2Proof.Laws.Fits.Statement (.ctry stl prv cue ra rd) :=
  Sys2Proof.Laws.fits_of_word rfl (by simp only [packWord]; omega)
theorem Sys2Proof.Laws.Fits.cwaitt (stl : BitVec 3) (prv : BitVec 1) (cue : BitVec 8) (ra : BitVec 5) (rd : BitVec 5) :
    Sys2Proof.Laws.Fits.Statement (.cwaitt stl prv cue ra rd) :=
  Sys2Proof.Laws.fits_of_word rfl (by simp only [packWord]; omega)
theorem Sys2Proof.Laws.Fits.csigr (stl : BitVec 3) (cue : BitVec 8) (ra : BitVec 5) (rd : BitVec 5) :
    Sys2Proof.Laws.Fits.Statement (.csigr stl cue ra rd) :=
  Sys2Proof.Laws.fits_of_word rfl (by simp only [packWord]; omega)
theorem Sys2Proof.Laws.Fits.send (stl : BitVec 3) (ra : BitVec 5) (rb : BitVec 5) :
    Sys2Proof.Laws.Fits.Statement (.send stl ra rb) :=
  Sys2Proof.Laws.fits_of_word rfl (by simp only [packWord]; omega)
theorem Sys2Proof.Laws.Fits.recv (stl : BitVec 3) (rd : BitVec 5) :
    Sys2Proof.Laws.Fits.Statement (.recv stl rd) :=
  Sys2Proof.Laws.fits_of_word rfl (by simp only [packWord]; omega)
theorem Sys2Proof.Laws.Fits.recvt (stl : BitVec 3) (rd : BitVec 5) (ra : BitVec 5) :
    Sys2Proof.Laws.Fits.Statement (.recvt stl rd ra) :=
  Sys2Proof.Laws.fits_of_word rfl (by simp only [packWord]; omega)
theorem Sys2Proof.Laws.Fits.mclaim (stl : BitVec 3) (ra : BitVec 5) :
    Sys2Proof.Laws.Fits.Statement (.mclaim stl ra) :=
  Sys2Proof.Laws.fits_of_word rfl (by simp only [packWord]; omega)
theorem Sys2Proof.Laws.Fits.mrel (stl : BitVec 3) (ra : BitVec 5) :
    Sys2Proof.Laws.Fits.Statement (.mrel stl ra) :=
  Sys2Proof.Laws.fits_of_word rfl (by simp only [packWord]; omega)
theorem Sys2Proof.Laws.Fits.mload (stl : BitVec 3) (tag : BitVec 4) (ra : BitVec 5) (rb : BitVec 5) :
    Sys2Proof.Laws.Fits.Statement (.mload stl tag ra rb) :=
  Sys2Proof.Laws.fits_of_word rfl (by simp only [packWord]; omega)
theorem Sys2Proof.Laws.Fits.mma (stl : BitVec 3) (tag : BitVec 4) (ra : BitVec 5) (rb : BitVec 5) :
    Sys2Proof.Laws.Fits.Statement (.mma stl tag ra rb) :=
  Sys2Proof.Laws.fits_of_word rfl (by simp only [packWord]; omega)
theorem Sys2Proof.Laws.Fits.mmas (stl : BitVec 3) (tag : BitVec 4) (ra : BitVec 5) (rb : BitVec 5) :
    Sys2Proof.Laws.Fits.Statement (.mmas stl tag ra rb) :=
  Sys2Proof.Laws.fits_of_word rfl (by simp only [packWord]; omega)
theorem Sys2Proof.Laws.Fits.mgemm (stl : BitVec 3) (tag : BitVec 4) (ra : BitVec 5) (rb : BitVec 5) :
    Sys2Proof.Laws.Fits.Statement (.mgemm stl tag ra rb) :=
  Sys2Proof.Laws.fits_of_word rfl (by simp only [packWord]; omega)
theorem Sys2Proof.Laws.Fits.mdrain (stl : BitVec 3) (tag : BitVec 4) (ra : BitVec 5) (rb : BitVec 5) :
    Sys2Proof.Laws.Fits.Statement (.mdrain stl tag ra rb) :=
  Sys2Proof.Laws.fits_of_word rfl (by simp only [packWord]; omega)
theorem Sys2Proof.Laws.Fits.mzero (stl : BitVec 3) (tag : BitVec 4) (ra : BitVec 5) :
    Sys2Proof.Laws.Fits.Statement (.mzero stl tag ra) :=
  Sys2Proof.Laws.fits_of_word rfl (by simp only [packWord]; omega)
theorem Sys2Proof.Laws.Fits.mtov (stl : BitVec 3) (tag : BitVec 4) (ra : BitVec 5) :
    Sys2Proof.Laws.Fits.Statement (.mtov stl tag ra) :=
  Sys2Proof.Laws.fits_of_word rfl (by simp only [packWord]; omega)
theorem Sys2Proof.Laws.Fits.cpy (stl : BitVec 3) (tag : BitVec 4) (ra : BitVec 5) (rb : BitVec 5) :
    Sys2Proof.Laws.Fits.Statement (.cpy stl tag ra rb) :=
  Sys2Proof.Laws.fits_of_word rfl (by simp only [packWord]; omega)
theorem Sys2Proof.Laws.Fits.cpys (stl : BitVec 3) (tag : BitVec 4) (ra : BitVec 5) (rb : BitVec 5) :
    Sys2Proof.Laws.Fits.Statement (.cpys stl tag ra rb) :=
  Sys2Proof.Laws.fits_of_word rfl (by simp only [packWord]; omega)
theorem Sys2Proof.Laws.Fits.cpyg (stl : BitVec 3) (tag : BitVec 4) (ra : BitVec 5) (rb : BitVec 5) :
    Sys2Proof.Laws.Fits.Statement (.cpyg stl tag ra rb) :=
  Sys2Proof.Laws.fits_of_word rfl (by simp only [packWord]; omega)
theorem Sys2Proof.Laws.Fits.cpyx (stl : BitVec 3) (tag : BitVec 4) (ra : BitVec 5) (rb : BitVec 5) :
    Sys2Proof.Laws.Fits.Statement (.cpyx stl tag ra rb) :=
  Sys2Proof.Laws.fits_of_word rfl (by simp only [packWord]; omega)
theorem Sys2Proof.Laws.Fits.cpyf (stl : BitVec 3) (tag : BitVec 4) (ra : BitVec 5) (rb : BitVec 5) :
    Sys2Proof.Laws.Fits.Statement (.cpyf stl tag ra rb) :=
  Sys2Proof.Laws.fits_of_word rfl (by simp only [packWord]; omega)
theorem Sys2Proof.Laws.Fits.tqpost (stl : BitVec 3) (tag : BitVec 4) (ra : BitVec 5) (rb : BitVec 5) :
    Sys2Proof.Laws.Fits.Statement (.tqpost stl tag ra rb) :=
  Sys2Proof.Laws.fits_of_word rfl (by simp only [packWord]; omega)
theorem Sys2Proof.Laws.Fits.tqflush (stl : BitVec 3) (tag : BitVec 4) (ra : BitVec 5) :
    Sys2Proof.Laws.Fits.Statement (.tqflush stl tag ra) :=
  Sys2Proof.Laws.fits_of_word rfl (by simp only [packWord]; omega)
theorem Sys2Proof.Laws.Fits.swpin (stl : BitVec 3) (tag : BitVec 4) (ra : BitVec 5) (rb : BitVec 5) :
    Sys2Proof.Laws.Fits.Statement (.swpin stl tag ra rb) :=
  Sys2Proof.Laws.fits_of_word rfl (by simp only [packWord]; omega)
theorem Sys2Proof.Laws.Fits.swpout (stl : BitVec 3) (tag : BitVec 4) (ra : BitVec 5) (rb : BitVec 5) :
    Sys2Proof.Laws.Fits.Statement (.swpout stl tag ra rb) :=
  Sys2Proof.Laws.fits_of_word rfl (by simp only [packWord]; omega)
theorem Sys2Proof.Laws.Fits.swppull (stl : BitVec 3) (tag : BitVec 4) (ra : BitVec 5) (rb : BitVec 5) :
    Sys2Proof.Laws.Fits.Statement (.swppull stl tag ra rb) :=
  Sys2Proof.Laws.fits_of_word rfl (by simp only [packWord]; omega)
theorem Sys2Proof.Laws.Fits.ewr (stl : BitVec 3) (ra : BitVec 5) (rb : BitVec 5) (n : BitVec 3) :
    Sys2Proof.Laws.Fits.Statement (.ewr stl ra rb n) :=
  Sys2Proof.Laws.fits_of_word rfl (by simp only [packWord]; omega)
theorem Sys2Proof.Laws.Fits.erd (stl : BitVec 3) (rd : BitVec 5) (n : BitVec 3) :
    Sys2Proof.Laws.Fits.Statement (.erd stl rd n) :=
  Sys2Proof.Laws.fits_of_word rfl (by simp only [packWord]; omega)
theorem Sys2Proof.Laws.Fits.erdst (stl : BitVec 3) (rd : BitVec 5) (port : BitVec 2) :
    Sys2Proof.Laws.Fits.Statement (.erdst stl rd port) :=
  Sys2Proof.Laws.fits_of_word rfl (by simp only [packWord]; omega)
theorem Sys2Proof.Laws.Fits.gopen (stl : BitVec 3) (rd : BitVec 5) (ra : BitVec 5) :
    Sys2Proof.Laws.Fits.Statement (.gopen stl rd ra) :=
  Sys2Proof.Laws.fits_of_word rfl (by simp only [packWord]; omega)
theorem Sys2Proof.Laws.Fits.gclose (stl : BitVec 3) (ra : BitVec 5) :
    Sys2Proof.Laws.Fits.Statement (.gclose stl ra) :=
  Sys2Proof.Laws.fits_of_word rfl (by simp only [packWord]; omega)
theorem Sys2Proof.Laws.Fits.gsig (stl : BitVec 3) (rd : BitVec 5) (ra : BitVec 5) (rb : BitVec 5) :
    Sys2Proof.Laws.Fits.Statement (.gsig stl rd ra rb) :=
  Sys2Proof.Laws.fits_of_word rfl (by simp only [packWord]; omega)
theorem Sys2Proof.Laws.Fits.gwait (stl : BitVec 3) (rd : BitVec 5) (ra : BitVec 5) (rb : BitVec 5) :
    Sys2Proof.Laws.Fits.Statement (.gwait stl rd ra rb) :=
  Sys2Proof.Laws.fits_of_word rfl (by simp only [packWord]; omega)
theorem Sys2Proof.Laws.Fits.gread (stl : BitVec 3) (rd : BitVec 5) (ra : BitVec 5) :
    Sys2Proof.Laws.Fits.Statement (.gread stl rd ra) :=
  Sys2Proof.Laws.fits_of_word rfl (by simp only [packWord]; omega)
theorem Sys2Proof.Laws.Fits.gpost (stl : BitVec 3) (rd : BitVec 5) (ra : BitVec 5) (rb : BitVec 5) :
    Sys2Proof.Laws.Fits.Statement (.gpost stl rd ra rb) :=
  Sys2Proof.Laws.fits_of_word rfl (by simp only [packWord]; omega)
theorem Sys2Proof.Laws.Fits.gtake (stl : BitVec 3) (rd : BitVec 5) (ra : BitVec 5) (rb : BitVec 5) :
    Sys2Proof.Laws.Fits.Statement (.gtake stl rd ra rb) :=
  Sys2Proof.Laws.fits_of_word rfl (by simp only [packWord]; omega)
theorem Sys2Proof.Laws.Fits.csrr (stl : BitVec 3) (rd : BitVec 5) (csr : BitVec 9) :
    Sys2Proof.Laws.Fits.Statement (.csrr stl rd csr) :=
  Sys2Proof.Laws.fits_of_word rfl (by simp only [packWord]; omega)
theorem Sys2Proof.Laws.Fits.csrw (stl : BitVec 3) (rd : BitVec 5) (ra : BitVec 5) (csr : BitVec 9) :
    Sys2Proof.Laws.Fits.Statement (.csrw stl rd ra csr) :=
  Sys2Proof.Laws.fits_of_word rfl (by simp only [packWord]; omega)
theorem Sys2Proof.Laws.Fits.csrs (stl : BitVec 3) (rd : BitVec 5) (ra : BitVec 5) (csr : BitVec 9) :
    Sys2Proof.Laws.Fits.Statement (.csrs stl rd ra csr) :=
  Sys2Proof.Laws.fits_of_word rfl (by simp only [packWord]; omega)
theorem Sys2Proof.Laws.Fits.csrc (stl : BitVec 3) (rd : BitVec 5) (ra : BitVec 5) (csr : BitVec 9) :
    Sys2Proof.Laws.Fits.Statement (.csrc stl rd ra csr) :=
  Sys2Proof.Laws.fits_of_word rfl (by simp only [packWord]; omega)
theorem Sys2Proof.Laws.Fits.trap (stl : BitVec 3) (code : BitVec 9) :
    Sys2Proof.Laws.Fits.Statement (.trap stl code) :=
  Sys2Proof.Laws.fits_of_word rfl (by simp only [packWord]; omega)
theorem Sys2Proof.Laws.Fits.tret (stl : BitVec 3) :
    Sys2Proof.Laws.Fits.Statement (.tret stl) :=
  Sys2Proof.Laws.fits_of_word rfl (by simp only [packWord]; omega)
theorem Sys2Proof.Laws.Fits.brk (stl : BitVec 3) :
    Sys2Proof.Laws.Fits.Statement (.brk stl) :=
  Sys2Proof.Laws.fits_of_word rfl (by simp only [packWord]; omega)
theorem Sys2Proof.Laws.Fits.repart (stl : BitVec 3) (rd : BitVec 5) (ra : BitVec 5) :
    Sys2Proof.Laws.Fits.Statement (.repart stl rd ra) :=
  Sys2Proof.Laws.fits_of_word rfl (by simp only [packWord]; omega)
theorem Sys2Proof.Laws.Fits.roset (stl : BitVec 3) (ra : BitVec 5) (pos : BitVec 4) :
    Sys2Proof.Laws.Fits.Statement (.roset stl ra pos) :=
  Sys2Proof.Laws.fits_of_word rfl (by simp only [packWord]; omega)
theorem Sys2Proof.Laws.Fits.idle (stl : BitVec 3) :
    Sys2Proof.Laws.Fits.Statement (.idle stl) :=
  Sys2Proof.Laws.fits_of_word rfl (by simp only [packWord]; omega)
theorem Sys2Proof.Laws.Fits.curtain (stl : BitVec 3) (rd : BitVec 5) (ra : BitVec 5) :
    Sys2Proof.Laws.Fits.Statement (.curtain stl rd ra) :=
  Sys2Proof.Laws.fits_of_word rfl (by simp only [packWord]; omega)
theorem Sys2Proof.Laws.Fits.migr (stl : BitVec 3) (rd : BitVec 5) (ra : BitVec 5) :
    Sys2Proof.Laws.Fits.Statement (.migr stl rd ra) :=
  Sys2Proof.Laws.fits_of_word rfl (by simp only [packWord]; omega)
theorem Sys2Proof.Laws.Fits.rld (stl : BitVec 3) (rd : BitVec 5) (ra : BitVec 5) (rb : BitVec 5) :
    Sys2Proof.Laws.Fits.Statement (.rld stl rd ra rb) :=
  Sys2Proof.Laws.fits_of_word rfl (by simp only [packWord]; omega)
theorem Sys2Proof.Laws.Fits.rst (stl : BitVec 3) (rd : BitVec 5) (ra : BitVec 5) (rb : BitVec 5) :
    Sys2Proof.Laws.Fits.Statement (.rst stl rd ra rb) :=
  Sys2Proof.Laws.fits_of_word rfl (by simp only [packWord]; omega)
theorem Sys2Proof.Laws.Fits.ramo (stl : BitVec 3) (rd : BitVec 5) (ra : BitVec 5) (rb : BitVec 5) :
    Sys2Proof.Laws.Fits.Statement (.ramo stl rd ra rb) :=
  Sys2Proof.Laws.fits_of_word rfl (by simp only [packWord]; omega)
theorem Sys2Proof.Laws.Fits.spawnr (stl : BitVec 3) (rd : BitVec 5) (ra : BitVec 5) (rb : BitVec 5) :
    Sys2Proof.Laws.Fits.Statement (.spawnr stl rd ra rb) :=
  Sys2Proof.Laws.fits_of_word rfl (by simp only [packWord]; omega)
theorem Sys2Proof.Laws.Fits.csigrRank (stl : BitVec 3) (ra : BitVec 5) (rb : BitVec 5) :
    Sys2Proof.Laws.Fits.Statement (.csigrRank stl ra rb) :=
  Sys2Proof.Laws.fits_of_word rfl (by simp only [packWord]; omega)
theorem Sys2Proof.Laws.Fits.stallExpiry (tile : Nat) (slot : Nat) :
    Sys2Proof.Laws.Fits.Statement (.stallExpiry tile slot) :=
  Sys2Proof.Laws.fits_of_none rfl
theorem Sys2Proof.Laws.Fits.prompterIssue (tile : Nat) :
    Sys2Proof.Laws.Fits.Statement (.prompterIssue tile) :=
  Sys2Proof.Laws.fits_of_none rfl
theorem Sys2Proof.Laws.Fits.rotationEnd (tile : Nat) :
    Sys2Proof.Laws.Fits.Statement (.rotationEnd tile) :=
  Sys2Proof.Laws.fits_of_none rfl
theorem Sys2Proof.Laws.Fits.rosetApply (tile : Nat) :
    Sys2Proof.Laws.Fits.Statement (.rosetApply tile) :=
  Sys2Proof.Laws.fits_of_none rfl
theorem Sys2Proof.Laws.Fits.accessReply (id : Nat) :
    Sys2Proof.Laws.Fits.Statement (.accessReply id) :=
  Sys2Proof.Laws.fits_of_none rfl
theorem Sys2Proof.Laws.Fits.remotePortAccess (id : Nat) :
    Sys2Proof.Laws.Fits.Statement (.remotePortAccess id) :=
  Sys2Proof.Laws.fits_of_none rfl
theorem Sys2Proof.Laws.Fits.postedAck (id : Nat) :
    Sys2Proof.Laws.Fits.Statement (.postedAck id) :=
  Sys2Proof.Laws.fits_of_none rfl
theorem Sys2Proof.Laws.Fits.secWriteback (place : Nat) (word : Nat) :
    Sys2Proof.Laws.Fits.Statement (.secWriteback place word) :=
  Sys2Proof.Laws.fits_of_none rfl
theorem Sys2Proof.Laws.Fits.storeProbeReply (id : Nat) :
    Sys2Proof.Laws.Fits.Statement (.storeProbeReply id) :=
  Sys2Proof.Laws.fits_of_none rfl
theorem Sys2Proof.Laws.Fits.viewDrop (tile : Nat) (key : Nat) :
    Sys2Proof.Laws.Fits.Statement (.viewDrop tile key) :=
  Sys2Proof.Laws.fits_of_none rfl
theorem Sys2Proof.Laws.Fits.phaseComplete (tile : Nat) (slot : Nat) :
    Sys2Proof.Laws.Fits.Statement (.phaseComplete tile slot) :=
  Sys2Proof.Laws.fits_of_none rfl
theorem Sys2Proof.Laws.Fits.ifenceComplete (tile : Nat) (slot : Nat) :
    Sys2Proof.Laws.Fits.Statement (.ifenceComplete tile slot) :=
  Sys2Proof.Laws.fits_of_none rfl
theorem Sys2Proof.Laws.Fits.sliceAccess (id : Nat) :
    Sys2Proof.Laws.Fits.Statement (.sliceAccess id) :=
  Sys2Proof.Laws.fits_of_none rfl
theorem Sys2Proof.Laws.Fits.sectorFill (id : Nat) :
    Sys2Proof.Laws.Fits.Statement (.sectorFill id) :=
  Sys2Proof.Laws.fits_of_none rfl
theorem Sys2Proof.Laws.Fits.sectorWriteback (key : Nat) :
    Sys2Proof.Laws.Fits.Statement (.sectorWriteback key) :=
  Sys2Proof.Laws.fits_of_none rfl
theorem Sys2Proof.Laws.Fits.memorySideAmo (id : Nat) :
    Sys2Proof.Laws.Fits.Statement (.memorySideAmo id) :=
  Sys2Proof.Laws.fits_of_none rfl
theorem Sys2Proof.Laws.Fits.opAmo (id : Nat) :
    Sys2Proof.Laws.Fits.Statement (.opAmo id) :=
  Sys2Proof.Laws.fits_of_none rfl
theorem Sys2Proof.Laws.Fits.opCas2 (id : Nat) :
    Sys2Proof.Laws.Fits.Statement (.opCas2 id) :=
  Sys2Proof.Laws.fits_of_none rfl
theorem Sys2Proof.Laws.Fits.opCas4 (id : Nat) :
    Sys2Proof.Laws.Fits.Statement (.opCas4 id) :=
  Sys2Proof.Laws.fits_of_none rfl
theorem Sys2Proof.Laws.Fits.opLenq (id : Nat) :
    Sys2Proof.Laws.Fits.Statement (.opLenq id) :=
  Sys2Proof.Laws.fits_of_none rfl
theorem Sys2Proof.Laws.Fits.opLdeq (id : Nat) :
    Sys2Proof.Laws.Fits.Statement (.opLdeq id) :=
  Sys2Proof.Laws.fits_of_none rfl
theorem Sys2Proof.Laws.Fits.opChase (id : Nat) :
    Sys2Proof.Laws.Fits.Statement (.opChase id) :=
  Sys2Proof.Laws.fits_of_none rfl
theorem Sys2Proof.Laws.Fits.forwardedPageAccess (id : Nat) :
    Sys2Proof.Laws.Fits.Statement (.forwardedPageAccess id) :=
  Sys2Proof.Laws.fits_of_none rfl
theorem Sys2Proof.Laws.Fits.remotePageFail (id : Nat) :
    Sys2Proof.Laws.Fits.Statement (.remotePageFail id) :=
  Sys2Proof.Laws.fits_of_none rfl
theorem Sys2Proof.Laws.Fits.xlInvpage (id : Nat) :
    Sys2Proof.Laws.Fits.Statement (.xlInvpage id) :=
  Sys2Proof.Laws.fits_of_none rfl
theorem Sys2Proof.Laws.Fits.xlRetire (id : Nat) :
    Sys2Proof.Laws.Fits.Statement (.xlRetire id) :=
  Sys2Proof.Laws.fits_of_none rfl
theorem Sys2Proof.Laws.Fits.xlActivate (id : Nat) :
    Sys2Proof.Laws.Fits.Statement (.xlActivate id) :=
  Sys2Proof.Laws.fits_of_none rfl
theorem Sys2Proof.Laws.Fits.xlHarvest (id : Nat) :
    Sys2Proof.Laws.Fits.Statement (.xlHarvest id) :=
  Sys2Proof.Laws.fits_of_none rfl
theorem Sys2Proof.Laws.Fits.stagehandAccept (cluster : Nat) :
    Sys2Proof.Laws.Fits.Statement (.stagehandAccept cluster) :=
  Sys2Proof.Laws.fits_of_none rfl
theorem Sys2Proof.Laws.Fits.stagehandStart (cluster : Nat) :
    Sys2Proof.Laws.Fits.Statement (.stagehandStart cluster) :=
  Sys2Proof.Laws.fits_of_none rfl
theorem Sys2Proof.Laws.Fits.stagehandComplete (cluster : Nat) (id : Nat) :
    Sys2Proof.Laws.Fits.Statement (.stagehandComplete cluster id) :=
  Sys2Proof.Laws.fits_of_none rfl
theorem Sys2Proof.Laws.Fits.matrixAccept (tile : Nat) :
    Sys2Proof.Laws.Fits.Statement (.matrixAccept tile) :=
  Sys2Proof.Laws.fits_of_none rfl
theorem Sys2Proof.Laws.Fits.matrixStart (tile : Nat) (id : Nat) :
    Sys2Proof.Laws.Fits.Statement (.matrixStart tile id) :=
  Sys2Proof.Laws.fits_of_none rfl
theorem Sys2Proof.Laws.Fits.matrixComplete (tile : Nat) (id : Nat) :
    Sys2Proof.Laws.Fits.Statement (.matrixComplete tile id) :=
  Sys2Proof.Laws.fits_of_none rfl
theorem Sys2Proof.Laws.Fits.mclaimGrant (tile : Nat) (id : Nat) :
    Sys2Proof.Laws.Fits.Statement (.mclaimGrant tile id) :=
  Sys2Proof.Laws.fits_of_none rfl
theorem Sys2Proof.Laws.Fits.mrelFree (tile : Nat) (id : Nat) :
    Sys2Proof.Laws.Fits.Statement (.mrelFree tile id) :=
  Sys2Proof.Laws.fits_of_none rfl
theorem Sys2Proof.Laws.Fits.mgemmStep (tile : Nat) (id : Nat) :
    Sys2Proof.Laws.Fits.Statement (.mgemmStep tile id) :=
  Sys2Proof.Laws.fits_of_none rfl
theorem Sys2Proof.Laws.Fits.taskStart (cluster : Nat) (queue : Nat) :
    Sys2Proof.Laws.Fits.Statement (.taskStart cluster queue) :=
  Sys2Proof.Laws.fits_of_none rfl
theorem Sys2Proof.Laws.Fits.taskRetire (cluster : Nat) (id : Nat) :
    Sys2Proof.Laws.Fits.Statement (.taskRetire cluster id) :=
  Sys2Proof.Laws.fits_of_none rfl
theorem Sys2Proof.Laws.Fits.swapAccept (die : Nat) :
    Sys2Proof.Laws.Fits.Statement (.swapAccept die) :=
  Sys2Proof.Laws.fits_of_none rfl
theorem Sys2Proof.Laws.Fits.swapEntryDone (id : Nat) :
    Sys2Proof.Laws.Fits.Statement (.swapEntryDone id) :=
  Sys2Proof.Laws.fits_of_none rfl
theorem Sys2Proof.Laws.Fits.flashUnitReply (id : Nat) (err : Bool) (data : BitVec 32768) :
    Sys2Proof.Laws.Fits.Statement (.flashUnitReply id err data) :=
  Sys2Proof.Laws.fits_of_none rfl
theorem Sys2Proof.Laws.Fits.streamFetch (tile : Nat) (slot : Nat) (n : Nat) :
    Sys2Proof.Laws.Fits.Statement (.streamFetch tile slot n) :=
  Sys2Proof.Laws.fits_of_none rfl
theorem Sys2Proof.Laws.Fits.streamWrite (tile : Nat) (slot : Nat) (n : Nat) :
    Sys2Proof.Laws.Fits.Statement (.streamWrite tile slot n) :=
  Sys2Proof.Laws.fits_of_none rfl
theorem Sys2Proof.Laws.Fits.cueSignalArrival (id : Nat) :
    Sys2Proof.Laws.Fits.Statement (.cueSignalArrival id) :=
  Sys2Proof.Laws.fits_of_none rfl
theorem Sys2Proof.Laws.Fits.cwaittLimit (tile : Nat) (slot : Nat) :
    Sys2Proof.Laws.Fits.Statement (.cwaittLimit tile slot) :=
  Sys2Proof.Laws.fits_of_none rfl
theorem Sys2Proof.Laws.Fits.recvtLimit (tile : Nat) (slot : Nat) :
    Sys2Proof.Laws.Fits.Statement (.recvtLimit tile slot) :=
  Sys2Proof.Laws.fits_of_none rfl
theorem Sys2Proof.Laws.Fits.messageDelivery (id : Nat) :
    Sys2Proof.Laws.Fits.Statement (.messageDelivery id) :=
  Sys2Proof.Laws.fits_of_none rfl
theorem Sys2Proof.Laws.Fits.eventDelivery (place : Nat) :
    Sys2Proof.Laws.Fits.Statement (.eventDelivery place) :=
  Sys2Proof.Laws.fits_of_none rfl
theorem Sys2Proof.Laws.Fits.pmxContribution (id : Nat) :
    Sys2Proof.Laws.Fits.Statement (.pmxContribution id) :=
  Sys2Proof.Laws.fits_of_none rfl
theorem Sys2Proof.Laws.Fits.pmsendArrival (id : Nat) :
    Sys2Proof.Laws.Fits.Statement (.pmsendArrival id) :=
  Sys2Proof.Laws.fits_of_none rfl
theorem Sys2Proof.Laws.Fits.spawnrAdmission (id : Nat) :
    Sys2Proof.Laws.Fits.Statement (.spawnrAdmission id) :=
  Sys2Proof.Laws.fits_of_none rfl
theorem Sys2Proof.Laws.Fits.remoteRequest (id : Nat) :
    Sys2Proof.Laws.Fits.Statement (.remoteRequest id) :=
  Sys2Proof.Laws.fits_of_none rfl
theorem Sys2Proof.Laws.Fits.remoteReply (id : Nat) :
    Sys2Proof.Laws.Fits.Statement (.remoteReply id) :=
  Sys2Proof.Laws.fits_of_none rfl
theorem Sys2Proof.Laws.Fits.requestTimeout (id : Nat) :
    Sys2Proof.Laws.Fits.Statement (.requestTimeout id) :=
  Sys2Proof.Laws.fits_of_none rfl
theorem Sys2Proof.Laws.Fits.flitReceive (port : Nat) (flit : BitVec 512) (link : BitVec 32) (crc : BitVec 32) :
    Sys2Proof.Laws.Fits.Statement (.flitReceive port flit link crc) :=
  Sys2Proof.Laws.fits_of_none rfl
theorem Sys2Proof.Laws.Fits.linkControlFlit (port : Nat) (flit : BitVec 512) :
    Sys2Proof.Laws.Fits.Statement (.linkControlFlit port flit) :=
  Sys2Proof.Laws.fits_of_none rfl
theorem Sys2Proof.Laws.Fits.linkReplay (port : Nat) (nakSeq : BitVec 12) :
    Sys2Proof.Laws.Fits.Statement (.linkReplay port nakSeq) :=
  Sys2Proof.Laws.fits_of_none rfl
theorem Sys2Proof.Laws.Fits.packetRoute (id : Nat) :
    Sys2Proof.Laws.Fits.Statement (.packetRoute id) :=
  Sys2Proof.Laws.fits_of_none rfl
theorem Sys2Proof.Laws.Fits.linkRetrain (port : Nat) :
    Sys2Proof.Laws.Fits.Statement (.linkRetrain port) :=
  Sys2Proof.Laws.fits_of_none rfl
theorem Sys2Proof.Laws.Fits.linkFail (port : Nat) :
    Sys2Proof.Laws.Fits.Statement (.linkFail port) :=
  Sys2Proof.Laws.fits_of_none rfl
theorem Sys2Proof.Laws.Fits.timeSync (ns : Nat) :
    Sys2Proof.Laws.Fits.Statement (.timeSync ns) :=
  Sys2Proof.Laws.fits_of_none rfl
theorem Sys2Proof.Laws.Fits.refillTick :
    Sys2Proof.Laws.Fits.Statement (.refillTick) :=
  Sys2Proof.Laws.fits_of_none rfl
theorem Sys2Proof.Laws.Fits.wakeWrite (fn : Nat) (data : BitVec 64) :
    Sys2Proof.Laws.Fits.Statement (.wakeWrite fn data) :=
  Sys2Proof.Laws.fits_of_none rfl
theorem Sys2Proof.Laws.Fits.vfMemoryRequest (fn : Nat) (write : Bool) (off : Nat) (size : Nat) (data : Nat) :
    Sys2Proof.Laws.Fits.Statement (.vfMemoryRequest fn write off size data) :=
  Sys2Proof.Laws.fits_of_none rfl
theorem Sys2Proof.Laws.Fits.callSheetStart (part : Nat) (entry : Nat) :
    Sys2Proof.Laws.Fits.Statement (.callSheetStart part entry) :=
  Sys2Proof.Laws.fits_of_none rfl
theorem Sys2Proof.Laws.Fits.launch :
    Sys2Proof.Laws.Fits.Statement (.launch) :=
  Sys2Proof.Laws.fits_of_none rfl
theorem Sys2Proof.Laws.Fits.launchRelease (id : Nat) :
    Sys2Proof.Laws.Fits.Statement (.launchRelease id) :=
  Sys2Proof.Laws.fits_of_none rfl
theorem Sys2Proof.Laws.Fits.launchEnd (id : Nat) :
    Sys2Proof.Laws.Fits.Statement (.launchEnd id) :=
  Sys2Proof.Laws.fits_of_none rfl
theorem Sys2Proof.Laws.Fits.gateRequest (id : Nat) :
    Sys2Proof.Laws.Fits.Statement (.gateRequest id) :=
  Sys2Proof.Laws.fits_of_none rfl
theorem Sys2Proof.Laws.Fits.gateCommit (id : Nat) :
    Sys2Proof.Laws.Fits.Statement (.gateCommit id) :=
  Sys2Proof.Laws.fits_of_none rfl
theorem Sys2Proof.Laws.Fits.gateReply (id : Nat) :
    Sys2Proof.Laws.Fits.Statement (.gateReply id) :=
  Sys2Proof.Laws.fits_of_none rfl
theorem Sys2Proof.Laws.Fits.gateDeliveryAck (id : Nat) :
    Sys2Proof.Laws.Fits.Statement (.gateDeliveryAck id) :=
  Sys2Proof.Laws.fits_of_none rfl
theorem Sys2Proof.Laws.Fits.gateWaitLimit (tile : Nat) (slot : Nat) :
    Sys2Proof.Laws.Fits.Statement (.gateWaitLimit tile slot) :=
  Sys2Proof.Laws.fits_of_none rfl
theorem Sys2Proof.Laws.Fits.gateCancel (id : Nat) :
    Sys2Proof.Laws.Fits.Statement (.gateCancel id) :=
  Sys2Proof.Laws.fits_of_none rfl
theorem Sys2Proof.Laws.Fits.gateReturn (id : Nat) :
    Sys2Proof.Laws.Fits.Statement (.gateReturn id) :=
  Sys2Proof.Laws.fits_of_none rfl
theorem Sys2Proof.Laws.Fits.thermalCheck (tile : Nat) (temp : Nat) :
    Sys2Proof.Laws.Fits.Statement (.thermalCheck tile temp) :=
  Sys2Proof.Laws.fits_of_none rfl
theorem Sys2Proof.Laws.Fits.displaceThread (tile : Nat) :
    Sys2Proof.Laws.Fits.Statement (.displaceThread tile) :=
  Sys2Proof.Laws.fits_of_none rfl
theorem Sys2Proof.Laws.Fits.returnHome (tile : Nat) (slot : Nat) :
    Sys2Proof.Laws.Fits.Statement (.returnHome tile slot) :=
  Sys2Proof.Laws.fits_of_none rfl
theorem Sys2Proof.Laws.Fits.curtainStop (part : Nat) :
    Sys2Proof.Laws.Fits.Statement (.curtainStop part) :=
  Sys2Proof.Laws.fits_of_none rfl
theorem Sys2Proof.Laws.Fits.curtainSave (part : Nat) :
    Sys2Proof.Laws.Fits.Statement (.curtainSave part) :=
  Sys2Proof.Laws.fits_of_none rfl
theorem Sys2Proof.Laws.Fits.curtainResume (part : Nat) :
    Sys2Proof.Laws.Fits.Statement (.curtainResume part) :=
  Sys2Proof.Laws.fits_of_none rfl
theorem Sys2Proof.Laws.Fits.curtainRestore (part : Nat) :
    Sys2Proof.Laws.Fits.Statement (.curtainRestore part) :=
  Sys2Proof.Laws.fits_of_none rfl
theorem Sys2Proof.Laws.Fits.curtainStart (part : Nat) :
    Sys2Proof.Laws.Fits.Statement (.curtainStart part) :=
  Sys2Proof.Laws.fits_of_none rfl
theorem Sys2Proof.Laws.Fits.migrMove (part : Nat) :
    Sys2Proof.Laws.Fits.Statement (.migrMove part) :=
  Sys2Proof.Laws.fits_of_none rfl
theorem Sys2Proof.Laws.Fits.migrRetire (part : Nat) :
    Sys2Proof.Laws.Fits.Statement (.migrRetire part) :=
  Sys2Proof.Laws.fits_of_none rfl
theorem Sys2Proof.Laws.Fits.forwardPacket (id : Nat) :
    Sys2Proof.Laws.Fits.Statement (.forwardPacket id) :=
  Sys2Proof.Laws.fits_of_none rfl
theorem Sys2Proof.Laws.Fits.tagcfgWrite (tile : Nat) (v : BitVec 64) :
    Sys2Proof.Laws.Fits.Statement (.tagcfgWrite tile v) :=
  Sys2Proof.Laws.fits_of_none rfl
theorem Sys2Proof.Laws.Fits.trctlClear (tile : Nat) :
    Sys2Proof.Laws.Fits.Statement (.trctlClear tile) :=
  Sys2Proof.Laws.fits_of_none rfl
theorem Sys2Proof.Laws.Fits.tquotaWrite (tile : Nat) (v : BitVec 64) :
    Sys2Proof.Laws.Fits.Statement (.tquotaWrite tile v) :=
  Sys2Proof.Laws.fits_of_none rfl
theorem Sys2Proof.Laws.Fits.registerWrite (off : Nat) (v : BitVec 64) :
    Sys2Proof.Laws.Fits.Statement (.registerWrite off v) :=
  Sys2Proof.Laws.fits_of_none rfl
theorem Sys2Proof.Laws.Fits.resetCold :
    Sys2Proof.Laws.Fits.Statement (.resetCold) :=
  Sys2Proof.Laws.fits_of_none rfl
theorem Sys2Proof.Laws.Fits.resetWarm :
    Sys2Proof.Laws.Fits.Statement (.resetWarm) :=
  Sys2Proof.Laws.fits_of_none rfl
theorem Sys2Proof.Laws.Fits.powerUp :
    Sys2Proof.Laws.Fits.Statement (.powerUp) :=
  Sys2Proof.Laws.fits_of_none rfl
theorem Sys2Proof.Laws.Fits.hlaunch (v : BitVec 64) :
    Sys2Proof.Laws.Fits.Statement (.hlaunch v) :=
  Sys2Proof.Laws.fits_of_none rfl
theorem Sys2Proof.Laws.Fits.attestStart :
    Sys2Proof.Laws.Fits.Statement (.attestStart) :=
  Sys2Proof.Laws.fits_of_none rfl
theorem Sys2Proof.Laws.Fits.attestReport :
    Sys2Proof.Laws.Fits.Statement (.attestReport) :=
  Sys2Proof.Laws.fits_of_none rfl
theorem Sys2Proof.Laws.Fits.sensorAlarm (kind : Nat) :
    Sys2Proof.Laws.Fits.Statement (.sensorAlarm kind) :=
  Sys2Proof.Laws.fits_of_none rfl
theorem Sys2Proof.Laws.Fits.thermalTrip (tile : Nat) (temp : Nat) :
    Sys2Proof.Laws.Fits.Statement (.thermalTrip tile temp) :=
  Sys2Proof.Laws.fits_of_none rfl
theorem Sys2Proof.Laws.Fits.telemetryRefresh (words : List (Nat × BitVec 64)) :
    Sys2Proof.Laws.Fits.Statement (.telemetryRefresh words) :=
  Sys2Proof.Laws.fits_of_none rfl
theorem Sys2Proof.Laws.Fits.illegalInstruction (w : BitVec 32) :
    Sys2Proof.Laws.Fits.Statement (.illegalInstruction w) :=
  Sys2Proof.Laws.fits_of_none rfl
theorem Sys2Proof.Laws.Fits.nodeTimeLost :
    Sys2Proof.Laws.Fits.Statement (.nodeTimeLost) :=
  Sys2Proof.Laws.fits_of_none rfl
theorem Sys2Proof.Laws.Fits.linkRetrained (port : Nat) :
    Sys2Proof.Laws.Fits.Statement (.linkRetrained port) :=
  Sys2Proof.Laws.fits_of_none rfl
end

