-- ==== Sys2Proof/Laws/Words.lean ====
section
/-! SUPPORT. What the shared pieces of an instruction's meaning leave: the ends of an issue, replies
of the home tile, and the thread that issues after an update of something else. -/

namespace Sys2Proof.Machine

/-! ### The ends of an issue -/

@[simp] theorem settle_trap (stl : BitVec 3) (c : Cause) (v : Word) (s : State) :
    settle stl (.trap c v s) = trapThread s s.cur c v := rfl

@[simp] theorem settle_stay (stl : BitVec 3) (s : State) : settle stl (.stay s) = s := rfl

theorem settle_ite (stl : BitVec 3) (p : Prop) [Decidable p] (a b : Ret) :
    settle stl (if p then a else b) = if p then settle stl a else settle stl b := by
  split <;> rfl

/-! ### What an update leaves of the issuing thread -/

theorem thr_updTile (s : State) (t : Nat) (f : Tile → Tile) (i : Tid)
    (h : (f (tile s t)).threads = (tile s t).threads) : thr (updTile s t f) i = thr s i := by
  by_cases ht : i.tile = t
  · subst ht; simp [thr, updTile, h]
  · simp [thr, updTile, tile_setTile_ne s _ ht]

theorem me_updTile (s : State) (t : Nat) (f : Tile → Tile)
    (h : (f (tile s t)).threads = (tile s t).threads) : me (updTile s t f) = me s :=
  thr_updTile s t f s.cur h

theorem me_onMe (s : State) (f : Thread → Thread) (h : s.cur.tile < 1024) :
    me (onMe s f) = f (me s) := by
  have hc : (onMe s f).cur = s.cur := by simp [onMe]
  unfold me
  rw [hc]
  exact thr_setThr_same s _ h

@[simp] theorem cur_onMe (s : State) (f : Thread → Thread) : (onMe s f).cur = s.cur := by
  simp [onMe]

@[simp] theorem cycle_onMe (s : State) (f : Thread → Thread) : (onMe s f).cycle = s.cycle := by
  simp [onMe]

theorem onMe_onMe (s : State) (f g : Thread → Thread) (h : s.cur.tile < 1024) :
    onMe (onMe s f) g = onMe s (fun th => g (f th)) := by
  show setThr (onMe s f) (onMe s f).cur (g (me (onMe s f))) = _
  rw [me_onMe s f h, cur_onMe]
  exact setThr_setThr s s.cur _ _

theorem updMe_eq (s : State) (f : Thread → Thread) : updMe s f = onMe s f := rfl

theorem thr_eq_of_tiles {s t : State} (h : t.tiles = s.tiles) (i : Tid) : thr t i = thr s i := by
  simp [thr, tile, h]

theorem me_eq_of_tiles {s t : State} (h : t.tiles = s.tiles) (g : t.cur = s.cur) :
    me t = me s := by
  rw [me, me, g, thr_eq_of_tiles h]

/-! ### Replies of the home tile (R144, R263) -/

/-- An operation on the home tile with a result: the result at once, or the wait for its reply. -/
theorem settle_homeReply (stl : BitVec 3) (rd : BitVec 5) (v : Word) (s : State) :
    settle stl (homeReply rd v (putX stl 4 rd v) s)
      = if displaced s.cur (me s) then
          slept stl (.value rd.toNat) (send s s.cur 0 (.reply v.toNat none none))
        else went stl (onMe s (withX s stl 4 false rd v (residue v))) := by
  unfold homeReply
  split <;> simp [putX, putXR_eq]

/-- An operation on the home tile without a result. -/
theorem settle_homeDone (stl : BitVec 3) (s : State) :
    settle stl (homeDone s)
      = if displaced s.cur (me s) then
          slept stl .done (send s s.cur 0 (.reply 0 none none))
        else went stl s := by
  unfold homeDone
  split <;> rfl

/-! ### Packets -/

/-- A packet on its way changes the network and the count of numbers only. -/
theorem send_eq (s : State) (i : Tid) (pl : Nat) (b : Body) :
    send s i pl b = { s with net := s.net ++ [⟨s.fresh, i, pl, b⟩], fresh := s.fresh + 1 } := rfl

@[simp] theorem me_send (s : State) (i : Tid) (pl : Nat) (b : Body) : me (send s i pl b) = me s :=
  rfl

@[simp] theorem cur_send (s : State) (i : Tid) (pl : Nat) (b : Body) :
    (send s i pl b).cur = s.cur := rfl

end Sys2Proof.Machine
end

