-- ==== Sys2Proof/Tests/Slice0.lean ====
section
/-! SUPPORT. The model's own tests: words that the spec's chapters print decode to the instructions
they stand for, ill-formed terms are refused, one step gives what a chapter's example says, and for
every statement with hypotheses a state and operands that meet them. -/

namespace Sys2Proof.Tests

set_option Elab.async false

open Sys2Proof Sys2Proof.Machine

/-! ### Decoding, one word or more of every family, as the chapters print them -/

/-- Whether each word decodes to its instruction. -/
noncomputable def reads (l : List (IWord × Instr)) : Bool := l.all fun e => match decode e.1 with
  | .ok i => i == e.2
  | .error _ => false

theorem test_decode_alu : reads [(0x04294B00, .add 0 10 10 11), (0x04296C00, .add 0 10 11 12),
    (0x24280201, .lui 0 10 513), (0x08149FFD, .addi 0 5 4 (-3)), (0x2014D003, .srai 0 5 6 3),
    (0x3A296C04, .div 4 10 11 12), (0x2C2D4C05, .pspc 0 11 10 12)] = true := by decide +kernel

theorem test_decode_fp : reads [(0x35316B42, .fmul 2 12 11 11 1), (0x342D4050, .fcvtI 0 11 10 1),
    (0x342D4194, .fcvtP 0 11 10 1 2)] = true := by decide +kernel

theorem test_decode_control : reads [(0x442C1FFD, .bne 0 11 0 (-3)), (0x60002000, .jalr 0 0 1 0)]
    = true := by decide +kernel

theorem test_decode_memory : reads [(0x64289800, .ld 0 10 4 0), (0x6C288B36, .ldx 0 10 4 11 3),
    (0x6814D002, .sw 0 5 6 2), (0x70298B80, .amoadd 0 10 12 11 1)] = true := by decide +kernel

theorem test_decode_tag : reads [(0x74288000, .tlook 0 10 4), (0x743D8003, .tvict 0 15 12),
    (0x74008C01, .tset 0 4 12)] = true := by decide +kernel

theorem test_decode_fence : reads [(0x78202100, .fence 0 16 4 1), (0x78210100, .fence 0 16 32 1),
    (0x78200800, .fence 0 16 1 0), (0x78080800, .fence 0 4 1 0), (0x78030000, .fence 0 1 32 0),
    (0x78000140, .phase 0 0 0 1), (0x78000040, .phase 0 0 0 0), (0x78000380, .ifence 0 3)] = true := by decide +kernel

theorem test_decode_rep : reads [(0x7C080600, .rep 4 6 0)] = true := by decide +kernel

theorem test_decode_vector : reads [(0x801008A0, .vadd 0 4 0 8 5), (0x800C4068, .vneg 0 3 2 3),
    (0x84080C50, .vbscl 0 2 0 1 4), (0x8C154002, .vld 0 5 10 0 2), (0x98188CA1, .pmx 0 6 4 12 1)]
    = true := by decide +kernel

theorem test_decode_stream : reads [(0x9C094000, .sbind 0 2 10)] = true := by decide +kernel

theorem test_decode_thread : reads [(0xA0314B00, .spawn 0 12 10 11), (0xA0118001, .join 0 4 12),
    (0xA0008002, .exit 0 4)] = true := by decide +kernel

theorem test_decode_cue : reads [(0xA4181000, .cwait 0 1 2 0), (0xA4102800, .cwait 0 0 5 0),
    (0xA4202800, .csig 0 0 5 0), (0xA4381814, .cread 0 1 3 10)] = true := by decide +kernel

theorem test_decode_message : reads [(0xA800A600, .send 0 5 6)] = true := by decide +kernel

theorem test_decode_engine : reads [(0xAC002800, .mclaim 0 10), (0xAC002801, .mrel 0 10),
    (0xAC008162, .mload 0 1 0 11), (0xAC008582, .mload 0 1 1 12), (0xAC08B160, .cpy 0 1 12 11),
    (0xAC192960, .swpin 0 2 10 11), (0xAC032D85, .mgemm 0 6 11 12)] = true := by decide +kernel

theorem test_decode_engine_register : reads [(0xB00018E2, .ewr 0 6 7 2), (0xB0003400, .ewr 0 13 0 0)]
    = true := by decide +kernel

theorem test_decode_gate : reads [(0xB82D4000, .gopen 0 11 10), (0xB8316002, .gsig 0 12 11 0)]
    = true := by decide +kernel

theorem test_decode_system : reads [(0xBC280002, .csrr 0 10 2), (0xBC000805, .trap 0 5),
    (0xBC000A00, .tret 0), (0xBC000C00, .brk 0), (0xBC280011, .csrr 0 10 0x11),
    (0xBC014213, .csrw 0 0 10 0x13), (0xBC296E00, .repart 0 10 11), (0xBC017003, .roset 0 11 3),
    (0xBC297400, .curtain 0 10 11), (0xBC297600, .migr 0 10 11)] = true := by decide +kernel

theorem test_decode_remote : reads [(0xC0296C00, .rld 0 10 11 12), (0xC0156C01, .rst 0 5 11 12),
    (0xC0296C02, .ramo 0 10 11 12), (0xC0296C03, .spawnr 0 10 11 12)] = true := by decide +kernel

theorem test_decode_refuses : [(0xFFFFFFFF : IWord), 0x0400001C, 0x040001 * 256 + 0x14].all
    (fun w => match decode w with
      | .ok _ => false
      | .error _ => true) = true := by decide +kernel

theorem test_encode_add : encode (.add 0 10 10 11) = some 0x04294B00 := by decide +kernel

/-! ### Well-formedness: a term that each check refuses -/

theorem test_illformed_scope : [Instr.fence 0 8 8 6, .phase 0 0 0 7, .ifence 0 6].all (!·.wf) = true := by
  decide +kernel

theorem test_illformed_stream : [Instr.sbind 0 8 1, .sunbind 0 8, .sstat 0 1 8, .sdrain 0 31,
    .sskip 0 8 1].all (!·.wf) = true := by decide +kernel

theorem test_illformed_cue : [Instr.cinit 0 1 8 0, .cwait 0 1 8 0, .csig 0 1 255 0, .cread 0 1 8 0,
    .ctry 0 1 8 0 0, .cwaitt 0 1 8 0 0].all (!·.wf) = true := by decide +kernel

theorem test_illformed_matrix : [Instr.mload 0 0 16 0, .mma 0 0 16 0, .mma 0 0 0 16, .mmas 0 0 31 0,
    .mdrain 0 0 4 0, .mzero 0 0 4, .mtov 0 0 4].all (!·.wf) = true := by decide +kernel

theorem test_illformed_part : [Instr.vld 0 0 0 5 0, .vst 0 0 0 7 0].all (!·.wf) = true := by
  decide +kernel

theorem test_illformed_ewr : Instr.wf (.ewr 0 1 1 7) = false := by decide +kernel

theorem test_illformed_csr : [Instr.csrr 0 1 4, .csrw 0 0 1 0x1FF, .csrs 0 0 1 4, .csrc 0 0 1 4].all
    (!·.wf) = true := by decide +kernel

theorem test_wellformed : [Instr.add 7 31 31 31, .fence 0 63 63 5, .sbind 0 7 31, .cinit 0 1 7 0,
    .mzero 0 15 3, .ewr 0 1 1 6, .ewr 0 1 0 7, .csrr 0 1 0x11].all (·.wf) = true := by decide +kernel

/-! ### One step on a small state -/

/-- A hypervisor thread on tile 0, slot 0, of which `f` changes what a test needs, that issues. -/
def small (f : Thread → Thread) : State :=
  setThr State.reset ⟨0, 0⟩ (f { Thread.none with st := .ready, pc := 0x1000, vwSize := 24, priv := 2 })

/-- Scalar registers with the residues of their values. -/
def regs (l : List (Nat × Word)) (th : Thread) : Thread :=
  l.foldl (fun th e => setX th e.1 e.2) th

/-- Register `n` of the issuing thread after an instruction. -/
def xAfter (i : Instr) (s : State) (n : Nat) : Option Word :=
  match exec i s with
  | .next t => some (getXR (me t) n).v
  | _ => none

/-- A field of the issuing thread after an instruction. -/
def after {α : Type} (g : Thread → α) (i : Instr) (s : State) : Option α :=
  match exec i s with
  | .next t => some (g (me t))
  | _ => none

/-- R149's example: all ones plus 2 is 1, with residue 1. -/
theorem test_add_wraps : after (fun th => getXR th 10) (.add 0 10 11 12)
    (small (regs [(11, BitVec.allOnes 64), (12, 2)])) = some ⟨1, 1⟩ := by decide +kernel

/-- R161: −2^63 ÷ −1 is the upper limit, and a division of 5 by zero too. -/
theorem test_div_saturates : xAfter (.div 4 10 11 12)
    (small (regs [(11, 0x8000000000000000), (12, BitVec.allOnes 64)])) 10
      = some 0x7FFFFFFFFFFFFFFF
    ∧ xAfter (.div 4 10 11 12) (small (regs [(11, 5)])) 10 = some 0x7FFFFFFFFFFFFFFF := by
  decide +kernel

/-- R161: a remainder keeps the sign of a. -/
theorem test_rem_sign : xAfter (.rem 4 10 11 12) (small (regs [(11, -7), (12, 2)])) 10 = some (-1) := by
  decide +kernel

/-- R160: auipc counts from its own address. -/
theorem test_auipc : xAfter (.auipc 0 5 1) (small id) 5 = some 0x3000 := by decide +kernel

/-- R162: pfmt replaces FMT and BLKL alone. -/
theorem test_pfmt : xAfter (.pfmt 0 10 11 12) (small (regs [(11, 0xFFFFFFFFFFFFFFFF), (12, 0)])) 10
    = some 0x003FFFFFFFFFFFFF := by decide +kernel

/-- R164: paddi beyond the offset's range traps PTR_OVF with TVAL the pointer. -/
theorem test_paddi_overflow : after (fun th => (th.tcause, th.tval, getXR th 10)) (.paddi 0 10 11 (-1))
    (small (regs [(10, 7), (11, 0x0010000000000000)])) = some (0x08, 0x0010000000000000, ⟨7, 7⟩) := by
  decide +kernel

/-- R171: a taken branch counts words from itself. -/
theorem test_bne_back : after (·.pc) (.bne 0 11 0 (-3)) (small (regs [(11, 1)])) = some 0xFF4 := by
  decide +kernel

/-- R172: jalr x1, 0(x1) jumps to the old x1. -/
theorem test_jalr_reads_first : after (fun th => (th.pc, (getXR th 1).v)) (.jalr 0 1 1 0)
    (small (regs [(1, 0x2003)])) = some (0x2000, 0x1004) := by decide +kernel

/-- R40: a register above x15 traps REG in narrow mode. -/
theorem test_reg_narrow : after (·.tcause) (.add 0 16 1 2) (small id) = some 0x13 := by decide +kernel

/-- R310: trap saves cause, code and pc; tret without INH traps ILLEGAL. -/
theorem test_trap_and_tret : after (fun th => (th.tcause, th.tval, th.tpc)) (.trap 0 5) (small id)
      = some (0x17, 5, 0x1000)
    ∧ after (·.tcause) (.tret 0) (small id) = some 0x01 := by decide +kernel

/-- R310: tret restores the lower privilege and the pc. -/
theorem test_tret_returns : after (fun th => (th.priv, th.inh, th.pc)) (.tret 0)
    (small fun th => { th with inh := true, ppriv := 0, tpc := 0x4000 }) = some (0, false, 0x4000) := by
  decide +kernel

/-- R132: a store of a word and a byte load of its second byte, little-endian. -/
theorem test_store_load : (match exec (.sw 0 5 6 2) (small (regs [(6, 0x0020000000000000),
      (5, 0x8081)])) with
    | .next t => xAfter (.lb 0 7 6 9) t 7
    | _ => none) = some (-128) := by decide +kernel

/-- R137: amoadd.w returns the old value, sign-extended. -/
theorem test_amoadd : (match exec (.sw 0 5 6 0) (small (regs [(6, 0x0020000000000000),
      (5, 0xFFFFFFFF), (7, 2)])) with
    | .next t => (match exec (.amoadd 0 8 6 7 0) t with
      | .next u => some ((getXR (me u) 8).v, readLE (tile u 0).spad 0 4)
      | _ => none)
    | _ => none) = some (-1, 1) := by decide +kernel

/-- R264: csig adds, cread gives the value. -/
theorem test_cue : (match exec (.csig 0 1 3 5) (small (regs [(5, 7)])) with
    | .next t => xAfter (.cread 0 1 3 10) t 10
    | _ => none) = some 7 := by decide +kernel

/-- R166: 1 ÷ 0 sets DZ, bit 3 of FFLAGS. -/
theorem test_fdiv_by_zero_flags : after (·.fflags) (.fdiv 3 10 11 12 1)
    (small (regs [(11, 0x3FF0000000000000)])) = some 8 := by decide +kernel

/-- R166: 1.5 × 1.5 in double precision. -/
theorem test_fmul : xAfter (.fmul 1 12 11 11 1) (small (regs [(11, 0x3FF8000000000000)])) 12
    = some 0x4002000000000000 := by decide +kernel

/-- R180's example: amax 1,000 needs s = 2, an all-zero block −128. -/
theorem test_vbscl : (match exec (.vbscl 0 2 0 1 4) (setTile (small id) 0 { tile (small id) 0 with
      vfile := [(0, 0x447A0000)] }) with
    | .next t => (smFind (tile t 0).vfile 2).map fun v => v.toNat % 65536
    | _ => none) = some 0x8002 := by decide +kernel

/-- HLAUNCH of R356 starts the run that `withFetchWord` stands for: the placed word issues. -/
theorem test_step_add : (match step (State.reset.withFetchWord 32 0x04294B00) with
    | .next t => (me t).pc
    | _ => 0) = 0x50004 := by decide +kernel

/-! ### Witnesses: for every statement with hypotheses, states and operands that meet them, clause by
clause; each also shows the clause's conclusion there. -/

/-- `Clear` as a computation. -/
def clearB (c : Chk) (s : State) : Bool :=
  let th := me (landed s)
  decide (s.cur.tile < 1024) && !th.leader && c.ok && decide (c.priv ≤ th.priv)
  && ((tile (landed s) s.cur.tile).wide || c.xs.all fun x => decide (x.toNat < 16))
  && (c.vs.all fun v => decide (24 ≤ v.toNat) || decide (v.toNat < th.vwSize))
  && (!th.chkstl || !notReady (landed s) c)
  && (c.res.all fun e => (getXR th e.1.toNat).r == residue (getXR th e.1.toNat).v)

/-- What `clearB` computes is `Clear`. -/
theorem clear_of_clearB {c : Chk} {s : State} (h : clearB c s = true) : Clear c s := by
  simp only [clearB, Bool.and_eq_true, decide_eq_true_eq, Bool.not_eq_true', Bool.or_eq_true,
    List.all_eq_true, beq_iff_eq] at h
  obtain ⟨⟨⟨⟨⟨⟨⟨h1, h2⟩, h3⟩, h4⟩, h5⟩, h6⟩, h7⟩, h8⟩ := h
  refine ⟨h1, h2, h3, h4, h5, fun v hv hl => ?_, fun hc => ?_, h8⟩
  · exact (h6 v hv).resolve_left (by omega)
  · exact h7.resolve_left (by simp [hc])

/-- The outcome is this next state. -/
def nextIs (o : Host.Outcome State Fault Refusal) (t : State) : Bool :=
  match o with
  | .next u => u == t
  | _ => false

/-- The outcome is a next state of which `f` holds. -/
def ends (o : Host.Outcome State Fault Refusal) (f : State → Bool) : Bool :=
  match o with
  | .next u => f u
  | _ => false

/-- The value of a computation that does not fail. -/
def okVal {ε α : Type} (e : Except ε α) (f : α → Bool) : Bool :=
  match e with
  | .ok a => f a
  | .error _ => false

/-- The failure of a computation. -/
def errVal {ε α : Type} (e : Except ε α) (f : ε → Bool) : Bool :=
  match e with
  | .ok _ => false
  | .error c => f c

theorem wit_DecodeAfterEncode : encode (.add 7 31 31 31) = some 0x07FFFF00 := by decide +kernel

/-- The placed hypervisor thread of `withFetchWord`, whose next word is add x10, x10, x11. -/
def placed : State := State.reset.withFetchWord 32 0x04294B00

/-- A row of integer words completes where its checks pass. -/
def rowGoes (table : State → Instr → Option IntRow) (s : State) (i : Instr) : Bool :=
  (table (landed s) i).any fun r => clearB { xs := r.regs } s && nextIs (exec i s)
    (went r.stl (onMe (landed s) (withX (landed s) r.stl r.lat false r.rd r.val r.res)))

theorem wit_AluResults : rowGoes aluTable (small (regs [(14, -1), (15, 1)])) (.add 7 15 14 15)
    && rowGoes aluTable (small (regs [(14, -1), (15, 1)])) (.ror 0 0 14 15)
    && rowGoes immTable (small (regs [(15, -1)])) (.slti 0 15 15 (-4096))
    && rowGoes immTable (small id) (.lui 0 15 (-131072)) = true := by decide +kernel

theorem wit_MulDivResults : rowGoes mulDivTable (small (regs [(14, 1#64 <<< 63), (15, -1)]))
      (.div 4 15 14 15)
    && rowGoes mulDivTable (small (regs [(14, 7)])) (.remu 0 15 14 0) = true := by decide +kernel

/-- A floating-point word's row, its checks and whether it traps. -/
def fpGoes (s : State) (i : Instr) (trap : Bool) : Bool :=
  (fpTable (landed s) i).any fun r =>
    let f := r.res (theMode (landed s))
    clearB (r.chk (landed s)) s && traps f.fl (me (landed s)) == trap
    && nextIs (exec i s) (if trap then trapThread (landed s) s.cur .fp (f.fl.setWidth 64)
      else went r.stl (onMe (landed s) fun th => withX (landed s) r.stl r.lat true r.rd
        (BitVec.ofNat 64 f.bits) (residue (BitVec.ofNat 64 f.bits)) (withFp f th)))

theorem wit_FpResults : fpGoes (small (regs [(11, 0x3FF8000000000000)])) (.fmul 0 12 11 11 1) false
    && fpGoes (small (regs [(11, 0x3FF8000000000000)])) (.fcvtP 0 15 11 1 3) false
    && fpGoes (small (regs [(11, 0x7FF8000000000000)])) (.fmin 0 15 11 0 1) false = true := by
  decide +kernel

theorem wit_FpFlagTraps : fpGoes (small fun th => { regs [(11, 0x3FF0000000000000)] th with
    fflags := 0x0800 }) (.fdiv 0 12 11 0 1) true = true := by decide +kernel

theorem wit_PointerResults :
    rowGoes ptrTable (small (regs [(1, 5), (2, 9)])) (.psub 0 3 1 2)
    && ([(1#64, 0xFFFFFFFFFFFFE#64, true), (2#64, 0xFFFFFFFFFFFFE#64, false), (-1#64, 1#64, true),
      (-2#64, 1#64, false)].all fun e =>
      let s := small (regs [(1, e.2.1), (2, e.1)])
      clearB { xs := [3, 1, 2] } s && nextIs (exec (.padd 0 3 1 2) s) (if e.2.2
        then went 0 (giveX 0 4 3 (pWith e.2.1 ((pOff e.2.1 : Int) + e.1.toInt).toNat) s)
        else trapThread s s.cur .ptrOvf e.2.1)) = true := by decide +kernel

theorem wit_BranchesGoOrPass :
    (let s := small (regs [(1, 3)]);
      clearB { xs := [1, 0] } s && nextIs (exec (.beq 0 1 0 (-4)) s) (went 0 s)
      && nextIs (exec (.bne 0 1 0 (-4)) s) (wentTo 0 0xFF0 s))
    && (let s := small fun th => { th with pc := 0xFFFFFFFFFFFF8 };
      clearB { xs := [0, 0] } s && nextIs (exec (.beq 0 0 0 1) s) (wentTo 0 0xFFFFFFFFFFFFC s)
      && nextIs (exec (.beq 0 0 0 2) s) (trapThread s s.cur .addr 0x10000000000000))
    && (let s := small id;
      nextIs (exec (.bgeu 0 1 16 2) s) (trapThread s s.cur .reg (s.ir.setWidth 64)))
    && reads [(0x442C1FFD, .bne 0 11 0 (-3))] = true := by decide +kernel

theorem wit_JumpsGoAndLink :
    (let s := small (regs [(15, 0x2003)]);
      clearB { xs := [15, 15], res := [(15, 0)] } s
      && nextIs (exec (.jalr 0 15 15 0) s) (wentTo 0 0x2000 (giveX 0 4 15 0x1004 s))
      && nextIs (exec (.jal 0 1) s) (wentTo 0 0x1004 (giveX 0 4 1 0x1004 s)))
    && (let s := small (regs [(15, 0xFFFFFFFFFFFFF)]);
      nextIs (exec (.jalr 0 15 15 1) s) (trapThread s s.cur .addr 0x10000000000000)) = true := by
  decide +kernel

/-! Memory words -/

/-- A scratchpad pointer, one into the scratchpad of a logical tile, one to a logical cluster's shared
memory and one to global memory. -/
def own (o : Nat) : Word := BitVec.ofNat 64 (2 ^ 53 + o)
def atTile (t o : Nat) : Word := BitVec.ofNat 64 (3 * 2 ^ 52 + t * 2 ^ 40 + o)
def atShm (c o : Nat) : Word := BitVec.ofNat 64 (2 ^ 52 + c * 2 ^ 40 + o)

/-- `small` in partition 0, which runs on cluster 0. -/
def inPart (f : Thread → Thread) : State :=
  { small f with parts := [(0, { Part.zero with run := .running, valid := true, cmap := [0] })] }

/-- A load of the own scratchpad, by the last aligned offset of it, and one of an uncorrectable word. -/
theorem wit_LoadsReadOwnScratchpad :
    ([(Instr.ld 0 15 14 (-1), (spadSize : Nat), 8), (.lb 7 0 14 (-1), spadSize, 1),
      (.lwux 0 15 14 13 2, spadSize - 4, 4)].all fun e =>
      let s := small (regs [(14, own e.2.1), (13, 0)])
      (loadTable (landed s) e.1).any fun r =>
        let o := spadSize - e.2.2
        clearB r.chk s && decide (0 ≤ r.off ∧ r.off < 2 ^ 52 ∧ r.off.toNat % r.size = 0)
        && okVal (threadTarget s s.cur r.ea r.size) (· == .here o)
        && !(spadRead (hereAt o r.size s) s.cur.tile o r.size).2
        && nextIs (exec e.1 s) (went r.stl (giveX r.stl 12 r.rd (r.value
            (readLE (tile s s.cur.tile).spad o r.size)) s)))
    && (let s := updTile (small (regs [(14, own 8)])) 0 fun tl => { tl with spadMarks := ⟨[], [1]⟩ };
      (loadTable s (.lw 0 15 14 1)).any fun r => clearB r.chk s && r.size == 4
        && okVal (threadTarget s s.cur r.ea 4) (· == .here 12)
        && (spadRead (hereAt 12 4 s) 0 12 4).2 && nextIs (exec (.lw 0 15 14 1) s)
          (parkThread (chargeSram s 0 3) s.cur 1)) = true := by decide +kernel

/-- Whether a store or load's hypotheses hold and the outcome is as named. -/
def memGoes (table : State → Instr → Option MemRow) (s : State) (i : Instr)
    (f : MemRow → Except Cause Target → Bool) : Bool :=
  (table (landed s) i).any fun r => clearB r.chk s
    && decide (0 ≤ r.off ∧ r.off < 2 ^ 52 ∧ r.off.toNat % r.size = 0)
    && f r (threadTarget (landed s) s.cur r.ea r.size)

theorem wit_AccessesElsewhereAreSent_loads :
    ([atTile 1 8, atShm 0 8].all fun p =>
      let s := inPart (regs [(14, p)])
      memGoes loadTable s (.lw 0 15 14 1) fun r t => okVal t fun
        | .far pl o => nextIs (exec (.lw 0 15 14 1) s) (slept 0 (.load 15 4 true r.ea)
            (send s s.cur pl (.port pl o (.load 4) (ltileOf s (me s).home) none)))
        | _ => false)
    && (let s := small (regs [(14, 0x100)]);
      memGoes loadTable s (.lw 0 15 14 1) fun r t => okVal t fun
        | .glob o => nextIs (exec (.lw 0 15 14 1) s)
            (slept 0 (.load 15 4 true r.ea) (globalLoad s o 4))
        | _ => false)
    && (let s := inPart (regs [(14, atTile 8 0)]);
      memGoes loadTable s (.lw 0 15 14 1) fun r t => errVal t fun c =>
        nextIs (exec (.lw 0 15 14 1) s) (trapThread s s.cur c r.ea))
    && (let s := small (regs [(14, 0)]);
      (loadTable s (.lw 0 15 14 (-1))).any fun r => clearB r.chk s && decide (r.off < 0)
        && nextIs (exec (.lw 0 15 14 (-1)) s) (trapThread s s.cur .addr 0xFFFFFFFFFFFFC))
    && (let s := small (regs [(14, 2)]);
      (loadTable s (.lw 0 15 14 0)).any fun r => clearB r.chk s && decide (r.off.toNat % 4 ≠ 0)
        && nextIs (exec (.lw 0 15 14 0) s) (trapThread s s.cur .misalign 2)) = true := by decide +kernel

theorem wit_AccessesElsewhereAreSent_stores :
    (let s := inPart (regs [(14, atTile 1 8), (15, 5)]);
      let full := updTile s 0 fun tl => { tl with posted := 64 };
      let far := fun (s : State) => memGoes storeTable s (.sd 0 15 14 0) fun _ t => okVal t fun
        | .far _ _ => true
        | _ => false;
      far s && decide ((tile s s.cur.tile).posted < 64)
      && ends (exec (.sd 0 15 14 0) s) (fun t => t.net.length == 1)
      && far full && nextIs (exec (.sd 0 15 14 0) full) (slept 0 .retry full))
    && (let s0 := small (regs [(14, 0x100), (15, 5)]);
      let known := updTile s0 0 fun tl => { tl with probed := [pageKey 0 0x100] };
      let full := updTile known 0 fun tl => { tl with
        wbuf := List.replicate 1024 (0, Unit64.empty), plog := List.replicate 2 (1, Unit64.empty) };
      let glob := fun (s : State) => memGoes storeTable s (.sd 0 15 14 0) fun r t =>
        okVal t (· == .glob (pOff r.ea));
      glob known && ((storeSpan known 0 0 0x100 8 5).any fun t => nextIs (exec (.sd 0 15 14 0) known)
        (went 0 (noteStores t t.cur (unitKeys 0 0x100 8))))
      && glob full && (storeSpan full 0 0 0x100 8 5).isNone
      && nextIs (exec (.sd 0 15 14 0) full) (trapThread full full.cur .phaseLogFull 0x100)
      && glob s0 && nextIs (exec (.sd 0 15 14 0) s0) (slept 0 (.probe 0x100 (natBytes 8 5) [])
          (send s0 s0.cur 0 (.probe 0x100 8 0 2))))
    && (let s := inPart (regs [(14, atTile 8 0)]);
      memGoes storeTable s (.sd 0 15 14 0) (fun _ t => errVal t fun c =>
        nextIs (exec (.sd 0 15 14 0) s) (trapThread s s.cur c (atTile 8 0))))
    && (let s := small (regs [(14, 0)]);
      nextIs (exec (.sd 0 15 14 (-1)) s) (trapThread s s.cur .addr 0xFFFFFFFFFFFF8))
    && (let s := small (regs [(14, 2)]);
      nextIs (exec (.sd 0 15 14 0) s) (trapThread s s.cur .misalign 2)) = true := by decide +kernel

theorem wit_StoresWriteOwnScratchpad :
    (let s := small (regs [(14, own 0), (15, 0x1122)]);
      memGoes storeTable s (.sh 0 15 14 511) fun r t => okVal t (· == .here 1022)
        && (tile s 0).spad.wf
        && nextIs (exec (.sh 0 15 14 511) s) (went 0 (ownStore s 4 1022 2 0x1122))
        && r.size == 2) = true := by decide +kernel

theorem wit_StoreFrame :
    ([own 0, atTile 1 0].all fun p =>
      let s := inPart (regs [(14, p), (15, 0x1122)])
      memGoes storeTable s (.sbx 0 15 14 0 3) fun _ t => okVal t fun _ =>
        ends (exec (.sbx 0 15 14 0 3) s) fun u => u.hbm == s.hbm)
    && ([1022, 0].all fun n =>
      let s0 := small (regs [(14, 0x100), (15, 5)])
      let s := updTile s0 0 fun tl => { tl with
        probed := [pageKey 0 0x100], view := (List.range n).map fun k => (k + 100, Unit64.empty) }
      memGoes storeTable s (.sbx 0 15 14 0 3) fun _ t => okVal t fun
        | .glob _ => decide ((tile s 0).wbuf.length + (tile s 0).view.length + 2 ≤ 1024)
          && ends (exec (.sbx 0 15 14 0 3) s) fun u => u.hbm == s.hbm && (tile u 0).plog == []
            && (tile u 0).wbuf.length == 1
        | _ => false) = true := by decide +kernel

theorem wit_AtomicsReplaceAndReturn :
    ([(Instr.amocas 0 13 14 15 0, own 0), (.amold 0 13 14 1, own (spadSize - 8)),
      (.amofadd 0 13 14 15 1, own 8), (.amominu 7 0 14 15 0, own 4)].all fun e =>
      [false, true].all fun bad =>
      let s := updTile (small (regs [(14, e.2), (15, 0x3FF0000000000000)])) 0 fun tl => { tl with
        spadMarks := if bad then ⟨[], [pOff e.2 / 8]⟩ else ⟨[], []⟩ }
      (amoTable (landed s) e.1).any fun r =>
        let o := pOff e.2
        let s0 := hereAt o r.size s
        let old := readLE (tile s0 0).spad o r.size
        let s1 := match amoWrites r.op r.size old r.b.toNat r.c.toNat with
          | some v => ownStore s0 5 o r.size v
          | none => s0
        clearB r.chk s && pOff r.ptr % r.size == 0
        && okVal (threadTarget s s.cur r.ptr r.size) (· == .here o)
        && (spadRead s0 0 o r.size).2 == bad
        && nextIs (exec e.1 s) (if bad then parkThread (chargeSram s0 0 3) s.cur 1
          else went r.stl (giveX r.stl 16 r.rd (if r.size = 4
            then BitVec.ofInt 64 (Int.bmod old (2 ^ 32)) else BitVec.ofNat 64 old) s1)))
    && ([atShm 0 8, 8, own 2].all fun p =>
      let s := inPart (regs [(14, p), (15, 1)])
      let i := Instr.amoxor 0 13 14 15 0
      (amoTable s i).any fun r => clearB r.chk s && if pOff p % 4 ≠ 0
        then nextIs (exec i s) (trapThread s s.cur .misalign p)
        else okVal (threadTarget s s.cur r.ptr r.size) fun
          | .far pl o => nextIs (exec i s) (slept 0 (.amo 13 4 p) (send s s.cur pl
              (.port pl o (.amo 3 4 1 0) (ltileOf s (me s).home) none)))
          | .glob o => nextIs (exec i s) (slept 0 (.amo 13 4 p) (send s s.cur 0
              (.gamo o (me s).asid 2 3 4 1 0 none 0)))
          | _ => false) = true := by decide +kernel

/-! Vector words -/

/-- `Operands` of window registers and bound streams, with the values and the state after the pops. -/
def opsB (s : State) (srcs : List (BitVec 5)) (dst : Option (BitVec 5))
    (f : List VWord → State → Bool) : Bool :=
  okVal (popAll s.cur srcs s) (fun r => !r.wait && r.bad.isNone && f r.vs r.s)
  && (dst.all fun g => !isStream g || match streamPush s s.cur (g.toNat - 24) 0 with
    | .ok _ _ => true
    | _ => false)

/-- Streams 0 and 1: a bound input stream with one entry there and a bound output stream. -/
def streams (th : Thread) : Thread :=
  let b := { parseStream 0 with asid := th.asid, priv := th.priv }
  { th with streams := [(0, { b with kind := 0, count := 4, fifo := [⟨0, 7, false⟩], next := 1 }),
                        (1, { b with kind := 1, count := 4 })] }

/-- A vector row's hypotheses hold. -/
def vecGoes (table : State → Instr → Option VecRow) (s : State) (i : Instr) : Bool :=
  (table (landed s) i).any fun r =>
    clearB { ok := r.ok, xs := r.xs, vs := r.rd :: r.srcs } s
    && opsB (landed s) r.srcs (some r.rd) fun vs s' => !traps (r.val vs (me s').lfsr).2.1 (me s')

theorem wit_VectorLaneResults_valu : vecGoes valuTable (small streams) (.vadd 0 25 24 23 0)
    && vecGoes valuTable (small id) (.vmulhi 7 0 23 22 3) = true := by decide +kernel

theorem wit_VectorLaneResults_vfn : vecGoes vfnTable (small id) (.vbscl 0 2 0 1 4) = true := by
  decide +kernel

theorem wit_VectorReductionAndMoveResults_vred : vecGoes vredTable (small streams) (.vrsum 0 25 24 0)
    && vecGoes vredTable (small (regs [(15, 63)])) (.vins 0 23 15 15 4) = true := by decide +kernel

theorem wit_VectorReductionAndMoveResults_vext :
    (let s := small (regs [(2, 127)]);
      clearB { xs := [15, 2], vs := [23] } s && opsB s [23] none fun vs s' =>
        let lane := (lanes 32 (vs.getD 0 0)).getD ((rx s' 2).toNat % 128) 0
        nextIs (exec (.vext 0 15 23 2 1) s) (went 0 (lookAgain [23]
          (giveX 0 8 15 (BitVec.ofInt 64 (sgn 32 lane)) s')))) = true := by decide +kernel

theorem wit_VectorReductionAndMoveResults_vunpack :
    ([0, 0x700].all fun b =>
      let s := updTile (small id) 0 fun tl => { tl with vfile := smSet tl.vfile 23 (BitVec.ofNat 4096 b) }
      clearB { vs := [22, 23] } s && opsB s [23] (some 22) fun vs _ =>
        let u := vunpackFrom (lanes 8 (vs.getD 0 0)) 4 0 0
        if b = 0 then okVal u fun u => u.2.2 == 88
        else errVal u fun n => n == 0 && ends (exec (.vunpack 0 22 23) s) fun t =>
          (me t).tcause == 9 && (me t).tval == 0) = true := by
  decide +kernel

/-- vld and vst of 512 bytes with an offset field of −1, at pointer `p`. -/
def vldWant (s : State) (p : Word) (f : Nat → Word → Bool) : Bool :=
  let o := vecOffset s 14 0 (-1)
  clearB { ok := partOk 0, xs := [14], vs := [23], res := [(14, 0)], kind := 0 } s
  && opsB s [] (some 23) (fun vs _ => vs == []) && rx s 14 == p
  && decide (0 ≤ o ∧ o + 512 ≤ 2 ^ 52 ∧ o % 64 = 0) && f o.toNat (pWith p o.toNat)

theorem wit_VectorLoadsAndStores :
    (let p := own (spadSize - 448); let s := inPart (regs [(14, p)]);
      vldWant s p fun o ea => okVal (threadTarget s s.cur ea 512) (· == .here o)
        && !(spadRead s 0 o 512).2
        && nextIs (exec (.vld 0 23 14 0 (-1)) s) (went 0 (lookAgain [23] (putVec 0 16 23
          (BitVec.ofNat 4096 (readLE (tile s 0).spad o 512)) s)))
        && opsB s [23] none fun vs s' => nextIs (exec (.vst 0 23 14 0 (-1)) s) (went 0
          (lookAgain [23] (ownStore s' 4 o 512 ((vs.getD 0 0).toNat % 2 ^ 4096)))))
    && ([atTile 7 64, 64].all fun p =>
      let s := inPart (regs [(14, p)])
      vldWant s p fun _ ea => okVal (threadTarget s s.cur ea 512) fun
        | .far pl a => nextIs (exec (.vld 0 23 14 0 (-1)) s) (slept 0 (.vload 23 512 ea)
            (lookAgain [23] (send s s.cur pl
              (.port pl a (.load 512) (ltileOf s (me s).home) none))))
        | .glob a => nextIs (exec (.vld 0 23 14 0 (-1)) s) (slept 0 (.vload 23 512 ea)
            (lookAgain [23] (globalLoad s a 512)))
        | _ => false)
    && ([(0#64, Cause.addr, 0xFFFFFFFFFFFC0#64), (80, .misalign, 16),
        (0xFFFFFFFFFFEC0, .addr, 0xFFFFFFFFFFE80)].all fun e =>
      let s := small (regs [(14, e.1)])
      clearB { ok := partOk 0, xs := [14], vs := [23], res := [(14, 0)], kind := 0 } s
      && nextIs (exec (.vld 0 23 14 0 (-1)) s) (trapThread s s.cur e.2.1 e.2.2)) = true := by
  decide +kernel

theorem wit_VectorLoadsAndStores_vst :
    ([(atTile 7 64, 0), (atTile 7 64, 64), (64, 0), (64, 1)].all fun e : Word × Nat =>
      let s := updTile (inPart (regs [(14, e.1)])) 0 fun tl =>
        { tl with posted := e.2, probed := if e.2 = 1 then [pageKey (me (inPart id)).asid 0] else [] }
      let ea := pWith e.1 (pOff e.1 - 64)
      clearB { ok := partOk 0, xs := [14], vs := [23], res := [(14, 0)], kind := 0 } s
      && opsB s [23] none fun vs s' =>
        let v := (vs.getD 0 0).toNat % 2 ^ 4096
        okVal (threadTarget s' s.cur ea 512) fun
        | .far pl a => nextIs (exec (.vst 0 23 14 0 (-1)) s) (if e.2 = 64 then
              slept 0 .retry (backOut [23] s s')
            else went 0 (lookAgain [23] (onMe (updTile (send s' s.cur pl
              (.port pl a (.store (natBytes 512 v)) (ltileOf s' (me s').home) (some (s.cur.tile, ea))))
              s.cur.tile fun tl => { tl with posted := tl.posted + 1 })
              fun th => { th with postedW := th.postedW + 1 })))
        | .glob a => if e.2 = 1 then (storeSpan s' 0 (me s').asid a 512 v).any fun t =>
            nextIs (exec (.vst 0 23 14 0 (-1)) s) (went 0 (lookAgain [23]
              (noteStores t t.cur (unitKeys (me s').asid a 512))))
          else nextIs (exec (.vst 0 23 14 0 (-1)) s) (slept 0 (.probe ea (natBytes 512 v) [])
            (backOut [23] s (send s' s.cur 0 (.probe a 512 (me s').asid (me s').priv))))
        | _ => false)
    && ([(0#64, Cause.addr, 0xFFFFFFFFFFFC0#64), (80, .misalign, 16),
        (0xFFFFFFFFFFEC0, .addr, 0xFFFFFFFFFFE80), (atTile 8 64, .addr, atTile 8 0)].all fun e =>
      let s := inPart (regs [(14, e.1)])
      clearB { ok := partOk 0, xs := [14], vs := [23], res := [(14, 0)], kind := 0 } s
      && opsB s [23] none (fun _ s' => nextIs (exec (.vst 0 23 14 0 (-1)) s)
        (trapThread (backOut [23] s s') s.cur e.2.1 e.2.2))
      && opsB s [] (some 23) fun _ _ => nextIs (exec (.vld 0 23 14 0 (-1)) s)
        (trapThread (backOut [23] s s) s.cur e.2.1 e.2.2))
    && ([(64#64, Cause.addr), (own 4, .misalign), (own spadSize, .addr)].all fun e =>
      let s := inPart (regs [(14, e.1)])
      clearB { xs := [14], vs := [22, 23], res := [(14, 0)], kind := 0 } s
      && opsB s [23] (some 22) (fun _ s' => nextIs (exec (.vldxD 0 22 14 23) s)
        (trapThread (backOut [23, 22] s s') s.cur e.2 e.1))
      && opsB s [23, 22] none fun _ s' => nextIs (exec (.vstxD 0 22 14 23) s)
        (trapThread (backOut [23, 22] s s') s.cur e.2 e.1)) = true := by decide +kernel

theorem wit_VectorLoadsAndStores_gather :
    ([0, 1].all fun home =>
      let s := inPart fun th => { regs [(14, own (spadSize - 8))] th with home := home }
      let far := fun (t : State) => home == 1 && t.net.length == 1
      clearB { xs := [14], vs := [22, 23], res := [(14, 0)], kind := 0 } s
      && opsB s [23] (some 22) (fun vs _ => (lanes 64 (vs.getD 0 0)).all (· == 0))
      && ends (exec (.vldxD 0 22 14 23) s) (fun t => match (me t).wait? with
        | some (.gather (some 22) op _) => home == 0 && op.els.length == 64
        | w => w == some (.vector 22) && far t)
      && opsB s [23, 22] none (fun vs _ => vs.length == 2)
      && ends (exec (.vstxD 0 22 14 23) s) (fun t => match (me t).wait? with
        | some (.gather none op _) => home == 0 && op.write
        | w => w == some .done && far t))
    && (let op : GatherOp :=
          { sz := 4, write := false, els := [(0, 0), (1, 64), (2, 4)], v := 0, got := [], bad := false };
      (gatherMove 0 0 (fun s _ _ => s) op State.reset).2.els == [(1, 64)]
      && ([(some 5, false), (none, false), (some 5, true)].all fun e : Option Nat × Bool =>
        let s := updThr (inPart id) ⟨0, 0⟩ fun th =>
          { th with st := .waiting (.gather e.1 { op with els := [], bad := e.2 } 0) 0 }
        match (thr (gatherEnd s ⟨0, 0⟩) ⟨0, 0⟩).st with
        | .parked => e.2
        | st => !e.2 && st == .ready)) = true := by decide +kernel

/-- A group word of pmx. -/
def group (key n idx base : Nat) : Word :=
  BitVec.ofNat 64 (key * 2 ^ 24 + n * 2 ^ 18 + idx * 2 ^ 12 + base)

theorem wit_PairMergeWords :
    ([(255, 8, 0, 0), (0, 2, 0, 0)].all fun e =>
      let s := inPart (regs [(1, group e.1 e.2.1 e.2.2.1 e.2.2.2)])
      clearB { ok := (frmMode (me s)).isSome, xs := [1], vs := [2, 3] } s
      && opsB s [3] (some 2) fun vs s' => (reachAll s' (myStanding s') (List.range' 0 e.2.1)).isNone
        && pmxWaits s' 0 == [] && okVal (reachTile s' (myStanding s') 1) fun t =>
          nextIs (exec (.pmx 0 2 3 1 1) s) (slept 0
            (.pmx e.1 0 e.2.1 0 2 false none) (lookAgain [3, 2] (send s' s.cur t
              (.pmx t e.1 0 e.2.1 1 false false (vs.getD 0 0) false)))))
    && (let s0 := inPart id;
      let s := setThr { s0 with cur := ⟨1, 0⟩ } ⟨1, 0⟩ (regs [(1, group 3 2 1 0)] { me s0 with home := 1 });
      clearB { ok := (frmMode (me s)).isSome, xs := [1], vs := [2, 3] } s
      && opsB s [3] (some 2) fun vs s' => ltileOf s' 1 == 1
        && (reachAll s' (myStanding s') [0, 1]).isNone
        && nextIs (exec (.pmx 0 2 3 1 0) s) (slept 0 (.pmx 3 0 2 1 2 true (some (vs.getD 0 0)))
            (lookAgain [3, 2] s')))
    && ([(0, 1, 0, 0), (0, 33, 0, 0), (0, 2, 1, 0), (0, 9, 0, 0)].all fun e =>
      let s := inPart (regs [(1, group e.1 e.2.1 e.2.2.1 e.2.2.2)])
      opsB s [3] (some 2) fun _ s' =>
        (reachAll s' (myStanding s') (List.range' 0 9)).isSome
        && ends (exec (.pmx 0 2 3 1 1) s) fun t => (me t).tval == group e.1 e.2.1 e.2.2.1 e.2.2.2
          && (me t).tcause == if e.2.1 = 9 then 4 else 1)
    && ([4, 1].all fun n =>
      let s0 := inPart (regs [(1, group 0 2 0 0)])
      let s := (List.range n).foldl (fun s k => setThr s ⟨0, k + 1⟩ { me s0 with
        st := .waiting (.pmx (k + 4 - n) 0 2 0 2 false none) 0 }) s0
      (pmxWaits s 0).length == n
      && ends (exec (.pmx 0 2 3 1 1) s) fun t => (me t).wait? == some (if n = 4 then .retry
        else .pmx 0 0 2 0 2 false none)) = true := by decide +kernel

theorem wit_PairMergeWords_send :
    (let s := inPart (regs [(1, 0xFF000007)]);
      clearB { xs := [1], vs := [3] } s && opsB s [3] none fun vs s' =>
        okVal (reachTile s' (myStanding s') 7) fun t => nextIs (exec (.pmsend 0 3 1) s)
          (slept 0 .pmsend (lookAgain [3]
            (send s' s.cur t (.pmsend t (ltileOf s' 0) 255 (vs.getD 0 0))))))
    && (let s := inPart (regs [(1, 0xFF000007)]);
      let full := fun (bad : Bool) => updTile s 0 fun tl => { tl with pmEntries := [⟨7, 255, 9, bad⟩] };
      clearB { xs := [1], vs := [3] } s && opsB s [] (some 3) (fun vs _ => vs == [])
      && okVal (reachTile s (myStanding s) 7) (fun _ => true)
      && (pmFind (tile s 0) 7 255).isNone
      && nextIs (exec (.pmrecv 0 3 1) s) (slept 0 (.pmrecv 7 255 3) (lookAgain [3] s))
      && clearB { xs := [1], vs := [3] } (full false) && (pmFind (tile (full true) 0) 7 255).isSome
      && ends (exec (.pmrecv 0 3 1) (full false)) (fun t => (tile t 0).pmEntries == []
        && (me t).wait? == some (.vector 3))
      && ends (exec (.pmrecv 0 3 1) (full true)) fun t => (tile t 0).pmEntries == []
        && (thr t ⟨0, 0⟩).st == .parked)
    && ([(0x1000#64, Cause.illegal), (0x100000000, .illegal), (8, .addr)].all fun e =>
      let s := inPart (regs [(1, e.1)])
      clearB { xs := [1], vs := [3] } s
      && nextIs (exec (.pmrecv 0 3 1) s) (trapThread s s.cur e.2 e.1)
      && nextIs (exec (.pmsend 0 3 1) s) (trapThread s s.cur e.2 e.1)) = true := by
  decide +kernel

/-! Control, thread, cue and message words -/

/-- The state of a fetch that gives this word. -/
def fetched (f : Fetched) (g : State → IWord → Bool) : Bool :=
  match f with
  | .word s w => g s w
  | _ => false

theorem wit_StepRunsDecodedInstruction :
    (placed.inputs == [] && placed.upsets == [] && nextAct placed == .free
    && decide (placed.turn < issued) && nextTile placed == some 0
    && ends (exec (.prompterIssue 0) { placed with turn := 1 }) fun s1 =>
      !shadowTurn s1 && (me s1).repBody.isNone && fetched (fetchWord s1 s1.cur (me s1).pc) fun s2 w =>
        okVal (decode w) (· == .add 0 10 10 11)
        && ends (exec (.add 0 10 10 11) { s2 with ir := w }) (fun u => (me u).repBody.isNone)) = true := by
  decide +kernel

/-- A leader of tile 0 whose queue holds one word, due, and its understudy at the same place. -/
def shadowed : State :=
  let th := { placedThread with leader := true, partner := 1,
                                lvq := [⟨0, w64 placedPc, 0x04294B00, .held⟩] }
  setThr (setThr placed ⟨0, 0⟩ th) ⟨0, 1⟩ { placedThread with shadow := true, partner := 0 }

theorem wit_StepRunsDecodedInstruction_shadow :
    (shadowed.inputs == [] && nextAct shadowed == .free && nextTile shadowed == some 0
    && ends (exec (.prompterIssue 0) { shadowed with turn := 1 }) fun s1 =>
      shadowTurn s1 && (thr s1 (shadowOf s1)).pc == w64 placedPc
      && (thr s1 (shadowOf s1)).repBody == (me s1).repBody
      && okVal (decode 0x04294B00) (· == .add 0 10 10 11)
      && ends (exec (.add 0 10 10 11) { s1 with ir := 0x04294B00 }) fun u =>
        (thr u ⟨0, 1⟩).pc == w64 (placedPc + 4)) = true := by decide +kernel

theorem wit_DecodeChecksInOrder :
    (let p : Pending := { reg := 5, val := 0, res := 0, due := 40, fp := false };
      let s := small fun th => { th with priv := 0, chkstl := true, pend := [p] };
      let body := fun (s : State) => Ret.go s;
      let trap := fun (c : Chk) (k : Cause) => nextIs (run 0 c body s) (trapThread s s.cur k 0);
      !(me (landed s)).leader && (me (landed s)).repBody.isNone
      && errVal (decode 0) (fun _ => nextIs (runWord 0 s) (trapThread s s.cur .illegal 0))
      && trap { ok := false, priv := 1, xs := [16] } .illegal
      && trap { priv := 1, xs := [16], vs := [23] } .priv
      && trap { xs := [16], vs := [23] } .reg
      && trap { xs := [15, 5], vs := [23] } .reg == false
      && (let s1 := setThr s ⟨0, 0⟩ { me s with vwSize := 23 };
        nextIs (run 0 { xs := [15, 5], vs := [23] } body s1) (trapThread s1 s1.cur .vwin 0))
      && notReady s { xs := [5] } && trap { xs := [15, 5], vs := [23] } .stallShort) = true := by
  decide +kernel

/-- A user thread of troupe 0 whose supervisor's vector is enabled at 0x8000. -/
def handled (f : Thread → Thread) : State :=
  let s := small fun th => f { th with priv := 0 }
  setTile s 0 { tile s 0 with troupes := [(0, { Troupe.zero with tvec := 0x8001 })] }

theorem wit_TrapEntry :
    (let s := handled id; let i : Tid := ⟨0, 0⟩; let u := thr (trapThread s i .swtrap 5) i;
      (trapVector s i false).en && !(thr s i).inh && u.st == .trapped (some 0) && u.pc == 0x8000
      && u.priv == 1 && u.tval == 5)
    && ([(true, true), (true, false), (false, true), (false, false)].all fun e : Bool × Bool =>
      let s := small fun th => { th with priv := 0, shadow := e.1, inh := e.2 }
      let u := thr (trapThread s s.cur .brk 5) s.cur
      !(trapVector s s.cur false).en && u.st == .trapped none
      && u.tval == if e.2 then 0 else 5) = true := by decide +kernel

/-- A thread of troupe 0 in slot 0 to which the troupe's events go, or nobody. -/
def eventful (tvec : Nat) : State :=
  updTile (small fun th => { th with priv := 1 }) 0 fun tl => { tl with
    troupes := [(0, { Troupe.zero with tvec := BitVec.ofNat 64 tvec })] }

theorem wit_TrapEntry_event :
    (let s := eventful (2 ^ 63);
      bitOf (smGet Troupe.zero (tile s 0).troupes 0).tvec.toNat 63 && mailLive s ⟨0, 0⟩
      && (thr s ⟨0, 0⟩).troupe == 0 && (tile s 0).heldEvents == [] && (tile s 0).loss == []
      && (thr (raiseSup s 0 0 1 5) ⟨0, 0⟩).mailbox == [0x0100000000000005])
    && ([2 ^ 63 + 2 ^ 52, 0].all fun v => let s := eventful v; raiseSup s 0 0 1 5 == s) = true := by
  decide +kernel

theorem wit_TrapWordsTakeTheirTrap :
    (let s := handled id;
      clearB {} s && (trapVector (landAll s s.cur) s.cur false).en && !(me s).inh
      && ends (exec (.trap 0 511) s) (fun t => (thr t s.cur).tval == 511)
      && nextIs (exec (.tret 0) s) (trapThread s s.cur .illegal 0))
    && (let s := handled fun th => { th with inh := true, ppriv := 3, tpc := 0x40 };
      clearB {} s && (me s).inh
      && ends (exec (.tret 0) s) fun t => (me t).pc == 0x40 && (me t).priv == 0)
    && reads [(0xBC000805, .trap 0 5), (0xBC000A00, .tret 0), (0xBC000C00, .brk 0)]
    && ([(4, 0, 1), (5, 0, 0), (6, 1, 0)].all fun e : Nat × Nat × Nat => e.1 == 4 || (errVal (decode
      (0x2F#6 ++ 0#3 ++ BitVec.ofNat 5 e.2.1 ++ BitVec.ofNat 5 e.2.2 ++ BitVec.ofNat 4 e.1 ++ 1#9))
        fun _ => true)) = true := by decide +kernel

/-- A launch whose level 0 acts at the scope of one tile, with one unit. -/
def launched (f : Thread → Thread) : State :=
  { small (fun th => f { th with launch := 7, units := [0] }) with
    launches := [{ id := 7, part := 0, aspace := 0, mscopes := [0], src := .other, cpl := 0,
                   threads := [⟨0, 0⟩], released := true, reserve := [] }] }

theorem wit_FencesWaitForTheirPaths :
    (let s := launched id; let th := me s;
      let s1 := onMe s fun th => { th with clamped := false };
      clearB { ok := scopeOk 0 } s && phaseLevel s th 0 == some 0
      && (fencePerform s1 s.cur 63 63 0).any (fun t => nextIs (exec (.fence 0 63 63 0) s) (went 0 t)
        && (tile t 0).lag == [])
      && ends (exec (.phase 0 63 63 0) s) (fun t => (me t).wait? == some (.phase 0 63 63))
      && (phaseLevel s th 1).isNone && ends (exec (.phase 0 63 63 1) s) (fun t => (me t).tcause == 1)
      && ends (exec (.ifence 0 5) s) (fun t => (me t).wait? == some (.ifence 5)))
    && (let s := launched fun th => { th with postedW := 1, priv := 0 };
      clearB { ok := scopeOk 5 } s && pathS 0x10
      && ends (exec (.fence 0 0x10 0 5) s) (fun t => (me t).clamped
        && (me t).wait? == some (.fence true false false false))
      && ends (exec (.phase 0 0x10 0 0) s) (fun t =>
        (me t).wait? == some (.fence true false false false)))
    && ([(0x10, 1), (0x08, 0), (0x01, 2)].all fun e : BitVec 6 × Nat =>
      let s := launched fun th => { th with gstores := [(5, true)] }
      let s := [0, 1].foldl (fun s t => updTile s t fun tl =>
        { tl with view := [(5, Unit64.empty), (6, Unit64.empty)] }) s
      inScope s 0 1 1 && pathL 0x20 && pathS e.1 == (e.2 == 1) && pathA e.1 == (e.2 == 0)
      && (fencePerform s s.cur e.1 0x20 1).any fun t =>
        nextIs (exec (.fence 0 e.1 0x20 1) s) (went 0 t) && (tile t 0).view == []
        && (tile t 1).view.map (·.1) == if e.2 = 0 then [] else if e.2 = 1 then [6] else [5, 6])
    && (let s := launched fun th => { th with gstores := [(1, false)] };
      (fencePerform s s.cur 0x10 1 5).isNone
      && ends (exec (.fence 0 0x10 1 5) s) (fun t =>
        (me t).wait? == some (.fence true false false true)))
    && (let s := launched fun th => { th with failW := some (3, 9) };
      clearB { ok := scopeOk 0 } s && fenceFail (me s) 0x10 == some 9
      && ends (exec (.fence 0 0x10 0 0) s) fun t => (me t).tval == 9 && (me t).failW.isNone)
    = true := by decide +kernel

/-- `placed` at the moment of its issue, with `w` as the word behind the one at its pc. -/
def nextWord (w : IWord) : State :=
  { placed with hbm := physPut64 placed.hbm placedPc (w.toNat * 2 ^ 32) }

theorem wit_RepTakesUpItsBody :
    (let s := nextWord 0x04294B00;
      clearB {} s && clearB { xs := [15] } s
      && (fetched (fetchWord s s.cur ((me s).pc + 4)) fun s1 w => w == 0x04294B00
        && repBodyOk w (4#3 ++ 0#2) && !repAct (me s)
        && nextIs (exec (.rep 0 4 0) s) (setThr s1 s.cur
          { me s1 with repBody := some (w, 4#3 ++ 0#2), repidx := repWord 64 true 0 })
        && nextIs (exec (.repReg 15 4 0) s) (setThr s1 s.cur
          { me s1 with repBody := some (w, 4#3 ++ 0#2), repidx := repWord 1 true 0 })))
    && (let s := nextWord 0xBC000A00;
      fetched (fetchWord s s.cur ((me s).pc + 4)) fun s1 w => !repBodyOk w (4#3 ++ 0#2)
        && nextIs (exec (.rep 1 4 0) s) (trapThread s1 s.cur .illegal (s.ir.setWidth 64))) = true := by
  decide +kernel

/-- A stream descriptor at 32 of the own scratchpad: its word 3, over base `own 64`. -/
def described (w3 : Nat) : State :=
  spadWrite (small (regs [(14, own 32)])) 0 32 32 ((own 64).toNat + 2 ^ 64 * 4 + 2 ^ 192 * w3)

/-- Tile 0 with a pipe of key 0 of troupe 0 with these ends and entries; the thread's stream 2 is the end
`dir` of it where `bound`. -/
def piped (n : Nat) (writer reader ended : Bool) (bound : Bool) (dir : Nat) (s : State) : State :=
  let q : Pipe := { troupe := 0, key := 0, fifo := List.replicate n ⟨0, 5, false⟩,
                    writer := if writer then some ⟨0, 0⟩ else none,
                    reader := if reader then some ⟨0, 0⟩ else none, ended := ended, rgone := false }
  let s := updTile s 0 fun tl => { tl with pipes := [q] }
  if bound then setStream s ⟨0, 0⟩ 2 { parseStream 0 with kind := 3, dir := dir } else s

/-- Tile 0 with a tag table of 4 sets of 2 ways of 64-byte lines, on or off; slot 2 holds line 1. -/
def tagged (en : Bool) (p k : Word) : State :=
  let s := small (regs [(14, p), (15, k)])
  updTile s 0 fun tl => { tl with
    tagcfg := w64 (6 * 2 ^ 12 + 2 * 2 ^ 8 + 2 ^ 6 + (if en then 1 else 0)),
    tags := smSet [] 2 ⟨true, false, 0, 1⟩ }

theorem wit_StreamWords_bind : [0, 3].all (fun w3 =>
    let s := described w3
    let d := readLE (tile s 0).spad 32 32
    let b := { parseStream d with asid := (me s).asid, priv := (me s).priv }
    clearB { ok := streamOk 7, xs := [14] } s && !(spadRead s 0 32 32).2
    && (smFind (me s).streams 7).isNone && !streamReserved b d && !streamMisplaced b
    && decide (fifosUsed (tile s 0) < 32) && b.kind == w3
    && (w3 != 3 || (findPipe (tile s 0) (me s).troupe b.key).isNone)
    && ends (exec (.sbind 0 7 14) s) fun t => smFind (me t).streams 7 == some b) = true := by
  decide +kernel

theorem wit_StreamWords :
    (let s := small fun th => regs [(15, 2)] (streams th);
      clearB { ok := streamOk 0 } s && clearB { ok := streamOk 7 } s
      && clearB { ok := streamOk 0, xs := [15] } s
      && (smFind (me s).streams 7).isNone
      && ends (exec (.sunbind 0 7) s) (fun t => (me t).pc == 0x1004)
      && ends (exec (.sdrain 0 7) s) (fun t => (me t).tcause == 0x12)
      && ((smFind (me s).streams 0).any fun b => b.isInput && b.kind != 3
        && streamDrained s s.cur b && ends (exec (.sdrain 0 0) s) fun t =>
          (smFind (me t).streams 0).any (·.fifo == []))
      && ((smFind (me s).streams 1).any fun b => !b.isInput && b.st != 3
        && ends (exec (.sdrain 0 1) s) fun t => (me t).pc == 0x1004)
      && ends (exec (.sstat 0 15 0) s) (fun t => (me t).pc == 0x1004)
      && ends (exec (.sskip 0 0 15) s) fun t => (smFind (me t).streams 0).any (·.pos == 2))
    && (let s := small fun th => { streams th with streams :=
          [(1, { parseStream 0 with kind := 1, fifo := [⟨0, 3, false⟩] })] };
      (smFind (me s).streams 1).any fun b => !streamDrained s s.cur b
        && ends (exec (.sunbind 0 1) s) (fun t => (me t).wait? == some .retry)
        && ends (exec (.sdrain 0 1) s) fun t => (me t).wait? == some .retry) = true := by
  decide +kernel

theorem wit_StreamWords_fails :
    ([(5, true, 1), (2 ^ 16, true, 1), (4, true, 1), (0, false, 4)].all fun e : Nat × Bool × Nat =>
      let s := described e.1
      let s := if e.2.1 then s else spadWrite s 0 32 8 (2 ^ 53 + 65)
      let d := readLE (tile s 0).spad 32 32
      let b := { parseStream d with asid := (me s).asid, priv := (me s).priv }
      streamReserved b d == e.2.1 && (e.2.1 || streamMisplaced b)
      && nextIs (exec (.sbind 0 7 14) s)
        (trapThread s s.cur .stream (BitVec.ofNat 64 (b.kind * 2 ^ 28 + e.2.2))))
    && (let s := setStream (described 1) ⟨0, 0⟩ 7 (parseStream 0);
      nextIs (exec (.sbind 0 7 14) s) (trapThread s s.cur .stream (BitVec.ofNat 64 (2 ^ 28 + 1))))
    && ([0, 33, 0xBFFF0].all fun o =>
      let p := if o = 0 then w64 (2 ^ 54) else own o
      let s := small (regs [(14, p)])
      clearB { ok := streamOk 7, xs := [14] } s
      && (pSpace p != 2 || pOff p % 32 != 0 || decide (spadSize < pOff p + 32))
      && nextIs (exec (.sbind 0 7 14) s) (trapThread s s.cur .stream 4))
    && ([true, false].all fun full =>
      let s := updTile (described 1) 0 fun tl => { tl with
        pipes := (List.range (if full then 32 else 31)).map fun k => ⟨1, k, [], none, none, false, false⟩ }
      let b := { parseStream (readLE (tile s 0).spad 32 32) with asid := (me s).asid, priv := (me s).priv }
      decide (32 ≤ fifosUsed (tile s 0)) == full
      && if full then nextIs (exec (.sbind 0 7 14) s) (slept 0 (.bind 7 b) s)
        else nextIs (exec (.sbind 0 7 14) s) (doneAt false 0 (setStream s s.cur 7 b))) = true := by
  decide +kernel

theorem wit_StreamWords_pipes :
    ([(false, true), (true, true), (false, false)].all fun e : Bool × Bool =>
      let s := piped 0 e.1 false false false 0 (described (3 + 2 ^ 7))
      let s := if e.2 then s else updTile s 0 fun tl =>
        { tl with pipes := tl.pipes.map fun q => { q with ended := true } }
      let d := readLE (tile s 0).spad 32 32
      let b := { parseStream d with asid := (me s).asid, priv := (me s).priv }
      b.kind == 3 && b.dir == 1 && !streamReserved b d && !streamMisplaced b
      && (findPipe (tile s 0) (me s).troupe b.key).any (fun q => (q.writer.isSome || q.ended) == (e.1 || !e.2))
      && ends (exec (.sbind 0 7 14) s) fun t => if e.1 || !e.2 then (me t).tcause == 0x12
        else (tile t 0).pipes.all fun q => q.writer == some ⟨0, 0⟩)
    && ([(0, 2, false), (0, 2, true), (1, 2, false), (1, 0, false)].all fun e : Nat × Nat × Bool =>
      let s := piped e.2.1 true true e.2.2 true e.1 (small (regs [(15, 3)]))
      let b := { parseStream 0 with kind := 3, dir := e.1 }
      clearB { ok := streamOk 2, xs := [15] } s && smFind (me s).streams 2 == some b
      && (pipeOf s s.cur b).any (fun q => q.fifo.length == e.2.1 && q.ended == e.2.2)
      && (if e.1 = 0 then nextIs (exec (.sdrain 0 2) s) (went 0 s)
        else if e.2.1 = 0 then nextIs (exec (.sdrain 0 2) s) (went 0 s)
        else nextIs (exec (.sdrain 0 2) s) (slept 0 .retry s))
      && ends (exec (.sskip 0 2 15) s) fun t => if e.1 = 1 then (me t).tcause == 0x12
        else (smFind (me t).streams 2).any (fun x => x.pos == 2 && x.next == if e.2.2 then 0 else 2)
          && (tile t 0).pipes.all (·.fifo == [])
          && ((me t).wait? == some .retry) == !e.2.2)
    && (let s := piped 5 true true false true 0 (small (regs [(15, 3)]));
      ends (exec (.sskip 0 2 15) s) fun t => (tile t 0).pipes.all (·.fifo.length == 2)
        && (me t).wait? == none)
    && (let s := small fun th => regs [(15, 3)] { th with streams := [(1, { parseStream 0 with kind := 1, st := 3 })] };
      nextIs (exec (.sdrain 0 1) s) (trapThread s s.cur .stream (sstatWord s s.cur 1))
      && nextIs (exec (.sskip 0 7 15) s) (trapThread s s.cur .stream (sstatWord s s.cur 7))) = true := by
  decide +kernel

theorem wit_TagTableWords :
    ([(0x40, 2), (0x40, 0), (0x40, 1024 + 7), (0x80, 4), (2 ^ 53 + 0x40, 2), (63 * 2 ^ 58, 0)].all
      fun e : Nat × Nat =>
      let s := tagged true (w64 e.1) (w64 e.2)
      let c := tagCfg (homeTile s).tagcfg
      let p := rx s 14
      let k := e.2 % 1024
      let bad := fun (i : Instr) (c : Cause) (v : Word) => nextIs (exec i s) (trapThread s s.cur c v)
      landed s == s && clearB { xs := [10, 14], res := [(14, 0)] } s
      && clearB { xs := [14, 15], res := [(14, 0)] } s && c.en && c.slog + c.wlog == 3
      && if pSpace p ≠ 0 then [Instr.tlook 0 10 14, .tdirty 0 10 14, .tset 0 14 15, .tinv 0 14].all
          fun i => bad i .addr p
        else if pFmt p = 63 then [Instr.tlook 0 10 14, .tdirty 0 10 14].all fun i => bad i .format p
        else
          (if e.1 = 0x40 then tagFind (homeTile s) c 0 p == some 2
              && ends (exec (.tlook 0 10 14) s) (fun t => (getXR (thr (landAll t ⟨0, 0⟩) ⟨0, 0⟩) 10).v
                == tagHit c p 2)
              && ends (exec (.tdirty 0 10 14) s) (fun t => (tagAt (homeTile t) 2).dirty)
              && ends (exec (.tinv 0 14) s) (fun t => !(tagAt (homeTile t) 2).valid)
            else (tagFind (homeTile s) c 0 p).isNone
              && ends (exec (.tlook 0 10 14) s) (fun t => (me t).pc == 0x1004)
              && nextIs (exec (.tinv 0 14) s) (went 0 s))
          && (if k / 2 = tagSet c p then ends (exec (.tset 0 14 15) s)
                fun t => (tagAt (homeTile t) k).valid && (tagAt (homeTile t) k).line == e.1 / 64
              else bad (.tset 0 14 15) .addr (rx s 15))) = true := by decide +kernel

theorem wit_TagTableWords_victim :
    ([2, 7, 8, 1023].all fun k : Nat =>
      let s := tagged true (w64 (2 ^ 20 + k)) 0
      clearB { xs := [10, 14], res := [(14, 0)] } s
      && if k < 8 then ends (exec (.tvict 0 10 14) s) fun t => !(tagAt (homeTile t) k).valid
        else nextIs (exec (.tvict 0 10 14) s) (trapThread s s.cur .addr (rx s 14)))
    && (let s := tagged false 0x40 2
      [Instr.tlook 0 10 14, .tdirty 0 10 14, .tvict 0 10 14, .tset 0 14 15, .tinv 0 14].all fun i =>
        nextIs (exec i s) (trapThread s s.cur .illegal (trapWord s))) = true := by decide +kernel

/-- `inPart` with a second thread of the tile, in slot 1. -/
def two (f g : Thread → Thread) : State :=
  let s := inPart f
  setThr s ⟨0, 1⟩ (g { me s with x := [] })

theorem wit_ThreadWords_spawn :
    ([own 64, atTile 1 64, 64].all fun p =>
      let s := inPart (regs [(14, p)])
      clearB { xs := [15, 14, 13] } s && pOff p % 64 == 0
      && okVal (threadTarget s s.cur p 64) (fun t => (match t with
        | .here o => !(spadRead s 0 o 64).2
        | _ => true))
      && ends (exec (.spawn 0 15 14 13) s) fun t => (me t).wait? == some (.spawn 15 p (some 0)))
    = true := by decide +kernel

theorem wit_ThreadWords_badPointer :
    ([(own 32, Cause.misalign), (own spadSize, .addr)].all fun e =>
      let s := inPart (regs [(14, e.1)])
      clearB { xs := [15, 14, 13] } s && (pOff e.1 % 64 != 0 || errVal (threadTarget s s.cur e.1 64) (· == e.2))
      && nextIs (exec (.spawn 0 15 14 13) s) (trapThread s s.cur e.2 e.1))
    && (let s := updTile (inPart (regs [(14, own 64)])) 0 fun tl => { tl with spadMarks := ⟨[], [8]⟩ };
      okVal (threadTarget s s.cur (own 64) 64) (· == .here 64) && (spadRead s 0 64 64).2
      && ends (exec (.spawn 0 15 14 13) s) fun t => t.net.any fun k => match k.body with
        | .reply _ (some 1) none => true
        | _ => false)
    && (let s := inPart (regs [(14, 5)]);
      clearB { priv := 1, xs := [14] } s && targetTid s 5 == some ⟨0, 5⟩ && samePartition s 0
      && (thr s ⟨0, 5⟩).absent && !(thr s ⟨0, 5⟩).shadow
      && nextIs (exec (.kill 0 14) s) (trapThread s s.cur .illegal 5)) = true := by decide +kernel

theorem wit_ThreadWords :
    ([(Slot.parked, some (Wait.value 15)), (.waiting .exited 0, some (.value 15)),
        (.ready, some (.join 15 ⟨0, 1⟩))].all fun e =>
      let s := two (regs [(14, 1)]) fun th => { th with st := e.1, detached := false }
      clearB { xs := [15, 14] } s && targetTid s 1 == some ⟨0, 1⟩ && !joinRefused s ⟨0, 1⟩
      && ends (exec (.join 0 15 14) s) (fun t => (me t).wait? == e.2)
      && ends (exec (.detach 0 14) s) fun t => (me t).wait? == some .done)
    && (let s := two (regs [(14, 2 ^ 19), (1, 1)]) id;
      clearB { xs := [15, 14] } s && ends (exec (.join 0 15 14) s) (fun t => (me t).tcause == 1)
      && clearB { xs := [14] } s && clearB {} s && clearB { xs := [15] } s
      && ends (exec (.prio 0 14) s) (fun t => (me t).prio == 7)
      && ends (exec (.exit 0 14) s) (fun t => (thr t ⟨0, 0⟩).exitVal == 2 ^ 19)
      && ends (exec (.yield 0) s) (fun t => (me t).yielded)
      && ends (exec (.tid 0 15) s) (fun t => (me t).pc == 0x1004)
      && clearB { priv := 1, xs := [1] } s && targetTid s 1 == some ⟨0, 1⟩
      && !(thr s ⟨0, 1⟩).shadow && samePartition s 0 && (thr s ⟨0, 1⟩).live
      && !(thr s ⟨0, 1⟩).exited && ends (exec (.kill 0 1) s) fun t => (thr t ⟨0, 1⟩).exited)
    = true := by decide +kernel

theorem wit_ThreadWords_refusals :
    (let s := small fun th => regs [(14, 5)] { th with streams :=
        [(1, { parseStream 0 with kind := 1, fifo := [⟨0, 3, false⟩] })] };
      nextIs (exec (.exit 0 14) s) (slept 0 .retry s))
    && ([0, 1].all fun n =>
      let s := two (regs [(14, BitVec.ofNat 64 n)]) fun th => { th with st := .ready, detached := true }
      targetTid s (rx s 14) == some ⟨0, n⟩ && (joinRefused s ⟨0, n⟩ || (thr s ⟨0, n⟩).detached)
      && nextIs (exec (.join 0 15 14) s) (trapThread s s.cur .illegal (rx s 14))
      && (n == 1 || nextIs (exec (.detach 0 14) s) (trapThread s s.cur .illegal (rx s 14))))
    && (let s := two (regs [(14, 2 ^ 19), (13, 0x3000), (12, 1)]) fun th => { th with st := .parked };
      nextIs (exec (.kill 0 14) s) (trapThread s s.cur .illegal (rx s 14))
      && nextIs (exec (.detach 0 14) s) (trapThread s s.cur .illegal (rx s 14))
      && targetTid s (rx s 13) == some ⟨24, 0⟩ && !samePartition s 24
      && nextIs (exec (.kill 0 13) s) (trapThread s s.cur .addr (rx s 13))
      && (thr s ⟨0, 1⟩).st == .parked && ends (exec (.kill 0 12) s) fun t =>
        (me t).wait? == some .done && (thr t ⟨0, 1⟩).st == .parked)
    && (let s := updTile (inPart id) 0 fun tl => { tl with troupes := [(0, { Troupe.zero with quota := 1 })] }
      let i : Tid := ⟨0, 0⟩
      let good := 2 ^ (256 + 39)
      parseDesc (2 ^ 512 - 1) == none && (parseDesc good).any (fun d => d.priv == 0 && d.troupe == 0)
      && spawnLand s i 15 8 none (2 ^ 512 - 1) == trapPair s i .illegal 8
      && (parseDesc good).any (fun d => (createThread s 0 true
            { d := d, x4 := 0, regs := [], asid := 0, launch := 0, units := [], placed := false }).isNone)
      && getX (me (spawnLand s i 15 8 none good)) 15 == 0x8000000000000001
      && getX (me (spawnLand (updThr s i fun th => { th with priv := 0 }) i 15 8 none
          (good + 2 ^ (256 + 42)))) 15 == 0x8000000000000002
      && (let s := updTile s 0 fun tl => { tl with troupes := [(0, { Troupe.zero with quota := 2 })] };
        getX (me (spawnLand s i 15 8 none good)) 15 == 1
        && (thr (spawnLand s i 15 8 none good) ⟨0, 1⟩).live)) = true := by decide +kernel

/-- A cue 1 of the home tile with this state. -/
def withCue (c : Cue) (f : Thread → Thread) : State :=
  let s := small f
  setTile s 0 { tile s 0 with cues := [(1, c)] }

theorem wit_CueWords :
    ([(0, 5, []), (0, 4, []), (0, 9, [⟨⟨0, 1⟩, 10⟩])].all fun e : Nat × Nat × List CueWaiter =>
      let s := withCue { Cue.zero with value := BitVec.ofNat 32 e.2.1, waiters := e.2.2 }
        (regs [(14, 5)])
      let served := e.2.1 == 5
      clearB { ok := cueOk 0 1, xs := [14] } s && clearB { ok := cueOk 0 1, xs := [15] } s
      && clearB { ok := cueOk 0 1, xs := [14, 15] } s
      && (!e.2.2.isEmpty || ends (exec (.cinit 0 0 1 14) s) fun t => (me t).pc == 0x1004)
      && ends (exec (.csig 0 0 1 14) s) (fun t => (me t).pc == 0x1004)
      && ends (exec (.cread 0 0 1 15) s) (fun t => (me t).pc == 0x1004)
      && ends (exec (.ctry 0 0 1 14 15) s) (fun t => getX (me t) 15 == if served then 1 else 0)
      && ends (exec (.cwait 0 0 1 14) s) (fun t => ((me t).wait?).isNone == served)
      && ends (exec (.cwaitt 0 0 1 14 15) s) (fun t => ((me t).wait?).isNone == served))
    && (let s := withCue { Cue.zero with err := true, estat := 3 } id;
      clearB { ok := cueOk 0 1, xs := [14] } s
      && ends (exec (.cwait 0 0 1 14) s) fun t => (me t).tcause == 0x19 && (me t).tval == 3)
    && (let s := inPart (regs [(15, 7)]);
      clearB { xs := [14, 15] } s && okVal (reachTile s (myStanding s) 7) (fun _ => true)
      && ends (exec (.csigr 0 255 14 15) s) fun t => (me t).postedN == 1) = true := by decide +kernel

theorem wit_CueWords_refusals :
    ([Instr.ctry 0 0 1 14 15, .cwaitt 0 0 1 14 15].all fun i =>
      let s := withCue { Cue.zero with err := true, estat := 3 } id
      clearB { ok := cueOk 0 1, xs := [14, 15] } s
      && ends (exec i s) fun t => (me t).tcause == 0x19 && (me t).tval == 3
        && (getCue t (namedCue t 0 1)).err == false)
    && ([(8, 4), (4096, 1)].all fun e : Nat × Nat =>
      let s := inPart (regs [(15, BitVec.ofNat 64 e.1)])
      (e.1 == 4096 || errVal (reachTile s (myStanding s) e.1) fun k => k == .addr)
      && ends (exec (.csigr 0 255 14 15) s) fun t => (me t).tcause == BitVec.ofNat 8 e.2
        && (me t).postedN == 0) = true := by decide +kernel

theorem wit_CueSignalAddsAndServes :
    [([], 2 ^ 32 - 2, 1, 2 ^ 32 - 1), ([], 2 ^ 32 - 1, 1, 2 ^ 32 - 1),
      ([⟨⟨0, 1⟩, 10⟩], 8, 1, 9), ([⟨⟨0, 1⟩, 10⟩], 9, 1, 0)].all
      (fun e : List CueWaiter × Nat × Nat × Nat =>
        let s := withCue { Cue.zero with value := BitVec.ofNat 32 e.2.1, waiters := e.1 } id
        cueLive s (.tile 0 1)
        && (getCue (cueSignal s (.tile 0 1) e.2.2.1) (.tile 0 1)).value.toNat == e.2.2.2) = true := by
  decide +kernel

theorem wit_MessageWords :
    (let s := two (regs [(14, 1), (15, 77)]) id;
      clearB { xs := [14, 15] } s && !harvested s 0 && samePartition s (contextTile s ⟨0, 1⟩)
      && ((tileOwner s 0).any fun o => o.1 == (myStanding s).p && permits (myStanding s) o.2)
      && ends (exec (.send 0 14 15) s) (fun t => (me t).wait? == some .send)
      && clearB { xs := [13] } s && clearB { xs := [13, 14] } s
      && ends (exec (.recv 0 13) s) (fun t => (me t).wait? == some (.recv 13))
      && ends (exec (.recvt 0 13 14) s) (fun t => (me t).wait? == some (.recvt 13 2))
      && ends (exec (.recvt 0 13 0) s) fun t => (me t).pc == 0x1004)
    && (let s := small fun th => { regs [(14, 2 ^ 19)] th with mailbox := [5, 6] };
      clearB { xs := [14, 15] } s && ends (exec (.send 0 14 15) s) (fun t => (me t).tcause == 1)
      && ends (exec (.recv 0 13) s) (fun t => getX (me t) 13 == 5)
      && ends (exec (.recvt 0 13 14) s) fun t => getX (me t) 13 == 2) = true := by decide +kernel

theorem wit_MessageWords_refusals :
    (let s := two (regs [(14, 0x3000)]) id;
      !harvested s 24 && !samePartition s (contextTile s ⟨24, 0⟩)
      && nextIs (exec (.send 0 14 15) s) (trapThread s s.cur .addr (rx s 14)))
    && (let s := updPart (two (regs [(14, 4 * 512)]) id) 0 fun p => { p with cmap := [0, 1] };
      tidOf (rx s 14) == ⟨4, 0⟩ && !harvested s 4 && samePartition s (contextTile s ⟨4, 0⟩)
      && tileOwner s 4 == some ((myStanding s).p, 1) && !permits (myStanding s) 1
      && nextIs (exec (.send 0 14 15) s) (trapThread s s.cur .perm (rx s 14))) = true := by decide +kernel

/-! Engines, gates, system and remote words -/

theorem wit_MatrixWordsClaimAndIssue :
    ([(1, 0, none), (2 ^ 20 - 1, 0, none), (0, 0, some 0x01), (2 ^ 20, 0, some 0x01)].all
      fun e : Nat × Nat × Option (BitVec 8) =>
      let s := small (regs [(15, BitVec.ofNat 64 e.1)])
      clearB { xs := [15] } s && badMask e.1 == e.2.2.isSome && myHeld s == 0
      && ends (exec (.mclaim 0 15) s) fun t => match e.2.2 with
        | some c => (me t).tcause == c
        | none => (me t).wait? == some .claim)
    && (let s0 := small (regs [(15, 0x10001), (14, own 0)]);
      let s := setTile s0 0 { tile s0 0 with holders := [(0, .thread ⟨0, 0⟩), (16, .thread ⟨0, 0⟩)] };
      clearB { xs := [15] } s && Nat.land 0x10001 (myHeld s) == 0x10001
      && ends (exec (.mrel 0 15) s) (fun t => (me t).wait? == some .release)
      && ((matrixTable s (.mload 0 1 0 14)).any fun r =>
        clearB { ok := r.ok, xs := r.xs, res := r.xs.map fun x => (x, 5), kind := 3 } s
        && ends (exec (.mload 0 1 0 14) s) fun t => (me t).wait? == some (.accept 0)
          && (tile t 0).mArrivals.length == 1)
      && ((matrixTable s (.mzero 0 1 3)).any fun r => r.ok
        && ends (exec (.mzero 0 1 3) s) fun t => (me t).tcause == 0x11 && (me t).tval == 0x80000))
    = true := by decide +kernel

theorem wit_MatrixWordsClaimAndIssue_slots :
    (let s0 := small (regs [(15, 3), (14, 0)]);
      let s := setTile s0 0 { tile s0 0 with holders := [(0, .thread ⟨0, 0⟩)] };
      clearB { xs := [15] } s && !badMask 3 && myHeld s == 1
      && nextIs (exec (.mclaim 0 15) s) (trapThread s s.cur .slot 1)
      && nextIs (exec (.mrel 0 15) s) (trapThread s s.cur .slot 2)
      && badMask 0 && nextIs (exec (.mrel 0 14) s) (trapThread s s.cur .illegal 0)) = true := by
  decide +kernel

/-- A task record for queue 0: identifier 1, port 1, a copy. -/
def taskRecord : Nat := 2 ^ 48 + 2 ^ 34

theorem wit_UnitWordsIssue :
    (let s := small (regs [(15, own 0), (14, own 64)]);
      clearB { xs := [14, 15], res := [(14, 5)], kind := 3 } s
      && clearB { xs := [14, 15], res := [(14, 5), (15, 5)], kind := 3 } s
      && ([Instr.cpy 0 1 14 15, .cpyf 7 15 14 15].all fun i => (copyTable i).isSome
        && ends (exec i s) fun t => (me t).wait? == some (.accept 1)
          && (cluster t 0).shArrivals.length == 1)
      && ([(Instr.swpin 0 1 14 15, cmdSwpin), (.swpout 0 1 14 15, cmdSwpout),
          (.swppull 0 1 14 15, cmdSwppull)].all fun e => ends (exec e.1 s) fun t =>
            t.swapArrivals.map (·.2.cmd) == [e.2] && (me t).wait? == some (.accept 3)))
    && ([0, 3].all fun q =>
      let s := spadWrite (small (regs [(15, BitVec.ofNat 64 q), (14, own 64)])) 0 64 64 taskRecord
      let s1 := { s with fresh := s.fresh + 1 }
      let full := setCluster s 0 { cluster s 0 with posts :=
        ((parseTask s1 s.fresh q taskRecord).toList.map fun t => (t, CueRef.none)) }
      clearB { xs := [14, 15], res := [(14, 5)], kind := 3 } s && !(spadRead s 0 64 64).2
      && (parseTask s1 s.fresh q (readLE (tile s 0).spad 64 64)).isSome
      && ends (exec (.tqpost 0 1 14 15) s) (fun t => (cluster t 0).waiting.length == 1)
      && (cluster full 0).posts.any (fun e => e.1.queue == q)
      && ends (exec (.tqpost 0 1 14 15) full) fun t => (me t).wait? == some (.accept 2))
    && ([3, 4].all fun q =>
      let s := small (regs [(15, BitVec.ofNat 64 q)])
      clearB { xs := [15], kind := 3 } s
      && ends (exec (.tqflush 0 1 15) s) fun t => (me t).pc == 0x1004) = true := by decide +kernel

theorem wit_UnitWordsIssue_fails :
    ([(own 32, 0, taskRecord, 0xFF02), (atTile 0 64, 0, taskRecord, 0xFF02),
      (own spadSize, 0, taskRecord, 0xFF02), (own 64, 4, taskRecord, 0xFF04),
      (own 64, 3, taskRecord + 1, 0xFF01), (own 64, 3, taskRecord, 0xFF03)].all
      fun e : Word × Nat × Nat × Nat =>
      let s := spadWrite (small (regs [(15, BitVec.ofNat 64 e.2.1), (14, e.1)])) 0 64 64 e.2.2.1
      let s1 := { s with fresh := s.fresh + 1 }
      let p := pathRead s 2 [] 0 64 64
      let s := if e.2.2.2 = 0xFF03 then updCluster s 0 fun c =>
          { c with waiting := (parseTask s1 s.fresh 0 taskRecord).toList } else s
      clearB { xs := [14, 15], res := [(14, 5)], kind := 3 } s && !p.2
      && (parseTask s1 s.fresh e.2.1 p.1).isNone == (e.2.2.2 == 0xFF01)
      && identBusy (cluster s 0) 1 == (e.2.2.2 == 0xFF03)
      && ends (exec (.tqpost 0 1 14 15) s) fun t => (me t).pc == 0x1004
        && ((me t).ports.any fun q => q.1 == 2 && q.2.lastst == e.2.2.2)
        && (cluster t 0).waiting.length == if e.2.2.2 = 0xFF03 then 1 else 0) = true := by decide +kernel

theorem wit_EngineRegisterWords :
    (let s := small (regs [(15, 9), (14, 8)]);
      clearB { ok := ewrOk 6 14, xs := [15, 14] } s && clearB { ok := ewrOk 7 0, xs := [15, 0] } s
      && ends (exec (.ewr 0 15 14 6) s) (fun t => smGet 0 (me t).e 7 == 8)
      && ends (exec (.ewr 0 15 0 7) s) (fun t => smGet 0 (me t).e 7 == 9)
      && clearB { xs := [13] } s && ends (exec (.erd 0 13 7) s) (fun t => (me t).pc == 0x1004)
      && ends (exec (.erdst 0 13 3) s) (fun t => (me t).pc == 0x1004)) = true := by decide +kernel

theorem wit_GateWordsAskTheirGate :
    (let s := small fun th => { regs [(15, 15), (14, 0xF0FFF), (13, 16)] th with
        handles := [(15, ⟨4095, 15⟩)] };
      clearB { xs := [1, 14] } s && ends (exec (.gopen 0 1 14) s)
        (fun t => (me t).wait? == some (.gate 1 4095 false 0 none))
      && clearB { xs := [1, 15, 0] } s && (smFind (me s).handles 15).isSome
      && ([Instr.gsig 0 1 15 0, .gwait 0 1 15 0, .gpost 0 1 15 0, .gtake 0 1 15 0, .gread 0 1 15].all
        fun i => ends (exec i s) fun t => ((me t).wait?).isSome)
      && clearB { xs := [15] } s && ends (exec (.gclose 0 15) s) (fun t => (me t).handles == [])
      && clearB { xs := [1, 13, 0] } s && ends (exec (.gtake 0 1 13 0) s) fun t => (me t).tcause == 1)
    && (let s := small fun th => { regs [(15, 15)] th with handles := [(14, ⟨4095, 7⟩)] };
      (smFind (me s).handles 15).isNone
      && ends (exec (.gsig 0 1 15 0) s) fun t => (me t).tcause == 0x0F && (me t).tval == 0xF01)
    && (let s := small fun th => { regs [(15, 15)] th with handles := [(15, ⟨4095, 7⟩)] };
      ends (exec (.gsig 0 1 15 0) s) fun t => (me t).tval == 0xFFF0F02) = true := by decide +kernel

theorem wit_GateWordsAskTheirGate_faults :
    ([(Instr.gsig 0 1 15 0, [1, 15, 0], 8), (.gwait 0 1 15 0, [1, 15, 0], 4),
      (.gpost 0 1 15 0, [1, 15, 0], 2), (.gtake 0 1 15 0, [1, 15, 0], 1), (.gread 0 1 15, [1, 15], 15),
      (.gclose 0 15, [15], 0)].all fun e : Instr × List (BitVec 5) × BitVec 4 =>
      let s := fun (h : Nat) => small fun th => { regs [(15, BitVec.ofNat 64 h)] th with
        handles := [(14, ⟨4095, 15 ^^^ e.2.2⟩)] }
      clearB { xs := e.2.1 } (s 16)
      && nextIs (exec e.1 (s 16)) (trapThread (s 16) (s 16).cur .illegal 16)
      && nextIs (exec e.1 (s 15)) (trapThread (s 15) (s 15).cur .gateFault 0xF01)
      && (e.2.2 == 0 || nextIs (exec e.1 (s 14)) (trapThread (s 14) (s 14).cur .gateFault 0xFFF0E02)))
    && ([0x100000, 0x11000, 5].all fun x : Nat =>
      let s := small (regs [(15, BitVec.ofNat 64 x)])
      clearB { xs := [1, 15] } s
      && nextIs (exec (.gopen 0 1 15) s) (trapThread s s.cur .illegal (rx s 15))) = true := by
  decide +kernel

theorem wit_CsrWords :
    (let s := small (regs [(15, 0x11)]);
      clearB { ok := csrReadOk 2, priv := 0, xs := [13, 0] } s
      && ends (exec (.csrr 0 13 2) s) (fun t => (me t).pc == 0x1004)
      && clearB { ok := csrReadOk 0x140, priv := 2, xs := [13, 0] } s
      && ends (exec (.csrr 0 13 0x140) s) (fun t => (me t).wait? == some (.value 13))
      && clearB { ok := csrWriteOk 2, priv := 0, xs := [13, 15] } s
      && ends (exec (.csrw 0 13 15 2) s) (fun t => (me t).frm == 1)
      && clearB { ok := csrWriteOk 0x140, priv := 2, xs := [13, 15] } s
      && ends (exec (.csrw 0 13 15 0x140) s) (fun t => t.sptb == 0x11)
      && clearB { ok := csrSetOk 15 2, priv := 0, xs := [13, 15] } s
      && clearB { ok := csrSetOk 0 2, priv := 0, xs := [13, 0] } s
      && ends (exec (.csrs 0 13 15 2) s) (fun t => (me t).frm == 1)
      && ends (exec (.csrc 0 13 0 2) s) (fun t => (me t).frm == 0)
      && clearB { ok := csrSetOk 15 0x140, priv := 2, xs := [13, 15] } s
      && ends (exec (.csrc 0 13 15 0x140) s) (fun t => t.sptb == 0)
      && clearB { ok := csrSetOk 15 0x141, priv := 2, xs := [13, 15] } s
      && ends (exec (.csrc 0 13 15 0x141) s) (fun t => (me t).wait? == some (.value 13)))
    && (let s := small (regs [(15, own 32)]);
      clearB { ok := csrWriteOk 0x141, priv := 2, xs := [13, 15] } s
      && ((xlIssue s (own 32)).any fun r => !r.2)
      && ends (exec (.csrw 0 13 15 0x141) s) (fun t => (me t).wait? == some (.value 13))
      && ends (exec (.csrs 0 13 15 0x141) s) (fun t => (me t).wait? == some (.value 13)))
    && (let s := updTile (small (regs [(15, own 32)])) 0 fun tl => { tl with spadMarks := ⟨[], [4]⟩ };
      ((xlIssue s (own 32)).any (·.2)) && (spadRead s 0 32 32).2
      && ends (exec (.csrw 0 13 15 0x141) s) fun t => (thr t ⟨0, 0⟩).st == .parked)
    && ([own 16, own spadSize, 32].all fun p =>
      let s := small (regs [(15, p)])
      (xlIssue s p).isNone && nextIs (exec (.csrw 0 13 15 0x141) s) (trapThread s s.cur .addr p))
    && (let s := small fun th => { th with flagsDue := 40 };
      clearB { ok := csrReadOk 1, priv := 0, xs := [13, 0] } s
      && clearB { ok := csrWriteOk 1, priv := 0, xs := [13, 5] } s
      && clearB { ok := csrSetOk 5 1, priv := 0, xs := [13, 5] } s && decide (s.cycle < 40)
      && ([Instr.csrr 0 13 1, .csrw 0 13 5 1, .csrs 0 13 5 1, .csrc 0 13 5 1].all fun i =>
        ends (exec i s) fun t => (me t).pc == 0x1000 && (me t).st == .issued 40)
      && ends (exec (.csrr 0 13 1) { s with cycle := 40 }) fun t => (me t).pc == 0x1004) = true := by
  decide +kernel

theorem wit_SupervisorWords :
    (let s := inPart (regs [(15, 0x10000), (14, 0x10007), (13, 0x200000000 * 2 ^ 8 + 2 ^ 31 + 0x1F)]);
      clearB { priv := 1 } s && ends (exec (.idle 0) s) (fun t => (me t).wait? == some .idle)
      && clearB { priv := 1, xs := [1, 15] } s && !quiescent s 0
      && okVal (reachTile s (myStanding s) 0) (· == 0)
      && ends (exec (.repart 0 1 15) s) (fun t => (me t).wait? == some (.value 1))
      && okVal (reachTile s (myStanding s) 7) (quiescent s)
      && ends (exec (.repart 0 1 14) s) (fun t => (tile t 19).wide)
      && clearB { priv := 2, xs := [13] } s && !harvested s 512 && (rx s 13).getLsbD 31
      && ends (exec (.roset 0 13 15) s) fun t => (tile t 512).rosets.length == 1)
    && (let s := small fun th => { th with mailbox := [1] };
      ends (exec (.idle 0) s) fun t => (me t).pc == 0x1004)
    && (let s := small (regs [(15, own (spadSize - 32))]);
      clearB { priv := 2, xs := [1, 15] } s && !(spadRead s 0 (spadSize - 32) 32).2
      && (part s 0).op.isNone
      && ends (exec (.curtain 0 1 15) s) (fun t => (part t 0).op.isSome
        && ends (exec (.migr 0 1 15) { setThr t t.cur (me s) with net := [] })
          fun u => (part u 0).op == (part t 0).op)) = true := by decide +kernel

theorem wit_SupervisorWords_traps :
    ([(2 ^ 17, 1), (2 ^ 12, 1), (8, 4)].all fun e : Nat × Nat =>
      let s := inPart (regs [(15, BitVec.ofNat 64 e.1)])
      clearB { priv := 1, xs := [1, 15] } s
      && (e.2 == 1 || errVal (reachTile s (myStanding s) 8) (· == .addr))
      && ends (exec (.repart 0 1 15) s) fun t => (me t).tcause == BitVec.ofNat 8 e.2 && (me t).tval == rx s 15)
    && ([2 ^ 42, 2 ^ 5].all fun x : Nat =>
      let s := small (regs [(15, BitVec.ofNat 64 x)])
      clearB { priv := 2, xs := [15] } s
      && nextIs (exec (.roset 0 15 3) s) (trapThread s s.cur .illegal (rx s 15)))
    && ([own 16, own spadSize, 64].all fun p =>
      let s := small (regs [(15, p)])
      clearB { priv := 2, xs := [1, 15] } s
      && nextIs (exec (.curtain 0 1 15) s) (trapThread s s.cur .addr p)
      && nextIs (exec (.migr 0 1 15) s) (trapThread s s.cur .addr p)) = true := by decide +kernel

/-- `small` with a rank table of partition 0 at 0x50000: ranks 0, this package, and 1. -/
def ranked (f : Thread → Thread) : State :=
  let s := small f
  let s := putTable64 s 0x1C000 (2 ^ 63 + 0x50000)
  let s := putTable64 s 0x1C008 2
  let s := putTable64 s 0x50000 (2 ^ 63)
  putTable64 s 0x50008 (2 ^ 63 + 5)

theorem wit_RankWords :
    (let s := ranked (regs [(1, 0), (2, 1), (3, 0xFFF0000), (15, 8), (14, own 64), (13, own 8),
        (12, 0x1000), (11, 9)]);
      clearB { xs := [10, 2, 15], res := [(15, 5)], kind := 0 } s
      && okVal (rankOf 0 (rx s 1) s) (·.self) && okVal (rankOf 0 (rx s 2) s) (!·.self)
      && okVal (rankOf 3 (rx s 3) s) (·.self) && decide (postedRemote s 0 < 64)
      && ends (exec (.rld 0 10 2 15) s) (fun t => t.outst.length == 1)
      && ends (exec (.rst 0 10 1 15) s) (fun t => (me t).postedN == 1)
      && !(spadRead s 0 64 64).2
      && ends (exec (.ramo 0 10 1 14) s) (fun t => ((me t).wait?).isSome)
      && ends (exec (.spawnr 0 10 3 14) s) (fun t => ((me t).wait?).isSome)
      && okVal (rankOf 4 (rx s 3) s) (fun _ => true)
      && ends (exec (.csigrRank 0 3 0) s) (fun t => (me t).postedN == 1)
      && !rankWordOk 0 0x1000 && ends (exec (.rld 0 10 12 15) s) (fun t => (me t).tcause == 1)
      && ends (exec (.rld 0 10 1 11) s) (fun t => (me t).tcause == 3)
      && (let o : Outst := { rtag := 0, id := 0, tid := ⟨0, 0⟩, tile := 0, sent := 0, fail := 0, kind := 1 };
        let s := { s with outst := List.replicate 64 o };
        !decide (postedRemote s 0 < 64)
        && ends (exec (.rst 0 10 1 15) s) fun t => (me t).wait? == some .retry)) = true := by
  decide +kernel

theorem wit_RankWords_traps :
    (let s := ranked (regs [(1, 0), (2, 7), (3, 2 ^ 40), (15, own 64), (14, 9), (13, own 8)]);
      let bad := fun (i : Instr) (k : Cause) (v : Word) => nextIs (exec i s) (trapThread s s.cur k v)
      clearB { xs := [10, 2, 15], res := [(15, 5)], kind := 5 } s
      && errVal (rankOf 0 7 s) (· == .addr) && errVal (rankOf 0 (2 ^ 40) s) (· == .illegal)
      && (rankEntry s 0 7).isNone
      && ([(2, Cause.addr), (3, Cause.illegal)].all fun e : BitVec 5 × Cause =>
        [Instr.rld 0 10 e.1 14, .rst 0 10 e.1 14, .ramo 0 10 e.1 15, .spawnr 0 10 e.1 15, .csigrRank 0 e.1 0].all
          fun i => bad i e.2 (rx s e.1))
      && ([Instr.rld 0 10 1 15, .rst 0 10 1 15].all fun i => bad i .addr (rx s 15))
      && ([Instr.rld 0 10 1 14, .rst 0 10 1 14].all fun i => bad i .misalign 9)
      && ([Instr.ramo 0 10 1 13, .spawnr 0 10 1 13].all fun i => bad i .addr (rx s 13))) = true := by
  decide +kernel

theorem wit_PrivilegedWordsTrapBelowTheirPrivilege :
    [(0, [Instr.kill 0 1, .idle 0, .repart 0 1 2, .csrr 0 1 0x140, .csrw 0 1 2 0x101]),
      (1, [.roset 0 1 0, .curtain 0 1 2, .migr 0 1 2, .csrr 0 1 0x140, .csrs 0 1 2 0x101,
        .csrc 0 1 2 0x101])].all (fun e =>
      let s := small fun th => { th with priv := e.1 }
      !(me (landed s)).leader && (me (landed s)).repBody.isNone
      && csrReadOk 0x140 && csrWriteOk 0x101 && csrSetOk 2 0x101
      && e.2.all fun i => nextIs (exec i s) (trapThread s s.cur .priv 0)) = true := by decide +kernel

/-- A leader in slot 0 with its understudy in slot 1. -/
def pair (f : Thread → Thread) : State :=
  two (fun th => { th with leader := true, partner := 1 })
    fun th => f { th with leader := false, shadow := true, partner := 0 }

theorem wit_UnderstudyAgreesOrTraps_leader :
    (let go := fun (s : State) => Ret.go (giveX 0 4 5 7 s);
      let takes : Chk := { pair := .takes (some 5) };
      let s := pair id;
      let out := fun (c : Chk) (b : State → Ret) (f : LvOut → Bool) => ends (run 0 c b s) fun t =>
        match (me t).lvq with
        | [e] => e.due == 16 && e.pc == 0x1000 && f e.out && (me t).pc == 0x1000
        | _ => false;
      (me (landed s)).leader && (me s).lvq == [] && decide (s.cur.tile < 1024)
      && out {} go (· == .held)
      && out takes go (fun o => match o with
        | .took (some p) => p.val == 7 && p.reg == 5
        | _ => false)
      && out takes (fun s => .trap .swtrap 1 s) (· == .trapped .swtrap 1)
      && out takes (fun s => .sleep .done s) (· == .slept (some 5))) = true := by decide +kernel

/-- `pair` at cycle 16, whose queue holds one word that is due. -/
def due (out : LvOut) (f g : Thread → Thread) : State :=
  let s := two (fun th => f { th with leader := true, partner := 1, lvq := [⟨16, 0x1000, 0, out⟩] })
    fun th => g { th with leader := false, lvq := [], shadow := true, partner := 0 }
  { s with cycle := 16 }

theorem wit_UnderstudyAgreesOrTraps :
    (let go := fun (s : State) => Ret.go (giveX 0 4 5 (rx s 6) s);
      let trap := fun (s : State) => Ret.trap .swtrap (rx s 6) s;
      let mix := fun (s : State) => if rx s 6 = 0 then Ret.go s else .trap .swtrap 0 s;
      let store := fun (s : State) => Ret.go { s with sptb := rx s 6 };
      let same := due .held id id;
      let other := due .held id (regs [(6, 9)]);
      let k := fun (n : Nat) (o : Host.Outcome State Fault Refusal) => ends o fun t =>
        [0, 1].all fun j => (thr t ⟨0, j⟩).tcause == 0x0E && (thr t ⟨0, j⟩).tval == BitVec.ofNat 64 n
          && (thr t ⟨0, j⟩).tpc == 0x1000;
      (me (landed same)).leader
      && ends (run 0 {} go same) (fun t => (thr t ⟨0, 0⟩).pc == 0x1004 && (thr t ⟨0, 1⟩).pc == 0x1004
        && (me t).lvq == [])
      && ends (run 0 {} go other) (fun t => getX (thr t ⟨0, 0⟩) 5 == 0 && getX (thr t ⟨0, 1⟩) 5 == 9)
      && k 5 (run 0 {} store other)
      && ends (run 0 {} trap other) (fun t => (thr t ⟨0, 1⟩).tcause == 0x17)
      && k 4 (run 0 {} mix other)
      && ends (run 0 {} (fun s => .sleep .done s) same) (fun t =>
        (thr t ⟨0, 0⟩).wait? == some .done && (thr t ⟨0, 1⟩).wait? == some .done)
      && ends (run 0 { pair := .takes (some 5) } go (due (.took (some ⟨5, 7, 7, 0, false⟩)) id id))
        (fun t => getX (thr t ⟨0, 0⟩) 5 == 7 && getX (thr t ⟨0, 1⟩) 5 == 7)
      && ends (run 0 { pair := .takes none } go (due (.trapped .swtrap 3) id id)) (fun t =>
        (thr t ⟨0, 1⟩).tcause == 0x17)
      && ends (run 0 { pair := .takes none } go (due (.slept (some 5))
        (fun th => { th with st := .waiting (.value 5) 0 }) id)) fun t =>
          (thr t ⟨0, 1⟩).st == .waiting (.value 5) 16) = true := by decide +kernel

/-- A leader with its understudy at another place, of which the next word is `w`. -/
def parted (w : IWord) (pc : Nat) : State :=
  let s := nextWord w
  let th := regs [(6, own 0)] { placedThread with leader := true, partner := 1 }
  setThr (setThr s ⟨0, 0⟩ th) ⟨0, 1⟩
    { th with leader := false, shadow := true, partner := 0, pc := w64 pc }

theorem wit_UnderstudyAgreesOrTraps_apart :
    (let sd := (encode (.sd 0 5 6 0)).getD 0;
      let k := fun (n : Nat) (o : Host.Outcome State Fault Refusal) => ends o fun t =>
        (thr t ⟨0, 0⟩).tval == BitVec.ofNat 64 n && (thr t ⟨0, 1⟩).tcause == 0x0E;
      k 4 (issueApart (parted 0 0x20000000) 0x50000 0x04294B00)
      && k 5 (issueApart (parted 0x04294B00 0x50004) 0x50000 sd)
      && (let s := updTile (pair id) 0 fun tl => { tl with
            troupes := [(0, { Troupe.zero with tvec := 0x8001 })] };
        let s := updThr (updThr s ⟨0, 0⟩ fun th => { th with priv := 0 }) ⟨0, 1⟩
          fun th => { th with priv := 0 };
        leaveCues s ⟨0, 0⟩ == s && (trapVector s ⟨0, 0⟩ false).en && (trapVector s ⟨0, 1⟩ false).en
        && ([0, 1].all fun j => let u := thr (redundancy s ⟨0, 0⟩ ⟨0, 1⟩ 0x44 4) ⟨0, j⟩;
          u.tcause == 0x0E && u.tval == 4 && u.tpc == 0x44 && u.inh))) = true := by decide +kernel

theorem wit_PrompterPicksTheHighestPriority :
    (prompterPick placed 0 == some 0 && candidates placed 1 == [] && (shadowDue placed 0).isNone
    && nextIs (exec (.prompterIssue 0) placed) (markIssue placed 0 0)
    && nextIs (exec (.prompterIssue 1) placed) placed
    && shadowDue shadowed 0 == some 0
    && nextIs (exec (.prompterIssue 0) shadowed) (markShadow shadowed 0 0))
    && (let s := small fun th => { th with st := .issued 0 };
      nextIs (exec (.stallExpiry 0 0) s) (setThr s ⟨0, 0⟩ { me s with st := .ready, readySince := 0 }))
    && ([(0, 0), (1, 6), (2, 6)].all fun e : Nat × Nat =>
      let s := small fun th => { th with candidate := e.1 != 0, age := 0, prio := e.2 }
      let s := setTile s 0 { tile s 0 with ageStep := BitVec.ofNat 8 e.1 }
      ends (exec (.rotationEnd 0) s) fun t => (me t).age == (if e.1 = 2 then 1 else 0)
        && (me t).boost == if e.1 = 1 then 1 else 0)
    && ([Slot.trapped (some 0), .trapped (some 2), .waiting (.cueTimed .none 3 5) 0].all fun x =>
      let s := small fun th => { th with st := x }
      !(tile s 0).stopped && ends (exec (.rotationEnd 0) s) fun t => (me t).st == match x with
        | .trapped (some 0) => .ready
        | .trapped _ => .trapped (some 1)
        | _ => .waiting (.cueTimed .none 3 4) 0)
    && (let s := setTile (small id) 0 { tile (small id) 0 with rosets := [(15, 15, true, ⟨0, 0⟩)] };
      ends (exec (.rosetApply 0) s) fun t => (tile t 0).runord == 0xF000000000000000) = true := by
  decide +kernel

theorem wit_CompletingAWaitWakesTheThread :
    ([(none, 0x1004#64), (some (0#32, 0#5), 0x1000), (some (1#32, 0#5), 0x1008)].all fun e =>
      let s := small fun th => { th with
        st := .waiting .done 16, repBody := e.1,
        repidx := if e.1 = some (1#32, 0#5) then repWord 64 true 63 else repWord 64 true 0 }
      let u := thr (complete s ⟨0, 0⟩ id) ⟨0, 0⟩
      !(me s).leader && u.st == .issued 16 && u.pc == e.2)
    && (let p : Pending := { reg := 5, val := 3, res := 3, due := 0, fp := false };
      let s := small fun th => { th with st := .waiting (.load 5 8 false 0) 0, pend := [p] };
      let u := thr (complete s ⟨0, 0⟩ (setX · 5 9)) ⟨0, 0⟩;
      getX u 5 == 9 && u.pend == []) = true := by decide +kernel

theorem wit_CsrWritesStoreTheirFields :
    (let s := small fun th => { th with priv := 1, asid := 0x5123, pfcause := 9 };
      let v : Word := 0xFFFFFFFFFFFFFFFF;
      decide (s.cur.tile < 1024) && csrGet (went 0 (csrPut 9 v s)) 9 == v.toNat
      && csrGet (csrPut 0x003 (v <<< 32) s) 0x003 == 1
      && ([(0x001, 0x1F1F), (0x002, 0xF), (0x003, 0xFFFFFFFF), (0x010, 0xE800), (0x011, 0xFF),
          (0x012, v.toNat), (0x013, v.toNat - 3), (0x018, 0x7FFF), (0x020, v.toNat),
          (0x101, 0x5FFF), (0x030, 9)].all fun e : Nat × Nat => csrGet (csrPut e.1 v s) e.1 == e.2)) = true := by decide +kernel

/-! Steps of the device -/

/-- `placed` in partition 0, which runs on cluster 0; its memory maps the first 256 MB. -/
def world : State :=
  { placed with parts := [(0, { Part.zero with run := .running, valid := true, cmap := [0] })] }

/-- `world` with one packet of its thread, numbered 9. -/
def packet (tgt : Nat) (b : Body) : State := { world with net := [⟨9, ⟨0, 0⟩, tgt, b⟩] }

/-- The packet numbered 9. -/
def the (s : State) : Pkt := (pktOf s 9).getD ⟨0, ⟨0, 0⟩, 0, .fwdFail 0⟩

/-- The thread of `world` waits so. -/
def waits (w : Wait) (s : State) : State :=
  setThr s ⟨0, 0⟩ { thr s ⟨0, 0⟩ with st := .waiting w 0 }

theorem wit_RepliesReachTheirThreads_values :
    (let s := fun (w : Wait) => waits w (packet 0 (.reply 0x8F none none));
      let s0 := fun (w : Wait) => dropPkt (s w) 9;
      let done := fun (w : Wait) (f : Thread → Thread) => nextIs (exec (.accessReply 9) (s w)) (complete (s0 w) ⟨0, 0⟩ f);
      done (.load 5 1 true 0) (fun th => setX th 5 (BitVec.ofInt 64 (-113)))
      && done (.load 5 1 false 0) (fun th => setX th 5 0x8F)
      && done (.amo 5 4 0) (fun th => setX th 5 (amoResult 4 0x8F))
      && done (.value 5) (fun th => setX th 5 0x8F)
      && (let w := Wait.vload 3 64 0; nextIs (exec (.accessReply 9) (s w))
        (complete (vecLand (s0 w) ⟨0, 0⟩ 3 0x8F) ⟨0, 0⟩ (fun th => th)))
      && (let w := Wait.spawn 5 0 none; nextIs (exec (.accessReply 9) (s w))
        (spawnLand (s0 w) ⟨0, 0⟩ 5 0 none 0x8F))
      && done .done (fun th => th)) = true := by decide +kernel

theorem wit_RepliesReachTheirThreads_failures :
    (let s := waits (.load 5 8 false 64) (packet 0 (.reply 0 (some 4) none));
      nextIs (exec (.accessReply 9) s) (parkThread (dropPkt s 9) ⟨0, 0⟩ 4))
    && ([0, 3].all fun sub =>
      let s := waits (.load 5 8 false 64) (packet 0 (.reply 0 none (some ⟨.addr, sub⟩)))
      !(thr s ⟨0, 0⟩).leader
      && ends (exec (.accessReply 9) s) fun t => (thr t ⟨0, 0⟩).tcause == 4
        && (thr t ⟨0, 0⟩).tval == 64 && (thr t ⟨0, 0⟩).pfcause == BitVec.ofNat 8 sub)
    && (let s := waits (.load 5 8 false 64) (packet 0 (.gload 64 8 0 3 [] false [(1, Unit64.empty)] [] false));
      nextIs (exec (.accessReply 9) s) (complete (dropPkt s 9) ⟨0, 0⟩ (fun th => setX th 5 0)))
    && ([true, false].all fun signal =>
      let s := updThr (packet 0 (.ack signal none none)) ⟨0, 0⟩ fun th =>
        { th with postedN := 2, postedW := 2 }
      (thr s ⟨0, 0⟩).wait? == none && ends (exec (.postedAck 9) s) fun t =>
        (thr t ⟨0, 0⟩).postedN == (if signal then 1 else 2)
        && (thr t ⟨0, 0⟩).postedW == if signal then 2 else 1)
    && (let s := waits (.probe 64 [1, 2] []) (packet 0 (.reply 0 none none));
      let full := updTile s 0 fun tl => { tl with
        wbuf := List.replicate 1024 (0, Unit64.empty), plog := List.replicate 2 (1, Unit64.empty) };
      let no := waits (.probe 64 [1, 2] []) (packet 0 (.reply 0 none (some ⟨.page, 3⟩)));
      ((storeSpan (dropPkt s 9) 0 0 64 2 513).any fun s1 => ends (exec (.storeProbeReply 9) s)
        fun t => (tile t 0).wbuf == (tile s1 0).wbuf && (thr t ⟨0, 0⟩).st == .ready
          && (tile t 0).probed == [pageKey 0 64])
      && (storeSpan (dropPkt full 9) 0 0 64 2 513).isNone
      && ends (exec (.storeProbeReply 9) full) (fun t => (thr t ⟨0, 0⟩).tcause == 0x1B)
      && ends (exec (.storeProbeReply 9) no) fun t => (thr t ⟨0, 0⟩).tcause == 5)
    && ([3, savedBase].all fun place =>
      let s := packet 0 (.cueSig place 5 2 9)
      nextIs (exec (.cueSignalArrival 9) s) (if place = 3
        then cueSignal (setBody s 9 (.ack true none none)) (.tile 3 5) 2 else s)) = true := by
  decide +kernel

theorem wit_PortsPerformInOrder :
    (let s := fun (a : PortAcc) => packet 3 (.port 3 64 a 0 none);
      let done := fun (a : PortAcc) (t : State) => oldestAtPort (s a) (the (s a)) && nextIs (exec (.remotePortAccess 9) (s a)) t;
      !(placeRead (s (.load 8)) 3 64 8).2
      && done (.load 8) (setBody (s (.load 8)) 9 (.reply 0 none none))
      && (let u := updTile (s (.load 8)) 3 fun tl => { tl with spadMarks := ⟨[], [8]⟩ };
        (placeRead u 3 64 8).2 && oldestAtPort u (the u) && nextIs (exec (.remotePortAccess 9) u)
          (setBody (chargeSram u 3 3) 9 (.reply 0 (some 1) none)))
      && done (.store [5]) (setBody (placeWrite (s (.store [5])) 3 64 1 5 0 0) 9 (.ack false none none))
      && (let a := PortAcc.amo 0 8 7 0;
        done a (setBody (placeWrite (s a) 3 64 8 7 1 0) 9 (.reply 0 none none)))
      && (let op : GatherOp := ⟨8, false, [(0, 8), (1, 64)], 0, [], false⟩;
        oldestAtPort (s (.gather op)) (the (s (.gather op)))
        && ends (exec (.remotePortAccess 9) (s (.gather { op with els := [] }))) fun t =>
          (the t).body == .reply 0 none none))
    && (let s := packet 3 (.port 3 64 (.load 8) 0 none);
      let k : Pkt := ⟨8, ⟨0, 0⟩, 3, .port 3 0 (.load 8) 0 none⟩;
      let s := { s with net := k :: s.net };
      !oldestAtPort s (the s) && nextIs (exec (.remotePortAccess 9) s) s)
    && (let m : Marks := ⟨[3, 4], []⟩;
      let s := updTile world 1023 fun tl => { tl with spadMarks := m, vMarks := m, opMarks := m };
      let s := setCluster s 63 { cluster s 63 with shmMarks := m };
      ([1023, 2048 + 1023, 4096 + 1023, 1024 + 63].all fun place =>
        ends (exec (.secWriteback place 3) s) fun t =>
          [(tile t 1023).spadMarks, (tile t 1023).vMarks, (tile t 1023).opMarks,
            (cluster t 63).shmMarks].zipIdx.all fun e =>
              e.1.corr == if [1023, 3071, 5119, 1087].getD e.2 0 = place then [4] else [3, 4]))
    && (let s := updTile world 0 fun tl => { tl with
          view := [(3, Unit64.empty), (4, Unit64.empty)], wbuf := [(4, Unit64.empty)] };
      ends (exec (.viewDrop 0 3) s) (fun t => (smKeys (tile t 0).view) == [4])
      && nextIs (exec (.viewDrop 0 4) s) s) = true := by decide +kernel

/-- A load of 8 bytes at 64 on its way to its unit. -/
def loading (fill : Bool) : State := packet 0 (.gload 64 8 0 3 [1] fill [] [] false)

theorem wit_SlicesServeAccesses_loads :
    (let s := loading false;
      let a : Acc := { asid := 0, priv := 3, write := false, fetch := false, client := 9 };
      !s.heldPages.contains (pageKey 0 64)
      && (readsHad s a (unitOff 1) 32).isNone && (readsHad s a (unitOff 1 + 32) 32).isNone
      && okVal (translate s a (unitOff 1)).2 (fun t => pteState t.pte.toNat != 1 && !pteNC t.pte.toNat)
      && !lineHas (translate s a (unitOff 1)).1 0 64 64
      && ends (exec (.sliceAccess 9) s) fun t => match (the t).body with
        | .gload _ _ _ _ todo fill _ _ _ => todo == [1] && fill
        | _ => false)
    && ends (exec (.sectorFill 9) (loading true)) (fun t =>
      let t := { t with net := (loading false).net };
      let a : Acc := { asid := 0, priv := 3, write := false, fetch := false, client := 9 };
      okVal (translate t a (unitOff 1)).2 (fun l => pteState l.pte.toNat != 1)
      && lineHas (translate t a (unitOff 1)).1 0 64 64
      && (match readUnit (translate t a (unitOff 1)).1 a 64 with
        | (.val _ _ false false, .val _ _ false false) => true
        | _ => false)
      && ends (exec (.sliceAccess 9) t) fun u => match (the u).body with
        | .gload _ _ _ _ todo fill _ got _ => todo == [] && !fill && got.length == 1
        | _ => false)
    && ((((match exec (.sectorFill 9) (loading true) with
        | .next t => some t
        | _ => none).bind fun (t : State) => t.lines.head?.map fun (e : Nat × Line) =>
          ends (exec (.sectorWriteback e.1) t) fun u => (smFind u.lines e.1).any fun (l : Line) => l.dirty == 0)).getD false)
    && (let s := packet 0 (.gload (2 ^ 40) 8 0 3 [2 ^ 34] false [] [] false);
      ends (exec (.sliceAccess 9) s) fun t => match (the t).body with
        | .reply _ none (some _) => true
        | _ => false) = true := by decide +kernel

theorem wit_SlicesServeAccesses_others :
    (let a : Acc := { asid := 0, priv := 3, write := true, fetch := false, client := 9 };
      let s := packet 0 (.probe 64 8 0 3);
      let bad := packet 0 (.probe (2 ^ 40) 8 0 3);
      (spanPages 64 8).all (fun o => !s.heldPages.contains (pageKey 0 o))
      && (pagesTest s a (spanPages 64 8)).2 == 0
      && ends (exec (.sliceAccess 9) s) (fun t => (the t).body == .reply 0 none none)
      && (pagesTest bad a (spanPages (2 ^ 40) 8)).2 != 0
      && ends (exec (.sliceAccess 9) bad) fun t => match (the t).body with
        | .reply 0 none (some _) => true
        | _ => false)
    && ([0, 0x0E].all fun op =>
      let s := packet 0 (.gamo 64 0 3 op 8 7 0 none 0);
      let a : Acc := { asid := 0, priv := 3, write := op != 0x0E, fetch := false, client := 9 };
      s.fwds == [] && okVal (translate s a 64).2 (fun t => pteState t.pte.toNat != 1)
      && ends (exec (.sliceAccess 9) s) fun t => match (the t).body with
        | .gamo _ _ _ _ _ _ _ pa _ => pa == some 64
        | _ => false)
    && ([0, 0x0E].all fun op =>
      let s := packet 0 (.gamo 64 0 3 op 8 7 0 (some 64) 0);
      let r := sectorRead (expelSector s 0 64).hbm 0 0 2;
      decide (r.2 < 2) && (amoWrites op 8 (getBytes r.1 0 8) 7 0).isNone == (op == 0x0E)
      && ends (exec (.memorySideAmo 9) s) fun t => match (the t).body with
        | .reply 0 none none => true
        | _ => false) = true := by decide +kernel

theorem wit_SlicesServeAccesses_functions :
    ([(64, 8, 0), (64, 8, 1), (2 ^ 52 - 4, 8, 0), (2 ^ 40, 8, 0)].all fun e : Nat × Nat × Nat =>
      let write := e.2.2 == 1
      let a : Acc := { asid := 0, priv := 3, write := write, fetch := false, client := 9 }
      let s := packet 0 (.vf 0 0 write e.1 e.2.1 5)
      let r := if write then gWrite s a e.1 8 5 (fullMask 8) else gRead s a e.1 8
      vfOldest s 9 0
      && (match r with
        | .ok .. => e.1 == 64
        | .fault .. => e.1 != 64
        | _ => false)
      && ends (exec (.sliceAccess 9) s) fun t => t.net == []) = true := by decide +kernel

theorem wit_PhasesAndTranslationCommandsComplete :
    ([true, false].all fun arrived =>
      let s := { world with launches := (launched id).launches };
      let s := updThr s ⟨0, 0⟩ fun th =>
        { th with launch := 7, units := [0], st := .waiting (.phase 0 63 63) 0 };
      let s := updTile s 0 fun tl => { tl with probed := [5], view := [(3, Unit64.empty)] };
      let s := if arrived then s else setThr s ⟨0, 1⟩ { thr s ⟨0, 0⟩ with st := .ready };
      let g := phaseGroup s (thr s ⟨0, 0⟩) 0;
      groupArrived g 0 == arrived && if arrived then (publishTiles s (groupTiles g)).2
        && (groupPerform g (publishTiles s (groupTiles g)).1).isSome
        && ends (exec (.phaseComplete 0 0) s) fun t => (thr t ⟨0, 0⟩).st == .ready
          && (tile t 0).probed == [] && (tile t 0).view == []
      else nextIs (exec (.phaseComplete 0 0) s) s)
    && (let s := waits (.ifence 0) (setTile world 1 { tile world 1 with icache := [(0, 0)] });
      ends (exec (.ifenceComplete 0 0) s) fun t => (tile t 1).icache == [(0, 0)]
        && (tile t 0).icache == [] && (thr t ⟨0, 0⟩).st == .ready)
    && ([1, 3, 4, 5].all fun op =>
      let c : XlCmd := { id := 9, op := op, asid := 0x10, own := 0, done := 0, bits := 0, fault := false,
                         va := 0, count := 1, out := own 0, tile := 0, rec_ := 0, cue := 0, dword0 := 0,
                         tid := ⟨0, 0⟩ };
      let s := { world with xl := [c] };
      let i : Instr := if op = 1 then .xlInvpage 9 else if op = 3 then .xlRetire 9
        else if op = 4 then .xlActivate 9 else .xlHarvest 9;
      let e := { s with xl := [{ c with done := 1 }] };
      xlOf s 9 op == some c && !genActive s 0x10 && isRetired s 0x10
      && ends (exec i s) (fun t => decide (t.xl.length ≤ 1))
      && (op != 5 || ends (exec i e) fun t => t.xl == [])) = true := by decide +kernel

/-- An op packet of partition 0 from this package, of these words, as a request. -/
def opPacket (ws : List Nat) : State :=
  packet 0 (.rreq true 0 3 { kind := 2, part := 0, addr := BitVec.ofNat 64 (ws.getD 1 0), priv := 2,
                             aspc := 0, data := ws.map (BitVec.ofNat 64) })

/-- The reply that packet 9 has become holds these five words first. -/
def replied (i : Instr) (s : State) (ws : List Word) : Bool :=
  ends (exec i s) fun t => match (the t).body with
    | .rrep 3 data none => (data.drop 5).take ws.length == ws
    | _ => false

/-- The hypotheses that every op packet's clause shares. -/
def opReady (s : State) : Bool :=
  match (the s).body with
  | .rreq _ _ _ q =>
    let p := reqOp q
    let a := reqAcc 9 q.part q.aspc q.priv p.writes
    q.kind == tyRamo && reqOldest s (the s) && partTakes s q.part == some true && !p.illegal
    && !s.heldPages.contains (pageKey a.asid p.off) && p.off % p.align == 0
    && (fwdHad s a (p.off / 32) (.op (p.w.map w64))).isNone
    && okVal (translate s a p.off).2 fun t => !isRemote t
      && !unitBusy (translate s a p.off).1 9 (pteGran t.pte.toNat)
        (leafPa t.pte.toNat t.big p.off)
  | _ => false

theorem wit_OpPacketsRunAtTheirUnit_words :
    ([([0x0F, 64], opIllegal), ([0, 64 + 2 ^ 52], opIllegal), ([0x108, 68], opAlign)].all
      fun e : List Nat × Nat =>
        let s := opPacket (e.1 ++ List.replicate 6 0); replied (.opAmo 9) s (opReply e.2 0 0 []))
    && (let s := opPacket [0x109, 64, 5, 7, 0, 0, 0, 0];
      opReady s && replied (.opAmo 9) s (opReply opFail 0 0 [0]))
    && ([0x0E, 0x108, 0x100].all fun op => let s := opPacket [op, 64, 7, 0, 0, 0, 0, 0];
      opReady s && replied (.opAmo 9) s (opReply 0 0 0 [0]))
    && (let s := opPacket [0x10, 64, 0, 0, 1, 2, 0, 0];
      opReady s && replied (.opCas2 9) s (opReply 0 0 0 [0, 0]))
    && (let s := opPacket [0x11, 64, 2 ^ 32, 0, 1, 2, 0, 0];
      opReady s && replied (.opCas4 9) s (opReply opFail 0 2 [0, 0]))
    && (let s := opPacket [0x12, 64, 128, 0, 0, 0, 0, 0];
      opReady s && replied (.opLenq 9) s (opReply 0 0 0 []))
    && (let s := opPacket [0x13, 64, 0, 0, 0, 0, 0, 0];
      opReady s && replied (.opLdeq 9) s (opReply opEmpty 0 0 []))
    && (let s := opPacket [0x14, 64, 1, 0, 0, 0, 0, 0];
      opReady s && ends (exec (.opChase 9) s) fun t => match (the t).body with
        | .rreq _ _ _ q => !(reqChase q).onKey
        | _ => false)
    && (let s := opPacket [0x14, 64, 0, 0, 0, 0, 0, 0];
      opReady s && replied (.opChase 9) s (opReply 0 0 0 [64])) = true := by decide +kernel

/-- A queue or chain through memory: the words at these physical addresses. -/
def chained (ws : List Nat) (l : List (Nat × Nat)) : State :=
  let s := opPacket ws
  { s with hbm := l.foldl (fun h e => physPut64 h e.1 e.2) s.hbm }

theorem wit_OpPacketsRunAtTheirUnit_nodes :
    (let s := chained [0x12, 64, 128, 0, 0, 0, 0, 0] [(64, 96), (72, 96)];
      opReady s && replied (.opLenq 9) s (opReply 0 0 0 []))
    && ([0, 160].all fun next =>
      let s := chained [0x13, 64, 0, 0, 0, 0, 0, 0] [(64, 96), (72, 160), (96, next)]
      opReady s && replied (.opLdeq 9) s (opReply 0 0 0 [96]))
    && ([(0, 2, opEnd), (96, 1, opLimit), (96, 2, 0)].all fun e : Nat × Nat × Nat =>
      let s := chained [0x14 + e.2.1 * 4096, 64, 1, 0, 0, 0, 0, 0, 64, 0, 1] [(64, e.1)]
      opReady s && if e.2.2 = 0 then ends (exec (.opChase 9) s) fun t => match (the t).body with
          | .rreq _ _ _ q => reqChase q == ⟨96, 1, true⟩
          | _ => false
        else replied (.opChase 9) s (opReply e.2.2 1 0 (if e.1 = 0 then [] else [96]))) = true := by
  decide +kernel

theorem wit_OpPacketsRunAtTheirUnit_pages :
    ([(RunState.idle, 0), (.running, 1), (.stopped, 2)].all fun e : RunState × Nat =>
      let s := packet 0 (.fwdHere true .read 64 0 0 2 0 3)
      let s := updPart s 0 fun p => { p with run := e.1 }
      fwdOldest s 9 0 64 && (partTakes s 0).isNone == (e.2 == 2)
      && (match fwdAct s (reqAcc 9 0 0 2 false) 64 .read, gRead s (reqAcc 9 0 0 2 false) 64 32 with
        | .ok _ _ _, .ok _ _ _ => true
        | _, _ => false)
      && if e.2 = 2 then nextIs (exec (.forwardedPageAccess 9) s) s
        else ends (exec (.forwardedPageAccess 9) s) fun t => match (the t).body with
          | .rrep 3 _ f => f.isSome == (e.2 == 0)
          | _ => false)
    && (let s := packet 0 (.fwdHere true .read (2 ^ 40) 0 0 2 0 3);
      fwdOldest s 9 0 (2 ^ 40) && (match fwdAct s (reqAcc 9 0 0 2 false) (2 ^ 40) .read with
        | .fail .. => true
        | _ => false)
      && ends (exec (.forwardedPageAccess 9) s) fun t => match (the t).body with
        | .rrep 3 _ (some _) => true
        | _ => false)
    && ([6, 5].all fun k =>
      let o : Outst := { rtag := 3, id := 1, tid := ⟨0, 0⟩, tile := 0, sent := 0, fail := 0, kind := k }
      let q : FwdReq := { client := 7, rtag := 3, op := .read, asid := 0, unit := 2, answer := none }
      let s := { packet 0 (.fwdFail 3) with outst := [o], fwds := [q] }
      s.outst.find? (fun o => o.rtag == 3) == some o
      && ends (exec (.remotePageFail 9) s) fun t => t.outst == []) = true := by decide +kernel

/-- A command of the thread of `world` on port 0, numbered 5. -/
def command (cmd : Nat) (a b : Word) (e : List Word) (started : Bool) (done : Nat) : Command :=
  { id := 5, port := 0, cmd := cmd, a := a, b := b, snap := { takeSnap world 0 with e := e },
    done := done, started := started, srcA := 0, srcB := 0, scales := none, seen := [] }

/-- `world` with tile 0 changed. -/
def tiled (f : Tile → Tile) : State := updTile world 0 f

theorem wit_MatrixEngineRunsItsQueue_accept :
    (let c := command cmdZero 3 0 [] false 0;
      let s := tiled fun tl => { tl with mArrivals := [c] };
      let full := tiled fun tl => { tl with mArrivals := [c], mQueue := List.replicate 16 c };
      let no := tiled fun tl => { tl with mArrivals := [command cmdMma 0 0 [] false 0] };
      (refuseMatrix s 0 [] c).isNone && c.snap.task.isNone
      && ends (exec (.matrixAccept 0) s) (fun t => (tile t 0).mQueue == [c])
      && nextIs (exec (.matrixAccept 0) full) full
      && (refuseMatrix no 0 [] (command cmdMma 0 0 [] false 0)).isSome
      && ((refuseMatrix no 0 [] (command cmdMma 0 0 [] false 0)).any fun st =>
        nextIs (exec (.matrixAccept 0) no) (acceptThread (cmdSignal
          (updTile no 0 fun tl => freeGone { tl with mArrivals := [] }) ⟨0, 0⟩ 0
          (command cmdMma 0 0 [] false 0).snap.cue (some (st, 0))) (command cmdMma 0 0 [] false 0)))) = true := by decide +kernel

theorem wit_MatrixEngineRunsItsQueue_start :
    ([command cmdLoad 15 (own 0) [] false 0, command cmdZero 3 0 [] false 0,
        command cmdZero 3 0 [] true 0].all fun c =>
      let s := tiled fun tl => { tl with mQueue := [c] }
      matrixCmd s 0 5 == some c && matrixReady (tile s 0) c == !c.started
      && ends (exec (.matrixStart 0 5) s) fun t => (tile t 0).mQueue.all (·.started))
    && (let s := tiled fun tl => { tl with mQueue := [command cmdZero 3 0 [] false 0] };
      nextIs (exec (.matrixComplete 0 5) s) s)
    && (let s := tiled fun tl => { tl with mQueue := [command cmdZero 3 0 [] true 0] };
      ends (exec (.matrixComplete 0 5) s) fun t => (tile t 0).mQueue == []) = true := by decide +kernel

theorem wit_MatrixEngineRunsItsQueue_rows :
    ([(0, false), (1, false), (0, true)].all fun e : Nat × Bool =>
      [cmdLoad, cmdTov].all fun cmd =>
      let c := command cmd 3 (own 0) [0x100] true e.1
      let s := tiled fun tl => { tl with mQueue := [c], spadMarks := ⟨[], if e.2 then [0] else []⟩ }
      matrixCmd s 0 5 == some c
      && (e.1 == 1 || match matrixRows 0 1 c s with
        | .done .. => !e.2 || cmd == cmdTov
        | .stop .. => e.2
        | _ => false)
      && ends (exec (.matrixComplete 0 5) s) fun t => (tile t 0).mQueue == []) = true := by
  decide +kernel

/-- mmas without tags and with a META slot of zeros, whose groups keep no positions; a slot of valid
groups is 16 KB, beyond a test. mdrain of the last row it has done, and of a row with a bad word. -/
theorem wit_MatrixEngineRunsItsQueue_sparse :
    ([(0, 0x0904), (1, 0x0906)].all fun e : Nat × Nat =>
      let c := command cmdMmas 0 1 [2 ^ 8 * 4 + 2 ^ 4 * 9] true 0
      let tags := (List.range 4).map fun n => (n, SlotTag.mk (if n = 0 then 1 else e.1) 0)
      let s := tiled fun tl => { tl with mQueue := [c], slotTag := tags }
      let r := sparseStep (tile s 0) (sparseArgs c)
      matrixCmd s 0 5 == some c && r.2 == some (e.2, 0)
      && nextIs (exec (.matrixComplete 0 5) s) (matrixFinish (setTile s 0 r.1) 0 c r.2))
    && ([(1, false), (0, true)].all fun e : Nat × Bool =>
      let c := command cmdDrain 0 (own 0) [0x100] true e.1
      let s := tiled fun tl => { tl with mQueue := [c], opMarks := ⟨[], if e.2 then [accBase] else []⟩ }
      matrixCmd s 0 5 == some c && match matrixRows 0 (rowCount c - c.done) c s with
        | .done d u => !e.2 && (match drainLen 0 d u with
          | .done d' u' => nextIs (exec (.matrixComplete 0 5) s) (matrixFinish u' 0 d' none)
          | _ => false)
        | .stop d u st => e.2
          && nextIs (exec (.matrixComplete 0 5) s) (matrixFinish u 0 d (some (st, d.done)))
        | _ => false) = true := by decide +kernel

theorem wit_MatrixEngineRunsItsQueue_mma :
    ([1, 0].all fun fmt =>
      let c := command cmdMma 0 1 [] true 0
      let s := tiled fun tl => { tl with mQueue := [c], slotTag := [(0, ⟨fmt, 0⟩), (1, ⟨fmt, 0⟩)] }
      matrixCmd s 0 5 == some c
      && (pairOf (presentTag (tile s 0) 0) (presentTag (tile s 0) 1)).isSome == (fmt == 1)
      && okVal (denseStep (tile s 0) 0 1 0) (fun _ => true) == (fmt == 1)) = true := by decide +kernel

theorem wit_MatrixEngineRunsItsQueue_mgemm :
    ([0, 1].all fun done =>
      let c := command cmdGemm (own 1) (own 2) [2 ^ 32] true done
      let s := tiled fun tl => { tl with mQueue := [c] }
      matrixCmd s 0 5 == some c && decide (done < gemmSteps c) == (done == 0)
      && nextIs (exec (if done = 0 then .matrixComplete 0 5 else .mgemmStep 0 5) s) s
      && ends (exec (if done = 0 then .mgemmStep 0 5 else .matrixComplete 0 5) s) fun t =>
        (tile t 0).mQueue == []) = true := by decide +kernel

theorem wit_MatrixEngineRunsItsQueue_claims :
    ([(0, [(16, Holder.thread ⟨0, 3⟩)]), (1, [])].all fun e : Nat × SMap Holder =>
      let c : Claim := ⟨5, ⟨0, 0⟩, 0x90000⟩
      let s := waits .claim (tiled fun tl => { tl with claims := [c], holders := e.2 })
      claimReady (tile s 0) c == (e.1 == 1) && if e.1 = 0 then nextIs (exec (.mclaimGrant 0 5) s) s
      else ends (exec (.mclaimGrant 0 5) s) fun t => (tile t 0).holders
        == [(16, .thread ⟨0, 0⟩), (19, .thread ⟨0, 0⟩)])
    && ([(0, [command cmdZero 3 0 [] true 0]), (1, [])].all fun e : Nat × List Command =>
      let c : Claim := ⟨5, ⟨0, 0⟩, 0x90000⟩
      let s := waits .release (tiled fun tl => { tl with
        releases := [c], mQueue := e.2, holders := [(3, .gone), (16, .gone), (19, .gone)] })
      releaseReady (tile s 0) c == (e.1 == 1) && if e.1 = 0 then nextIs (exec (.mrelFree 0 5) s) s
      else ends (exec (.mrelFree 0 5) s) fun t => (tile t 0).holders == [(3, .gone)]) = true := by
  decide +kernel

/-- A copy of `n` bytes within the own scratchpad, numbered 5. -/
def copying (n : Nat) (dst src : Word) : Command :=
  { command 0 dst src [BitVec.ofNat 64 n] false 0 with port := 1 }

theorem wit_ClusterUnitsRunTheirQueues_stagehand :
    ([(copying 4 (own 64) (own 128), [], 1), (copying 4 (own 64) (own 66), [], 0),
        (copying 0 (own 64) (own 64), [], 0),
        (copying 4 (own 64) (own 128), List.replicate 64 (copying 1 0 0), 64)].all
      fun e : Command × List Command × Nat =>
      let s := setCluster world 0 { Cluster.zero with shArrivals := [e.1], shQueue := e.2.1 }
      shNext s [e.1] == some e.1
      && (decide (copyTotal e.1 = 0) || e.2.2 == 64 || (refuseCopy s e.1).isNone == (e.2.2 == 1))
      && ends (exec (.stagehandAccept 0) s) fun t => (cluster t 0).shQueue.length == e.2.2)
    && ([0, 8].all fun n =>
      let s := setCluster world 0 { Cluster.zero with
        shQueue := [copying 4 (own 64) (own 128)], shRunning := List.replicate n (copying 1 0 0) }
      ends (exec (.stagehandStart 0) s) fun t => (cluster t 0).shRunning.length == max n 1)
    && ([(copying 2 (own 64) (own 128), 0, false), (copying 2 (own 64) (own spadSize), 0, true),
        (copying 2 (own 64) (own 128), 2, false)].all fun e : Command × Nat × Bool =>
      let c := { e.1 with done := e.2.1, started := true }
      let s := setCluster world 0 { Cluster.zero with shRunning := [c] }
      (match copyRun (copyTotal c - c.done) c s with
        | .done _ _ => !e.2.2
        | .stop _ _ _ => e.2.2
        | .wait _ => false)
      && ends (exec (.stagehandComplete 0 5) s) fun t => (cluster t 0).shRunning == [])
    = true := by decide +kernel

/-- A task of queue 3 that copies nothing, of `world`'s thread. -/
def task : Option Task := parseTask world 8 3 taskRecord

theorem wit_ClusterUnitsRunTheirQueues_tasks :
    (task.any fun t =>
      let s := setCluster world 0 { Cluster.zero with waiting := [t] }
      nextQueue s 0 == some 3 && queueHead (cluster s 0) 3 == some t && t.port == 1
      && ends (exec (.taskStart 0 3) s) (fun u => (cluster u 0).running.length == 1)
      && nextQueue s 0 != some 2 && nextIs (exec (.taskStart 0 2) s) s
      && (let r := setCluster world 0 { Cluster.zero with running := [{ t with finished := some (0, 4) }] };
        (cluster r 0).running.find? (fun x => x.id == t.id) == some { t with finished := some (0, 4) }
        && ends (exec (.taskRetire 0 t.id) r) fun u => (cluster u 0).running == [])) = true := by
  decide +kernel

/-- An entry of a swap command of `world`'s thread. -/
def entry (op stage status : Nat) : SwapEntry :=
  { SwapEntry.fresh 6 { command op (own 64) 1 [] true 0 with port := 3 } 0 with
    stage := stage, status := status, unitsLeft := 1, pteAt := 0x60000 }

theorem wit_ClusterUnitsRunTheirQueues_swap :
    ([(1, own 64, 1), (4096, own 0, 4096), (4097, own 0, 0)].all fun e : Nat × Word × Nat =>
      let c := { command cmdSwppull e.2.1 (BitVec.ofNat 64 e.1) [] false 0 with port := 3 }
      let s := { world with swapArrivals := [(0, c)] }
      swapRefused c == (e.2.2 == 0) && !departed s c.snap.tid
      && (e.1 == 4096 || ends (exec (.swapAccept 0) s) fun t => t.swapEntries.length == e.2.2))
    && (let e := entry cmdSwpin 0 0;
      let s := tiled fun tl => { tl with spadMarks := ⟨[], [8]⟩ };
      let s := { s with swapEntries := [e] };
      (match agentRead s (swapAgent s e) e.rec_ 32 with
        | .ok _ _ b => b
        | _ => false)
      && ends (exec (.swapEntryDone 6) s) fun t => t.swapEntries == [])
    && ([entry cmdSwpout 2 0, entry cmdSwpin 2 3, entry cmdSwpin 2 0].all fun e =>
      let s := { world with swapEntries := [e] }
      s.swapEntries.find? (fun x => x.id == 6) == some e
      && ends (exec (.swapEntryDone 6) s) fun t => t.swapEntries == [])
    && ([(true, 2), (false, 2)].all fun e : Bool × Nat =>
      let x := entry cmdSwpout 1 0
      let s := { world with swapEntries := [x] }
      ends (exec (.flashUnitReply 6 e.1 0) s) fun t => t.swapEntries.all fun y => y.stage == e.2
        && (y.status == 3) == e.1) = true := by decide +kernel

theorem wit_ClusterUnitsRunTheirQueues_streams :
    (let b := { parseStream 0 with kind := 0, base := own 0, count := 1, priv := 2 };
      let s := fun (b : Stream) => updThr world ⟨0, 0⟩ fun th => { th with streams := [(7, b)] };
      let far := { b with base := own (spadSize - 64) };
      streamFetches b && okVal (streamEntry (s b) ⟨0, 0⟩ b 0) (fun _ => true)
      && ends (exec (.streamFetch 0 0 7) (s b)) (fun t =>
        (smFind (thr t ⟨0, 0⟩).streams 7).any (·.fifo == [⟨0, 0, false⟩]))
      && errVal (streamEntry (s far) ⟨0, 0⟩ far 0) (fun _ => far.err == 0)
      && ends (exec (.streamFetch 0 0 7) (s far)) (fun t =>
        (smFind (thr t ⟨0, 0⟩).streams 7).any (·.marked))
      && (let w := fun (b : Stream) => { b with kind := 1, fifo := [⟨0, 5, false⟩] };
        okVal (streamPut (s (w b)) ⟨0, 0⟩ (w b) 0 5) (fun _ => true)
        && ends (exec (.streamWrite 0 0 7) (s (w b))) (fun t => readLE (tile t 0).spad 0 8 == 5)
        && errVal (streamPut (s (w far)) ⟨0, 0⟩ (w far) 0 5) (fun _ => (w far).st != 3)
        && ends (exec (.streamWrite 0 0 7) (s (w far))) (fun t =>
          (smFind (thr t ⟨0, 0⟩).streams 7).any (·.st == 3)))) = true := by decide +kernel

theorem wit_MatrixEngineRunsItsQueue_mgemm_step :
    (let c := command cmdGemm (pWith (BitVec.ofNat 64 (2 ^ 53 + 2 ^ 58)) 0) (pWith (BitVec.ofNat 64 (2 ^ 53 + 2 ^ 58)) 0) [2 ^ 32, 64, 64] true 0;
      let s := tiled fun tl => { tl with mQueue := [c] };
      matrixCmd s 0 5 == some c && (match (gemmStep 0 c s).2 with
        | .ok _ => true
        | _ => false)) = true := by decide +kernel

theorem wit_CueAndMessageEvents_limits :
    ([0, 1].all fun n =>
      let s := waits (.cueTimed (.tile 0 1) 5 n) (tiled fun tl => { tl with cues := [(1, Cue.zero)] })
      let r := waits (.recvt 5 n) world
      (if n = 1 then nextIs (exec (.cwaittLimit 0 0) s) s && nextIs (exec (.recvtLimit 0 0) r) r
       else ends (exec (.cwaittLimit 0 0) s) (fun t => (thr t ⟨0, 0⟩).st == .ready)
        && ends (exec (.recvtLimit 0 0) r) fun t => (thr t ⟨0, 0⟩).st == .ready)) = true := by
  decide +kernel

theorem wit_CueAndMessageEvents_messages :
    ([(7, true), (8, true), (0, false)].all fun e : Nat × Bool =>
      let s := packet 0 (.msg ⟨0, 1⟩ 77)
      let s := if e.2 then setThr s ⟨0, 1⟩ { thr s ⟨0, 0⟩ with mailbox := List.replicate e.1 0 } else s
      homePlace s ⟨0, 1⟩ == ⟨0, 1⟩ && !departed s ⟨0, 1⟩ && mailLive s ⟨0, 1⟩ == e.2
      && if e.1 = 8 then nextIs (exec (.messageDelivery 9) s) s
        else ends (exec (.messageDelivery 9) s) fun t => t.net == []
          && (thr t ⟨0, 1⟩).mailbox == if e.2 then List.replicate 7 0 ++ [77] else [])
    && (let s := tiled fun tl => { tl with heldEvents := [(⟨0, 0⟩, 5)] };
      mailLive s ⟨0, 0⟩ && ends (exec (.eventDelivery 0) s) fun t => (thr t ⟨0, 0⟩).mailbox == [5])
    && (let s := { world with hypEvents := [(⟨0, 0⟩, 6)] };
      ends (exec (.eventDelivery 1024) s) fun t => (thr t ⟨0, 0⟩).mailbox == [6]) = true := by
  decide +kernel

theorem wit_CueAndMessageEvents_loss :
    (let s := tiled fun tl => { tl with heldEvents := [(⟨0, 0⟩, 5)], loss := [0] };
      mailLive s ⟨0, 0⟩ && ends (exec (.eventDelivery 0) s) fun t =>
        (thr t ⟨0, 0⟩).mailbox == [0x80000000000005] && (tile t 0).loss == [])
    && (let s := { world with hypEvents := [(⟨0, 0⟩, 6)], hypLoss := [⟨0, 0⟩] };
      ends (exec (.eventDelivery 1024) s) fun t =>
        (thr t ⟨0, 0⟩).mailbox == [0x80000000000006] && t.hypLoss == []) = true := by decide +kernel

theorem wit_CueAndMessageEvents_pairMerge :
    ([(true, none, false, 2), (true, some 7, false, 2), (false, some 7, false, 2),
      (false, none, false, 2), (true, none, true, 2), (false, some 7, true, 2),
      (true, none, false, 3)].all fun e : Bool × Option VWord × Bool × Nat =>
      let s := waits (.pmx 3 0 e.2.2.2 1 5 true e.2.1)
        (packet 0 (.pmx 0 3 0 2 1 true e.1 0 e.2.2.1))
      let s0 := dropPkt s 9
      pmxSends s ⟨0, 0⟩ 3 && (pmxWaits s 0).find? (fun w => pmxKey w.2 == some 3)
        == some (⟨0, 0⟩, .pmx 3 0 e.2.2.2 1 5 true e.2.1)
      && match e.1, e.2.1 with
        | false, some _ => ends (exec (.pmxContribution 9) s) fun t =>
          (thr t ⟨0, 0⟩).wait?.isNone && ((thr t ⟨0, 0⟩).st == .parked) == e.2.2.1
        | true, none => nextIs (exec (.pmxContribution 9) s) (if e.2.2.2 = 3 then s0
          else if e.2.2.1 then retryTile (parkThread (chargeSram s0 0 3) ⟨0, 0⟩ 6) 0
          else pmxDone s0 ⟨0, 0⟩ 5 0)
        | f, _ => nextIs (exec (.pmxContribution 9) s) (if f then s0 else s))
    && ([(true, 0, true, 0), (false, 0, true, 0), (false, 0, true, 1), (false, 0, false, 1),
        (false, savedBase, true, 0)].all fun e : Bool × Nat × Bool × Nat =>
      let s := packet 0 (.pmx e.2.1 3 0 2 1 true e.1 0 false)
      let s := setThr s ⟨1, 0⟩ { thr s ⟨0, 0⟩ with
        home := 1, st := if e.2.2.1 then .waiting (.pmx 3 0 2 0 5 true none) 0 else .ready }
      let s := updThr { s with net := s.net.map fun k => { k with src := ⟨1, 0⟩ } } ⟨0, 0⟩ fun th =>
        { th with launch := th.launch + e.2.2.2 }
      (pmxWaits s 0).isEmpty && pmxSends s ⟨1, 0⟩ 3 == e.2.2.1
      && pmxAwaited s ⟨1, 0⟩ 0 == (e.2.2.2 == 0)
      && nextIs (exec (.pmxContribution 9) s)
        (if e.2.1 == savedBase || (!e.1 && e.2.2.2 == 0) then s else dropPkt s 9))
    && ([0, 7, 8].all fun n =>
      let s := updTile (packet 0 (.pmsend 0 7 255 5)) 0 fun tl =>
        { tl with pmEntries := List.replicate n ⟨1, 0, 0, false⟩ }
      !pmEarlier s 9 0 7 255 && pmWaiters s 0 7 255 == []
      && (pmWaiters (waits (.pmrecv 7 255 3) s) 0 7 255).length == 1
      && if n = 8 then nextIs (exec (.pmsendArrival 9) s) s
        else ends (exec (.pmsendArrival 9) s) fun t => (tile t 0).pmEntries.length == n + 1) = true := by
  decide +kernel

/-- A request of this package's rank 0, as packet 9. -/
def request (kind : Nat) (addr : Word) (data : List Word) : State :=
  packet 0 (.rreq true 0 3 { kind := kind, part := 0, addr := addr, priv := 2, aspc := 0, data := data })

/-- Packet 9 has become a reply with this failure and these first words. -/
def answers (i : Instr) (s : State) (f : Option Failure) (ws : List Word) : Bool :=
  ends (exec i s) fun t => match (the t).body with
    | .rrep 3 data g => g == f && data.take ws.length == ws
    | _ => false

theorem wit_RankRequestsActAndAnswer_requests :
    (let s := request 0 64 []; let r := request 1 64 [0x77]; let bad := request 0 (2 ^ 40) [];
      let a := reqAcc 9 0 0 2 false; let w := reqAcc 9 0 0 2 true;
      let is := fun (x : Except Cause Target) (o : Nat) => okVal x (· == .glob o);
      reqOldest s (the s) && partTakes s 0 == some true
      && is (resolve s ⟨0, none⟩ 1024 none 64 8) 64
      && (match gRead s a 64 8 with
        | .ok _ _ b => !b
        | _ => false) && answers (.remoteRequest 9) s none [0]
      && (match gRead bad a (2 ^ 40) 8 with
        | .fault _ _ => true
        | _ => false) && is (resolve bad ⟨0, none⟩ 1024 none (2 ^ 40) 8) (2 ^ 40)
      && (match gWrite r w 64 8 0x77 (fullMask 8) with
        | .ok _ _ _ => true
        | _ => false) && answers (.remoteRequest 9) r none []
      && (let idle := updPart s 0 fun p => { p with run := .idle };
        answers (.remoteRequest 9) idle (some ⟨.pageLost, 8⟩) [])
      && (let held := updPart s 0 fun p => { p with run := .stopped };
        nextIs (exec (.remoteRequest 9) held) held)
      && (let young := { s with net := { the s with id := 8 } :: s.net };
        !reqOldest young (the young) && nextIs (exec (.remoteRequest 9) young) young)
      && ([(7, none), (8, some (Failure.mk .addr 0))].all fun e : Nat × Option Failure =>
        let c := request 4 (BitVec.ofNat 64 (255 * 2 ^ 32 + e.1 * 2 ^ 16)) [3];
        (ltilePhys c 0 e.1).isNone == e.2.isSome && answers (.remoteRequest 9) c e.2 [])
      && ([(8, 3), (7, 2)].all fun e : Nat × Nat =>
        let c := request 3 (BitVec.ofNat 64 (e.1 * 2 ^ 16)) (List.replicate 8 0);
        answers (.spawnrAdmission 9) c none [BitVec.ofNat 64 e.2]
        && (parseDesc 0).isSome && (parseDesc 1).isNone
        && (spawnrJudge c 0 e.1 1).1 == e.2)) = true := by decide +kernel

/-- An outstanding request of `world`'s thread. -/
def asked (kind sent : Nat) : Outst :=
  { rtag := 3, id := 1, tid := ⟨0, 0⟩, tile := 0, sent := sent, fail := 9, kind := kind }

theorem wit_RankRequestsActAndAnswer_replies :
    ([0, 2, 3].all fun ty =>
      let s := waits (.remote 3 5 ty (own 64)) { packet 0 (.rrep 3 [7, 0, 0, 0, 0, 8] none) with
        outst := [asked ty 0] }
      let f := waits (.remote 3 5 ty (own 64)) { packet 0 (.rrep 3 [] (some ⟨.addr, 0⟩)) with
        outst := [asked ty 0] }
      !departed s ⟨0, 0⟩ && s.outst.find? (fun x => x.rtag == 3) == some (asked ty 0)
      && ends (exec (.remoteReply 9) s) (fun t => getX (thr t ⟨0, 0⟩) 5 == if ty = 2 then 8 else 7)
      && (ty == 3 || ends (exec (.remoteReply 9) f) fun t => (thr t ⟨0, 0⟩).tcause == 4))
    && ([1, 4].all fun ty =>
      let s := updThr { packet 0 (.rrep 3 [] none) with outst := [asked ty 0] } ⟨0, 0⟩
        fun th => { th with postedN := 1 }
      ends (exec (.remoteReply 9) s) fun t => (thr t ⟨0, 0⟩).postedN == 0)
    && ([0, 1, 2, 3, 4].all fun ty =>
      let s := fun (now : Nat) => waits (.remote 3 5 ty (own 64))
        { world with outst := [asked ty 5], cycle := now }
      nextIs (exec (.requestTimeout 1) (s 1048580)) (s 1048580)
      && ends (exec (.requestTimeout 1) (s 1048581)) fun t => t.outst == []) = true := by
  decide +kernel

theorem wit_RankRequestsActAndAnswer_others :
    (let s := waits (.remote 3 5 0 (own 64)) { packet 0 (.rrep 3 [7, 1] none) with outst := [asked 0 0] };
      ends (exec (.remoteReply 9) s) fun t => (thr t ⟨0, 0⟩).st == .parked)
    && (let s := waits (.remote 3 5 3 (own 64))
          { packet 0 (.rrep 3 [] (some ⟨.addr, 0⟩)) with outst := [asked 3 0] };
      ends (exec (.remoteReply 9) s) fun t => getX (thr t ⟨0, 0⟩) 5 == 4)
    && ([(none, [5]), (some (Failure.mk .page 1), []), (some ⟨.pageLost, 8⟩, [])].all
      fun e : Option Failure × List Word =>
      let s := { packet 0 (.rrep 3 e.2 e.1) with outst := [{ asked 5 0 with tid := deadTid }] }
      !departed s deadTid && ends (exec (.remoteReply 9) s) fun t =>
        if e.1 == some ⟨.pageLost, 8⟩ then (the t).body == .fwdFail 3 else t.net == [])
    && ([5, 6].all fun ty =>
      let s := { world with outst := [asked ty 5], cycle := 1048581 }
      ends (exec (.requestTimeout 1) s) fun t => t.net == [⟨s.fresh, deadTid, 0, .fwdFail 3⟩])
    && ([(false, 0, 2), (true, 0, 1), (true, 1, 0)].all fun e : Bool × Nat × Nat =>
      let s := updTile (packet 0 (.cueSig 0 0 0 0)) 0 fun tl =>
        { tl with threads := [], troupes := [(0, { Troupe.zero with radm := e.1, quota := e.2.1 })] }
      ltilePhys s 0 0 == some 0 && (parseDesc 0).any (fun d => d.priv == 0)
      && (spawnrJudge s 0 0 0).1 == e.2.2
      && (thr (spawnrJudge s 0 0 0).2 ⟨0, 0⟩).live == (e.2.2 == 0)) = true := by decide +kernel

/-- `world` in a ring of two packages along x, itself 0, with port 0 so. -/
def linked (p : Port) : State :=
  { world with ports := [(0, p)],
               mgmt := { world.mgmt with cfg := { world.mgmt.cfg with dims := 0x100, porten := 3 } } }

/-- A flit with its CRC. -/
def signed (flit : BitVec 512) (link : BitVec 32) : BitVec 32 :=
  BitVec.ofNat 32 (crc32c (flitBytes flit link))

theorem wit_LinksCarryFlits_flits :
    (let s := linked { Port.zero with naks := 7, replay := [(0, 5, 0), (1, 6, 0)], rxSeq := 4095 };
      let link : BitVec 32 := 0xFFF00010; let data : BitVec 32 := 0xFFF00000;
      portLive s 0 && crc32c (flitBytes 0 link) == (signed 0 link).toNat
      && ends (exec (.flitReceive 0 0 link (signed 0 link)) s) (fun t =>
        (port t 0).rxSeq == 0 && (port t 0).naks == 0)
      && ends (exec (.flitReceive 0 0 data (signed 0 data)) s) (fun t => (port t 0).rxSeq == 0)
      && (port s 0).progress.isNone && !(port s 0).discarding
      && ends (exec (.flitReceive 0 0 link (signed 0 link + 1)) s) (fun t =>
        (port t 0).naks == 8 && (port t 0).discarding && (port t 0).nakDue.isNone)
      && (let full := linked { Port.zero with replay := List.replicate 512 (0, 0, 0) };
        ends (exec (.flitReceive 0 0 link (signed 0 link + 1)) full) fun t =>
          (port t 0).nakDue == some 0)
      && ends (exec (.linkReplay 0 1) s) (fun t => (port t 0).out == [(6, 0, signed 6 0)])
      && ends (exec (.linkReplay 0 0) s) (fun t =>
        (port t 0).out == [(5, 0, signed 5 0), (6, 0, signed 6 0)])
      && !controlOk 2 && ends (exec (.flitReceive 0 2 link (signed 2 link)) s) (fun t =>
        (port t 0).linkErrors == 1 && (port t 0).rxSeq == 4095 && (port t 0).naks == 8)
      && (let r := linked { Port.zero with again := 2, naks := 3, rxSeq := 4095, credits := [(64, 7)] };
        let back : BitVec 512 := 7 * 2 ^ 32;
        let link : BitVec 32 := 0xFFF00010;
        ends (exec (.flitReceive 0 back link (signed back link)) r) (fun t =>
          (port t 0).credits == [(64, 7)] && (port t 0).again == 1 && (port t 0).naks == 3))
      && controlOk 0 && controlOk (BitVec.ofNat 512 (448 * 2 ^ 32 + 9 * 2 ^ 508))
      && ends (exec (.linkControlFlit 0 0) s) (fun t => (port t 0).out == [])
      && !portLive s 1 == false && !portLive s 2 && nextIs (exec (.linkReplay 2 0) s) s) = true := by
  decide +kernel

/-- A packet of one flit to `dst` at this router, and its header's flit. -/
def routed (p : Port) (dst : Nat) (stomp : Bool) : State :=
  let h : Hdr := { typ := 0, cls := 0, len := 0, pcls := 0, dpart := 0, dst := dst, src := 0, rtag := 3,
                   addr := 64, priv := 0, aspc := 0, data := [] }
  { linked p with net := [⟨9, deadTid, 0, .route 6 [packHdr h] 0 stomp 0 0⟩] }

theorem wit_LinksCarryFlits_routes :
    (let here := routed Port.zero 0 false; let gone := routed Port.zero 0 true;
      let on := routed Port.zero 0x100 false;
      let full := routed { Port.zero with credits := [(0, 9), (64, 448)] } 0x100 false;
      let down := routed { Port.zero with failed := true } 0x100 false;
      routeOldest here 9 6 0 0 && routeOldest on 9 6 0 0x100
      && nextHop on 0x100 == some (0, false) && (unpackHdr (packHdr
        { typ := 0, cls := 0, len := 0, pcls := 0, dpart := 0, dst := 0x100, src := 0, rtag := 3,
          addr := 64, priv := 0, aspc := 0, data := [] })).dst == 0x100
      && ends (exec (.packetRoute 9) here) (fun t => match (the t).body with
        | .rreq .. => true
        | _ => false)
      && ends (exec (.packetRoute 9) gone) (fun t => t.net == [])
      && hopRoom on 0 (setOf 0 (hopVc 6 0 0 0 false)) 1
      && ends (exec (.packetRoute 9) on) (fun t => t.net == [] && (port t 0).out.length == 1)
      && !hopRoom full 0 (setOf 0 (hopVc 6 0 0 0 false)) 1
      && nextIs (exec (.packetRoute 9) full) full
      && (port down 0).failed && ends (exec (.packetRoute 9) down) fun t => t.net.length == 1)
    = true := by decide +kernel

theorem wit_LinksCarryFlits_retrain :
    (let s := linked { Port.zero with naks := 8 }; let u := linked { Port.zero with naks := 7 };
      portLive s 0 && ends (exec (.linkRetrain 0) s) (fun t => (port t 0).retraining)
      && nextIs (exec (.linkRetrain 0) u) u
      && (let r := fun (now : Nat) => { linked { Port.zero with retraining := true, since := 4 } with
            cycle := now };
        nextIs (exec (.linkFail 0) (r 1500003)) (r 1500003)
        && ends (exec (.linkRetrained 0) (r 1500003)) (fun t => !(port t 0).retraining)
        && nextIs (exec (.linkRetrained 0) (r 1500004)) (r 1500004)
        && ends (exec (.linkFail 0) (r 1500004)) fun t => (port t 0).failed)) = true := by
  decide +kernel

/-- A launch of one thread on a tile, numbered 7. -/
def theLaunch : Launch :=
  { id := 7, part := 0, aspace := 0, mscopes := [0], src := .other, cpl := 0, threads := [⟨0, 0⟩],
    released := true, reserve := [] }

/-- `world` with these doublewords of the package tables. -/
def tabled (l : List (Nat × Nat)) : State := l.foldl (fun s e => putTable64 s e.1 e.2) world

theorem wit_LaunchesStartAndEnd_time :
    ends (exec (.timeSync 7) world) (fun t => t.timeNs == 7)
    && ends (exec .nodeTimeLost world) (fun t => !t.timeFollows) = true := by decide +kernel

theorem wit_LaunchesStartAndEnd_wakes :
    ([(0, 0, true), (1, 1, true), (1, 0, true), (0, 0, false)].all fun e : Nat × Nat × Bool =>
      let s := updPart (tabled [(fnOff 127, 2 ^ 63 + e.2.1 * 2 ^ 16 + e.1)]) 0 fun p =>
        { p with run := if e.2.2 then .running else .stopped }
      s.mgmt.state == 2 && fnValid s 127 && !fnQerr s 127 3 && partRuns s (fnPart s 127) == e.2.2
      && (fnBurst s 127, fnTokens s 127) == (e.1, e.2.1)
      && ends (exec (.wakeWrite 127 3) s) fun t =>
        if e.2.2 && e.1 == e.2.1 then t.wakeQ == [(511, 0)] else fnWagain t 127 3) = true := by
  decide +kernel

theorem wit_LaunchesStartAndEnd_functions :
    (let s := tabled [(fnOff 127, 2 ^ 63)]; let off := { s with mgmt := { s.mgmt with state := 1 } };
      nextIs (exec (.vfMemoryRequest 127 true 64 8 5) off) off && fnValid s 127
      && vfOldest { s with net := [⟨s.fresh, deadTid, 0, .vf 127 0 true 64 8 5⟩] } s.fresh 127
      && ends (exec (.vfMemoryRequest 127 true 64 8 5) s) (fun t => t.net == [])
      && (let busy := { s with net := [⟨0, deadTid, 0, .vf 127 0 true 0 8 5⟩] };
        ends (exec (.vfMemoryRequest 127 true 64 1 5) busy) fun t => t.net.length == 2)) = true := by
  decide +kernel

theorem wit_LaunchesStartAndEnd_sheets :
    (let s := { tabled [(sheetOff 0 63 + 24, 2 ^ 63), (sheetOff 0 63, 5)] with timeNs := 4 };
      (sheetDue s 0 63).isNone && nextIs (exec (.callSheetStart 0 63) s) s
      && (let s := { s with timeNs := 5 };
        let l := { theLaunch with id := 4 };
        sheetDue s 0 63 == some 5 && partRuns s 0 && (sheetLive s 0 63).isNone
        && ends (exec (.callSheetStart 0 63) s) (fun t => t.launchQ.length == 1)
        && (let idle := updPart s 0 fun p => { p with run := .idle };
          ends (exec (.callSheetStart 0 63) idle) fun t => field (sheet64 t 0 63 3) 47 32 == 1)
        && (let live := { s with sheetLaunch := [(63, 4)], launches := [l] };
          (sheetLive live 0 63).isSome && field (sheet64 live 0 63 3) 62 61 == 0
          && ends (exec (.callSheetStart 0 63) live) fun t => field (sheet64 t 0 63 3) 47 32 == 1)))
    = true := by decide +kernel

/-- The agenda finds an armed entry once its start has come, and sees no entry that is not written. -/
theorem test_sheets_due :
    (let s := { tabled [(sheetOff 0 63 + 24, 2 ^ 63), (sheetOff 0 63, 5)] with timeNs := 5 };
      sheetsDue s == some (.callSheetStart 0 63) && (sheetsDue { s with timeNs := 4 }).isNone
      && (sheetsDue world).isNone) = true := by decide +kernel

/-- A playbill at 0x60000 of one level: one thread on a tile. -/
def billed : State :=
  let h := [(0x60000, 0x50000), (0x60020, 2 ^ 32), (0x60040, 2 ^ 48 + 2 ^ 45 + 2 ^ 32)].foldl
    (fun h e => physPut64 h e.1 e.2) world.hbm
  { world with hbm := h, launchQ := [{ part := 0, aspace := 0, playbill := 0x60000, arg := 0, cpl := 0,
                                       maxPriv := 1, src := .sheet 0 63,
                                       back := (0, 0, 0) }] }

theorem wit_LaunchesStartAndEnd_policies :
    ([(1, 0), (1, 1), (2, 0)].all fun e : Nat × Nat =>
      let s := { tabled [(sheetOff 0 63 + 24, 2 ^ 63 + e.1 * 2 ^ 61 + e.2 * 2 ^ 60), (sheetOff 0 63, 5)] with
        timeNs := 5, sheetLaunch := [(63, 4)], launches := [{ theLaunch with id := 4 }] }
      (sheetLive s 0 63).isSome && sheetDue s 0 63 == some 5 && field (sheet64 s 0 63 3) 62 61 == e.1
      && bitOf (sheet64 s 0 63 3) 60 == (e.2 == 1)
      && ends (exec (.callSheetStart 0 63) s) fun t => field (sheet64 t 0 63 3) 47 32 == e.2
        && bitOf (sheet64 t 0 63 3) 60 == (e.1 == 1) && t.launchQ.length == (if e.1 = 2 then 1 else 0)
        && (thr t ⟨0, 0⟩).exited == (e.1 == 2))
    && (let s := { tabled [(sheetOff 0 63 + 24, 2 ^ 63), (sheetOff 0 63, 5)] with
          timeNs := 5, sheetTime := 5 };
      (smFind s.sheetNext 63).isNone && sheetDue s 0 63 == some 5) = true := by decide +kernel

theorem wit_LaunchesStartAndEnd_queue :
    ([0, 1].all fun tail =>
      let s := tabled [(fnOff 127, 2 ^ 63)]
      let s := { s with wakeQ := [(511, 0)], hbm := physPut64 s.hbm 216 tail }
      (launchReady s).isNone && wakeReady s == some (511, 0) && !fnQerr s 127 3
      && (match luRead s (fnAsid s 127) 192 64, luRead s (fnAsid s 127) 0 32 with
        | .ok _ _, .ok _ _ => true
        | _, _ => false)
      && ends (exec .launch s) fun t => if tail = 0 then t.wakeQ == [] && t.launchQ == []
        else t.wakeQ == [(511, 2)] && t.launchQ.map (·.src) == [.queue 127 3 0 (fnAsid s 127)])
    && (let q : LaunchReq := { part := 0, aspace := 0, playbill := 8, arg := 0, cpl := 0, maxPriv := 1,
                               src := .queue 127 3 0 0, back := (192, 0, 1) };
      let s := { tabled [(fnOff 127, 2 ^ 63)] with launchQ := [q] };
      (launchReady s).isSome && (wakeReady s).isNone && ((launchReady s).any fun q =>
        match launchTry s q with
        | .done _ st _ => st == lsMalformed
        | _ => false)
      && ends (exec .launch s) fun t => t.launchQ == []
        && (match luRead t 0 16 8, luRead t 0 208 8 with
          | .ok _ a, .ok _ b => a == lsMalformed && b == 1
          | _, _ => false)) = true := by decide +kernel

theorem wit_LaunchesStartAndEnd_launch :
    (launchReady world).isNone && (wakeReady world).isNone && nextIs (exec .launch world) world
    && (launchReady billed).isSome && (wakeReady billed).isNone
    && ((launchReady billed).any fun q => match launchTry billed q with
      | .done _ st _ => st == lsStarted
      | _ => false)
    && ends (exec .launch billed) (fun t => t.launches.length == 1 && t.sheetLaunch.length == 1)
    = true := by decide +kernel

theorem wit_LaunchesStartAndEnd_ends :
    ([(true, true), (false, true), (true, false)].all fun e : Bool × Bool =>
      let l := { theLaunch with released := e.1, threads := if e.2 then [⟨0, 0⟩] else [] }
      let s := { world with launches := [l] }
      (if e.1 then nextIs (exec (.launchRelease 7) s) s
        else ends (exec (.launchRelease 7) s) fun t => t.launches.all (·.released))
      && dueTiles s == [] && l.src == .other
      && if e.2 then nextIs (exec (.launchEnd 7) s) s
        else ends (exec (.launchEnd 7) s) fun t => t.launches == [])
    && ([(16, 2, 2), (0, 1, 2), (0, 2, 1)].all fun e : Nat × Nat × Nat =>
      let s := { State.reset with mgmt := { Mgmt.ready with desc := [(4, BitVec.ofNat 64 (e.2.1 * 2 ^ 42))] } }
      (parseDesc (packChunks 64 ((List.range 8).map (fun k => (smGet 0 s.mgmt.desc k).toNat)))).any
        (fun d => d.priv == e.2.1) && !harvested s 1023 && !clusterOwned s (tileCluster 1023)
      && ends (exec (.hlaunch (BitVec.ofNat 64 (1023 * 2 ^ 32 + e.1))) s) fun t =>
        t.mgmt.hlstat.toNat % 4 == e.2.2) = true := by decide +kernel

/-- Gate 0 with these doublewords 0 to 3, for partition 0. -/
def gated (d0 d1 d2 d3 : Nat) (b : Body) : State :=
  let s := packet (2 ^ 20) b
  { s with hbm := sectorsWrite s.hbm 2 2 0 [(0, packChunks 64 [d0, d1, d2, d3], false), (1, 0, false),
      (2, 0, false), (3, 0, false)] }

/-- A request of gate 0. -/
def asks (op n : Nat) : Body := .gateReq 0 op n none 5 1 0 0 []

/-- Packet 9 has become this. -/
def becomes (i : Instr) (s : State) (b : Body) : Bool := ends (exec i s) fun t => (the t).body == b

theorem wit_GatesServeRequests_requests :
    (let v := 2 ^ 63; let s := gated v 7 0x0F 0 (asks 4 0);
      gateOldest s 9 0 && gateV s 0 && gateRights s 0 0 == 15 && !bucketEmpty s 0 0
      && gateCounter s 0 == 7 && (gateSide s 0).waiters == [] && gateMbcnt s 0 != 8
      && becomes (.gateRequest 9) s (.gateReply 0 5 7 0 0 false 0)
      && becomes (.gateRequest 9) (gated v 7 0x0F 0 (asks 0 15)) (.gateReply 0 5 15 2 0 false 0)
      && ends (exec (.gateRequest 9) (gated v 7 0x0F 0 (asks 3 8)))
        (fun t => (gateSide t 0).waiters.length == 1)
      && !gateV (gated 0 0 0 0 (asks 4 0)) 0
      && (let other := gated (v + 8 * 2 ^ 24) 0 0x1F 1 (asks 5 1);
        gateV other 0 && gateRights other 0 0 == 0 && gateRights other 0 1 == 15
        && gateMbcnt other 0 == 8 && bucketEmpty other 0 0
        && becomes (.gateRequest 9) other (.gateFault 0 1 3))
      && (let young := { s with net := ⟨8, ⟨0, 0⟩, 0, asks 4 0⟩ :: s.net };
        !gateOldest young 9 0 && nextIs (exec (.gateRequest 9) young) young)) = true := by decide +kernel

theorem wit_GatesServeRequests_mail :
    ([(0, [], 0), (1, [], 0), (0, List.replicate 16 (⟨⟨0, 5⟩, 1, true, 1⟩ : GWaiter), 3)].all
      fun e : Nat × List GWaiter × Nat =>
      let s := { gated (2 ^ 63) 7 0x0F 0 (asks 6 0) with gates := [(0, ⟨e.2.1, e.1⟩)] }
      gateOldest s 9 0 && gateV s 0 && rightsPermit 6 (gateRights s 0 0)
      && (gateSide s 0).held == e.1 && (gateSide s 0).waiters.length == e.2.1.length
      && ends (exec (.gateRequest 9) s) fun t => match (the t).body with
        | .gateReply 0 5 v st token true 0 => if e.2.2 = 3 then v == w64 (2 ^ 63 + 3) && st == 0
          else if e.1 = 1 then st == 3 && token == 0 && (gateSide t 0).held == 0
          else st == 1 && token == s.fresh && (gateSide t 0).waiters.length == 1
        | _ => false)
    && (let w := List.replicate 16 (⟨⟨0, 5⟩, 1, true, 1⟩ : GWaiter);
      becomes (.gateRequest 9) { gated (2 ^ 63) 7 0x0F 0 (asks 3 8) with gates := [(0, ⟨w, 0⟩)] }
        (.gateReply 0 5 3 0 0 false 0))
    && (let s := gated (2 ^ 63) 7 0x0F 0 (asks 5 1);
      rightsPermit 5 (gateRights s 0 0) && gateMbcnt s 0 != 8 && !bucketEmpty s 0 0
      && ends (exec (.gateRequest 9) s) fun t => gateMbcnt t 0 == 1 && match (the t).body with
        | .gateCommit 0 5 1 5 _ _ => true
        | _ => false) = true := by decide +kernel

theorem wit_GatesServeRequests_others :
    (let s := gated (2 ^ 63) 7 0x0F 0; let c := s (.gateCommit 0 2 1 5 0 [4]);
      let busy := setCluster c 0 { cluster c 0 with
        shQueue := [{ copying 4 (64 : Word) (own 0) with id := 4 }] };
      commitReady c [4] && (publishKeys c 0 (windowUnits c 0 0)).2
      && becomes (.gateCommit 9) c (.gateReply 0 5 0 0 0 false 0)
      && (allCommands busy).any (·.id == 4) && nextIs (exec (.gateCommit 9) busy) busy
      && ([(0, false), (0, true), (1, false)].all fun e : Nat × Bool =>
        let r := waits (.gate 6 e.1 e.2 0 none) (s (.gateReply 0 5 77 3 0 e.2 2));
        replyOldest r 9 0 ⟨0, 0⟩ && !departed r ⟨0, 0⟩ && ends (exec (.gateReply 9) r) fun t =>
          if e.1 = 1 then t.net.length == 1 else getX (thr t ⟨0, 0⟩) 6 == 77)
      && (let f := waits (.gate 6 0 false 0 none) (s (.gateFault 0 1 3));
        ends (exec (.gateReply 9) f) fun t => (thr t ⟨0, 0⟩).tcause == 0x0F)
      && ends (exec (.gateDeliveryAck 9) (gated (2 ^ 63 + 2 ^ 24) 0 0 0 (.gateAck 0)))
        (fun t => gateMbcnt t 0 == 0)
      && ends (exec (.gateCancel 9) (s (.gateCancel 0 3))) (fun t => t.net == [])
      && (let q := { s (.gateCancel 0 3) with gates := [(0, ⟨[⟨⟨0, 0⟩, 3, false, 9⟩], 0⟩)] };
        ends (exec (.gateCancel 9) q) fun t => (gateSide t 0).waiters == [])
      && ends (exec (.gateReturn 9) (s (.gateRet 0 false 2))) (fun t => gateCounter t 0 == 9)
      && ends (exec (.gateReturn 9) (s (.gateRet 0 true 2))) (fun t => t.net == [])
      && ([0, 3].all fun token =>
        let w := waits (.gate 6 0 false token (some 0)) world;
        !(thr w ⟨0, 0⟩).leader && if token = 0 then nextIs (exec (.gateWaitLimit 0 0) w) w
          else ends (exec (.gateWaitLimit 0 0) w) fun t => t.net.length == 1)) = true := by
  decide +kernel

theorem wit_DeviceMovesThreads_heat :
    ([(4094, 1), (4093, 0), (4092, 0), (4091, 0)].all fun e : Nat × Nat =>
      let s := { world with mgmt := { world.mgmt with
        cfg := { world.mgmt.cfg with thot := 4093, tcool := 4092, ttrip := 4095 } } }
      !harvested s 0 && s.mgmt.state == 2
      && ends (exec (.thermalCheck 0 e.1) s) fun t => (tile t 0).shedStack.length == e.2)
    && ends (exec (.thermalCheck 0 4095) world) (fun t => t.mgmt.state == 1)
    && (let s := updThr (tiled fun tl => { tl with shedStack := [(3, 0)], shedOff := 8 }) ⟨0, 0⟩
          fun th => { th with mobile := true, vwSize := 2 };
      (displacePick world 0).isNone && nextIs (exec (.displaceThread 0) world) world
      && ((displacePick s 0).any fun e => e == (0, 1) && freeSlots s 1 1 == [0])
      && nextIs (exec (.displaceThread 0) s) (moveStart s ⟨0, 0⟩ ⟨1, 0⟩)
      && (pickBase (windowsOf (tile s 1)) 2).isSome && (publishTile (landAll s ⟨0, 0⟩) 0).2
      && (let u := moveStart s ⟨0, 0⟩ ⟨1, 0⟩;
        (thr u ⟨0, 0⟩).st == .migrating (thr s ⟨0, 0⟩).st && (thr u ⟨1, 0⟩).st == .arriving ⟨0, 0⟩))
    && (let s := setThr (tiled fun tl => { tl with threads := [] }) ⟨1, 0⟩
          { thr world ⟨0, 0⟩ with mobile := true };
      !goesHome world ⟨0, 0⟩ && nextIs (exec (.returnHome 0 0) world) world
      && goesHome s ⟨1, 0⟩
      && nextIs (exec (.returnHome 1 0) s) (moveStart s ⟨1, 0⟩ ⟨0, 0⟩)) = true := by
  decide +kernel

/-- A command for partition 1, which runs so on cluster 1, at cycle `now`. -/
def commanded (run : RunState) (cmap : List Nat) (op asize area now : Nat) : State :=
  let o : CurtainOp := { since := 0, migr := false, op := op, t := 0, area := BitVec.ofNat 64 area,
                         asize := asize, phys := 0, ltile := 0, tid := ⟨0, 0⟩, tile := 0, rec_ := 64,
                         cue := 1, bad := false, asid := 0, priv := 2, dword0 := 0, moving := 0 }
  { updPart world 1 (fun p => { p with run := run, valid := true, cmap := cmap, op := some o }) with
    cycle := now }

/-- The command of partition 1. -/
def theOp (s : State) : CurtainOp :=
  ((part s 1).op).getD ⟨0, false, 0, 0, 0, 0, 0, 0, ⟨0, 0⟩, 0, 0, 0, false, 0, 0, 0, 0⟩

theorem wit_DeviceMovesThreads_stop :
    ([(RunState.idle, cuStop, 1), (.idle, cuResume, 1), (.running, cuStart, 1), (.running, cuRestore, 1)].all
      fun e : RunState × Nat × Nat =>
      let s := commanded e.1 [1] e.2.1 areaSize 0 16
      let i : Instr := if e.2.1 = cuStop then .curtainStop 1 else if e.2.1 = cuResume then .curtainResume 1
        else if e.2.1 = cuStart then .curtainStart 1 else .curtainRestore 1
      curtainOp s 1 [e.2.1] == some (theOp s) && curtainRefusal s 1 (theOp s) == e.2.2
      && nextIs (exec i s) (curtainEnd s 1 (theOp s) 1)
      && (curtainOp world 1 [e.2.1]).isNone && nextIs (exec i world) world)
    && ([(cuStop, 16), (cuSave, 16), (cuStop, 15)].all fun e : Nat × Nat =>
      let s := commanded .running [1] e.1 areaSize 0 e.2
      curtainOp s 1 [cuStop, cuSave] == some (theOp s) && curtainRefusal s 1 (theOp s) == 0
      && atBoundary s (theOp s) == (e.2 == 16)
      && if e.2 = 15 then nextIs (exec (.curtainStop 1) s) s
        else ends (exec (.curtainStop 1) s) fun t => (part t 1).run == .stopped
          && (part t 1).op.isSome == (e.1 == cuSave))
    && ([cuStop, cuSave].all fun op =>
      let s := updThr (commanded .running [1] op areaSize 0 16) ⟨4, 0⟩ fun th =>
        { th with st := .ready, leader := true, lvq := [⟨16, 0, 0, .held⟩] }
      let u := setMoving ((partTiles s 1).foldl haltTile s) 1 1
      let v := updThr u ⟨4, 0⟩ fun th => { th with lvq := [] }
      (partTiles s 1).contains 4 && !pairsLevel (tile s 4) && nextIs (exec (.curtainStop 1) s) u
      && nextIs (exec (.curtainStop 1) u) u
      && ends (exec (.curtainStop 1) v) fun t => (part t 1).run == .stopped && (tile t 4).stopped
        && if op = cuStop then (part t 1).op.isNone else (theOp t).moving == 0)
    && ([15, 16].all fun now =>
      let s := commanded .stopped [1] cuResume 0 0 now
      curtainRefusal s 1 (theOp s) == 0 && if now = 15 then nextIs (exec (.curtainResume 1) s) s
        else ends (exec (.curtainResume 1) s) fun t => (part t 1).run == .running) = true := by
  decide +kernel

/-- The entry of partition 1: cluster 1. -/
def entered (s : State) : State :=
  [(partOff 1, 2 ^ 63 + 2 ^ 40), (partOff 1 + 8, 16), (partOff 1 + 128, 0x81)].foldl
    (fun s e => putTable64 s e.1 e.2) s

theorem wit_DeviceMovesThreads_start :
    (let s := entered (commanded .idle [] cuStart 0 0 16);
      curtainOp s 1 [cuStart] == some (theOp s) && curtainRefusal s 1 (theOp s) == 0
      && ends (exec (.curtainStart 1) s) fun t => (part t 1).run == .running
        && (part t 1).cmap == [1]) = true := by decide +kernel

theorem wit_DeviceMovesThreads_save :
    (let s := commanded .running [] cuSave areaSize 0 16;
      curtainRefusal s 1 (theOp s) == 0 && nextIs (exec (.curtainSave 1) s) s)
    && (let s := commanded .stopped [] cuSave areaSize 0 16;
      curtainRefusal s 1 (theOp s) == 0 && saveReady s (partTiles s 1)
      && (match (saveAreas s 1 (theOp s)).1 with
        | .ok _ _ _ => true
        | _ => false)
      && ends (exec (.curtainSave 1) s) fun t => (part t 1).run == .idle && !(part t 1).valid)
    && (let s := updTile (commanded .stopped [1] cuSave areaSize 0 16) 4 fun tl =>
          { tl with fwd := List.replicate 4 ⟨1, 0, .migrated 512, 0, [], 0⟩ };
      curtainRefusal s 1 (theOp s) == 0 && saveReady s (partTiles s 1) && entriesFull s 1
      && nextIs (exec (.curtainSave 1) s) (curtainEnd s 1 (theOp s) 1))
    && (let s := commanded .stopped [1] cuSave areaSize (2 ^ 40) 16;
      curtainRefusal s 1 (theOp s) == 0 && saveReady s (partTiles s 1)
      && (match (saveAreas s 1 (theOp s)).1 with
        | .fail _ _ _ => true
        | _ => false)) = true := by decide +kernel

/-- A RESTORE of partition 1 from a well-formed header at 16 MB, which this package never wrote. -/
def restoring (now : Nat) : State :=
  let s := entered (commanded .idle [] cuRestore areaSize 0x1000000 now)
  let h := physPut64 s.hbm 0x1000000 (2 ^ 63 + 2 ^ 48 + 2 ^ 44 + hmask s 1)
  { s with hbm := physPut64 h 0x1000008 areaSize }

/-- The RESTORE waits for its boundary, and stops at an area beyond storage. The context of an area that
this package did not save is drawn, and one that it saved is 16 MB: both are beyond a test. -/
theorem wit_DeviceMovesThreads_restore :
    ([15, 16].all fun now =>
      let s := restoring now
      curtainOp s 1 [cuRestore] == some (theOp s) && curtainRefusal s 1 (theOp s) == 0
      && (match readHeads (saveAgent s (theOp s) (saveClient 1)) 1 (theOp s)
            (entryClusters s 1).zipIdx s with
          | .ok s1 ns => ns == [0]
            && (match clearHeads s1 (saveAgent s (theOp s) (saveClient 1)) (theOp s)
                  (entryClusters s 1).zipIdx with
                | .ok _ _ _ => true
                | _ => false)
          | _ => false)
      && atBoundary s (theOp s) == (now == 16)
      && (now == 16 || nextIs (exec (.curtainRestore 1) s) s)) = true := by decide +kernel

/-- A migration command of partition 1. -/
def migrating (op phys : Nat) (bad : Bool) (now : Nat) : State :=
  let s := commanded .running [1] op 0 0 now
  updPart s 1 fun p => { p with op := some { theOp s with migr := true, phys := phys, bad := bad } }

theorem wit_DeviceMovesThreads_migrate :
    ([(true, 0, 16), (false, 0, 15), (false, 0, 16), (false, 1, 15), (false, 2, 15)].all
      fun e : Bool × Nat × Nat =>
      let s := setMoving (migrating 0 512 e.1 0) 1 e.2.1
      let s := { s with cycle := e.2.2 }
      let o := theOp s
      migrOp s 1 0 == some o && o.moving == e.2.1 && (moveRefusal s 1 o == 0) == !e.1
      && displacing (tile s 3) == false && pairsLevel (tile s 4)
      && if e.1 then nextIs (exec (.migrMove 1) s) (curtainEnd s 1 o mgBad)
        else if e.2.1 == 1 || (e.2.1 == 0 && e.2.2 == 16) then
          ends (exec (.migrMove 1) s) fun t => (part t 1).remaps == [(0, 512)] && (theOp t).moving == 2
            && (tile t 512).stopped
        else nextIs (exec (.migrMove 1) s) s)
    && ([0, 1, 2, 3].all fun n =>
      let s := migrating 1 3 false 16
      let f : FwdEntry := { part := 1, ltile := 0, kind := .migrated 512, count := 0, pm := [],
                            asked := 4 - n }
      let s := if n = 0 then s else updTile s 3 fun tl => { tl with fwd := [f] }
      let s := if 2 ≤ n then { s with gates := [(0, ⟨[⟨⟨3, 0⟩, 1, false, 1⟩], 0⟩)] } else s
      let o := theOp s
      migrOp s 1 1 == some o && (retireEntry s 1 o).isNone == (n == 0)
      && (n == 0 || retirePending s 1 o f == (n == 2))
      && ends (exec (.migrRetire 1) s) fun t => (tile t 3).fwd == if n = 2 then [f] else [])
    && ([0, 1, 2].all fun n =>
      let f : FwdEntry := { part := 0, ltile := 3, kind := .migrated 512, count := 0, pm := [],
                            asked := 0 }
      let s := packet 3 (.msg ⟨3, 0⟩ 5)
      let s := if n = 1 then updTile s 3 fun tl => { tl with fwd := [f] } else s
      let s := if n = 2 then { packet 3 (.gateReply 0 1 0 0 0 false 0) with via := [(9, 3, 0)] } else s
      (fwdTarget s (the s)).isSome && viaDue s (the s) == (n == 2) && (savedGoal (the s)).isNone
      && if n = 2 then nextIs (exec (.forwardPacket 9) s) (passVia s 9)
        else departed s ⟨3, 0⟩ == (n == 1)
          && if n = 1 then fwdEntryOf s ⟨3, 0⟩ == some (0, 512)
            && becomes (.forwardPacket 9) s (.msg ⟨512, 0⟩ 5)
          else nextIs (exec (.forwardPacket 9) s) s) = true := by decide +kernel

theorem wit_ManagementControllerSteps :
    ([0, 1, 2].all fun st =>
      let s := { world with mgmt := { world.mgmt with state := st, keyStore := true, training := true } }
      ends (exec .resetCold s) (fun t => if st = 0 then t == s else t.mgmt.state == 0)
      && ends (exec .resetWarm s) (fun t => st == 0 || t.mgmt.warm)
      && ends (exec .powerUp s) (fun t => t.mgmt.bootcnt == 2 && t.hbm == s.hbm)
      && ends (exec .attestStart s) (fun t => t.mgmt.attesting == (st != 0))
      && ([0, 1, 2].all fun pol => let a := { s with mgmt := { s.mgmt with
            cfg := { s.mgmt.cfg with polClk := pol } } }
          sensorPolicy a.mgmt 2 == pol
          && ends (exec (.sensorAlarm 2) a) fun t => (t.mgmt.state == 1) == (st ≤ 1 || pol == 2)))
    && (let quiet := { world with tiles := [] };
      world.mgmt.state == 2 && hypLive world && !hypLive quiet
      && nextIs (exec (.registerWrite 0x800 5) world) world
      && ends (exec (.registerWrite 0x800 5) quiet) (fun t => t.sptb == 5)
      && ends (exec (.registerWrite 0x878 5) world) (fun t => smGet 0 t.mgmt.desc 7 == 5)
      && ends (exec (.registerWrite 0x8 1) world) (fun t => t.mgmt.state == 0)
      && nextIs (exec (.registerWrite 0 1) world) world
      && windowRead world 0 == some (w64 (bootst world.mgmt)) && windowRead world 0x8 == some 0
      && windowRead world 0x800 == some 0 && windowRead world 0x888 == some 0)
    && (let s := { world with mgmt := { world.mgmt with attesting := true } };
      !world.mgmt.attesting && nextIs (exec .attestReport world) world
      && !s.mgmt.keyStore && ends (exec .attestReport s) fun t => !t.mgmt.attesting)
    && ([(0, 4095, 1), (0, 4094, 2)].all fun e : Nat × Nat × Nat =>
      !harvested world e.1 && ends (exec (.thermalTrip e.1 e.2.1) world) fun t => t.mgmt.state == e.2.2)
    && ([4, 0x13].all fun n => ends (exec (.telemetryRefresh [(n, 3)]) world) fun t =>
      smFind t.mgmt.telemetry n == some 3)
    && ends (exec (.tagcfgWrite 1 0) world) (fun t => (tile t 1).tagcfg == 0) = true := by
  decide +kernel

theorem wit_RegisterWordsChangeOnlyTheirRegister :
    (let s := small (regs [(14, own 0), (15, 3)]);
      ([Instr.add 0 15 14 15, .rori 0 15 14 63, .div 0 15 14 0, .pchk 0 15 14 0, .jal 0 1, .bne 0 14 15 2,
        .ld 0 15 14 511, .fadd 0 15 14 15 3].all fun i => ends (exec i s) fun t => t.hbm == s.hbm)
      && fpGoes s (.fadd 0 15 14 15 3) false
      && clearB { xs := [14, 15] } s && clearB { xs := [1] } s) = true := by decide +kernel

theorem wit_MemoryKeepsItsForm : cellsWf hbmDefault placed.hbm
    && ends (step placed) (fun t => cellsWf hbmDefault t.hbm) = true := by decide +kernel

end Sys2Proof.Tests
end

