-- ==== Sys2Proof/Proofs/Messages.lean ====
section
/-! SUPPORT. What send, recv and recvt do at an issue that nothing turns away (R267, R268). -/

namespace Sys2Proof.Machine

/-! ### An issue -/

/-- The reserved bits of an identifier are those from bit 19 up (R10). -/
theorem reservedBits_eq_zero_iff (x : Word) : x.toNat / 2 ^ 19 = 0 ↔ x.toNat < 2 ^ 19 := by
  rw [Nat.div_eq_zero_iff]
  omega

/-- Where a leader's copy meets its understudy's is no part of the checks. -/
theorem run_clear_pair (stl : BitVec 3) (xs : List (BitVec 5)) (meets : PairAt)
    (body : State → Ret) {s : State} (h : Clear { xs := xs } s) :
    run stl { xs := xs, pair := meets } body s = .next (settle stl (body (landed s))) :=
  run_clear stl _ body s (clear_agree h rfl rfl rfl rfl rfl)

/-- A result of one of the fixed latencies is what `giveX` gives. -/
theorem putX_eq_giveX (stl : BitVec 3) (lat : Nat) (rd : BitVec 5) (v : Word) (s : State) :
    putX stl lat rd v s = giveX stl lat rd v s :=
  putXR_eq stl lat false rd v (residue v) s

/-! ### send -/

/-- Whether the issuing thread's cluster may reach a tile of its partition (R268). -/
def mayReach (s : State) (t : Nat) : Bool :=
  (tileOwner s t).all fun o => o.1 != (myStanding s).p || permits (myStanding s) o.2

theorem mayReach_iff (s : State) (t : Nat) : mayReach s t = true ↔
    ∀ p l, tileOwner s t = some (p, l) → p ≠ (myStanding s).p ∨ permits (myStanding s) l = true := by
  simp [mayReach, Option.all_eq_true]

/-- A tile of the own partition whose logical cluster the thread's table does not list. -/
theorem mayReach_eq_false {s : State} {t l : Nat} (ho : tileOwner s t = some ((myStanding s).p, l))
    (hp : permits (myStanding s) l = false) : mayReach s t = false := by
  simp [mayReach, ho, hp]

/-- send judges its target in this order: reserved bits, a place outside the partition, and a place
that its cluster may not reach. -/
theorem exec_send {s : State} (stl : BitVec 3) (ra rb : BitVec 5) (h : Clear { xs := [ra, rb] } s) :
    let s0 := landed s
    let x := rx s0 ra
    let j := tidOf x
    exec (.send stl ra rb) s = .next (
      if ¬ x.toNat < 2 ^ 19 then trapThread s0 s.cur .illegal x
      else if harvested s0 j.tile = true ∨ samePartition s0 (contextTile s0 j) = false then
        trapThread s0 s.cur .addr x
      else if mayReach s0 (contextTile s0 j) = true then
        slept stl .send (send s0 s.cur j.tile (.msg j (rx s0 rb)))
      else trapThread s0 s.cur .perm x) := by
  intro s0 x j
  have hreach : mayReach s0 (contextTile s0 j) = match tileOwner s0 (contextTile s0 j) with
      | some (p, l) => p != (myStanding s0).p || permits (myStanding s0) l
      | none => true := by
    unfold mayReach
    cases tileOwner s0 (contextTile s0 j) <;> rfl
  refine (run_clear stl _ _ s h).trans ?_
  simp only [settle_ite, settle_trap, settle_sleep, landed_cur, bne_iff_ne, ne_eq,
    reservedBits_eq_zero_iff, Bool.or_eq_true, Bool.not_eq_true', hreach]
  rfl

/-! ### recv and recvt -/

/-- recv takes the oldest message, or waits. -/
theorem exec_recv_message {s : State} (stl : BitVec 3) (rd : BitVec 5) (h : Clear { xs := [rd] } s)
    {v : Word} {q : List Word} (hm : (me (landed s)).mailbox = v :: q) :
    exec (.recv stl rd) s
      = .next (went stl (giveX stl 4 rd v (onMe (landed s) fun th => { th with mailbox := q }))) := by
  refine (run_clear_pair stl _ _ _ h).trans ?_
  simp only [hm, settle_go, putX_eq_giveX, updMe_eq]

theorem exec_recv_empty {s : State} (stl : BitVec 3) (rd : BitVec 5) (h : Clear { xs := [rd] } s)
    (hm : (me (landed s)).mailbox = []) :
    exec (.recv stl rd) s = .next (slept stl (.recv rd.toNat) (landed s)) := by
  refine (run_clear_pair stl _ _ _ h).trans ?_
  simp only [hm, settle_sleep]

/-- recvt gives the number of messages when there are any or the limit is 0, and else waits. -/
theorem exec_recvt {s : State} (stl : BitVec 3) (rd ra : BitVec 5)
    (h : Clear { xs := [rd, ra] } s) :
    exec (.recvt stl rd ra) s = .next (
      if (me (landed s)).mailbox ≠ [] ∨ rx (landed s) ra = 0 then
        went stl (giveX stl 4 rd (BitVec.ofNat 64 (me (landed s)).mailbox.length) (landed s))
      else slept stl (.recvt rd.toNat ((rx (landed s) ra).toNat + 1)) (landed s)) := by
  refine (run_clear_pair stl _ _ _ h).trans ?_
  simp only [settle_ite, settle_go, settle_sleep, putX_eq_giveX, bne_iff_ne, ne_eq,
    List.length_eq_zero_iff, Bool.or_eq_true, decide_eq_true_eq]

/-! ### The statement -/

/-- Settles O31: the clauses are the branches of `exec_send`, of recv's two lemmas and of
`exec_recvt`. -/
theorem messageWords : Obligations.MessageWords := by
  unfold Obligations.MessageWords
  intro s stl rd ra rb s0 x j t
  refine ⟨fun h => ?_, fun h => ?_, fun h => ?_⟩
  · have hsend := exec_send stl ra rb h
    have hin : harvested s0 j.tile = false → samePartition s0 t = true →
        ¬ (harvested s0 j.tile = true ∨ samePartition s0 t = false) := fun hh hs =>
      not_or.2 ⟨Bool.eq_false_iff.1 hh, fun hf => Bool.noConfusion (hf.symm.trans hs)⟩
    refine ⟨fun hx hh hs hr => ?_, fun hx ho => ?_, fun hx hh hs l ho hp => ?_, fun hx => ?_⟩
    · rw [hsend, if_neg (not_not_intro hx), if_neg (hin hh hs), if_pos ((mayReach_iff s0 t).2 hr)]
    · rw [hsend, if_neg (not_not_intro hx), if_pos ho]
    · rw [hsend, if_neg (not_not_intro hx), if_neg (hin hh hs),
        if_neg (Bool.not_eq_true _ ▸ mayReach_eq_false ho hp)]
    · rw [hsend, if_pos (Nat.not_lt.2 hx)]
  · exact ⟨fun v q hm => exec_recv_message stl rd h hm, exec_recv_empty stl rd h⟩
  · have hrecvt := exec_recvt stl rd ra h
    exact ⟨fun hm => by rw [hrecvt, if_pos hm],
      fun hm hx => by rw [hrecvt, if_neg (not_or.2 ⟨not_not_intro hm, hx⟩)]⟩

end Sys2Proof.Machine
end

