-- ==== Sys2Proof/Proofs/Kills.lean ====
section
/-! SUPPORT. A kill that answers in the name of an issuer that holds no thread (R260 to R262). -/

namespace Sys2Proof.Machine

/-! ### A kill of another thread -/

/-- An operation that is done at once leaves its thread waiting for an empty reply, which goes to
the thread that issues in the state it leaves. -/
theorem settle_answered (stl : BitVec 3) (s : State) :
    settle stl (answered s) = slept stl .done (send s s.cur 0 (.reply 0 none none)) := rfl

@[simp] theorem slept_net (stl : BitVec 3) (w : Wait) (s : State) : (slept stl w s).net = s.net := by
  simp [slept]

/-- A packet names its sender. -/
theorem src_eq_of_slept_send {stl : BitVec 3} {w : Wait} {s : State} {i j : Tid} {pl : Nat} {b : Body}
    (h : slept stl w (send s i pl b) = slept stl w (send s j pl b)) : i = j := by
  simpa [send_eq] using congrArg State.net h

/-- A thread that a kill ends: one of the partition, no understudy, neither ended nor parked. -/
structure Killable (s : State) (j : Tid) : Prop where
  notShadow : (thr s j).shadow = false
  inPartition : samePartition s j.tile = true
  present : (thr s j).absent = false
  notEnded : (thr s j).ended = false
  notParked : (thr s j).st ≠ .parked

section Kill

variable {s : State} {ra : BitVec 5} {j : Tid}
  (h : Clear { priv := 1, xs := [ra] } s) (hj : targetTid (landed s) (rx (landed s) ra) = some j)
  (hk : Killable (landed s) j) (hne : j ≠ s.cur)
include h hj hk hne

/-- The kill of another thread ends it, and then is answered. -/
theorem exec_kill_another (stl : BitVec 3) : exec (.kill stl ra) s
    = .next (settle stl (answered (endThread (landed s) j killedValue))) := by
  obtain ⟨hshadow, hpart, habsent, hended, hparked⟩ := hk
  refine (run_clear stl _ _ s h).trans ?_
  simp [hj, hshadow, hpart, habsent, hended, hparked, hne]

/-- The statement has the answer go to the thread that issues before the kill: it says that no end
of another thread changes which thread that is. -/
theorem endThread_cur_of_threadWords (hw : Obligations.ThreadWords) :
    (endThread (landed s) j killedValue).cur = s.cur := by
  obtain ⟨-, -, -, -, -, -, hkill, -⟩ := hw s 0 0 ra 0
  obtain ⟨-, htarget⟩ := hkill h
  have hstated := htarget j hj
  obtain ⟨hshadow, hpart, habsent, hended, hparked⟩ := hk
  simp only [hshadow, Bool.false_eq_true, if_false] at hstated
  obtain ⟨-, -, hends⟩ := hstated
  obtain ⟨-, hother⟩ := hends hpart habsent
  have hsays := hother hended hparked
  rw [if_neg hne, exec_kill_another h hj ⟨hshadow, hpart, habsent, hended, hparked⟩ hne,
    settle_answered] at hsays
  exact src_eq_of_slept_send (Host.Outcome.next.inj hsays)

end Kill

/-! ### An issuer whose context has left its tile -/

/-- Slot 0 of tile 1 issues at supervisor privilege but is free: a forwarding entry of its tile
leads its identifier on to tile 0, whose slot 0 holds a ready thread. -/
def departedIssuer : State :=
  { State.reset with
    cur := ⟨1, 0⟩
    tiles := [
      (0, { Tile.zero with threads := [(0, { Thread.none with st := .ready })] }),
      (1, { Tile.zero with
        threads := [(0, { Thread.none with priv := 1, home := 1 })]
        fwd := [{ part := 0, ltile := 0, kind := .migrated 0, count := 0, pm := [], asked := 0 }] })] }

theorem landed_departedIssuer : landed departedIssuer = departedIssuer :=
  landed_of_pend _ (by decide +kernel)

/-- Nothing turns away a kill of the thread that x0 names, slot 0 of tile 0. -/
theorem clear_departedIssuer : Clear { priv := 1, xs := [0] } departedIssuer where
  place := by decide
  single := by decide +kernel
  fields := rfl
  priv := by decide +kernel
  bank := .inr (by decide)
  window := by simp
  ready := by decide +kernel
  sound := by simp

theorem targetTid_departedIssuer :
    targetTid departedIssuer (rx departedIssuer 0) = some ⟨0, 0⟩ := by
  decide +kernel

theorem killable_departedIssuer : Killable departedIssuer ⟨0, 0⟩ := by
  constructor <;> decide +kernel

/-- With the thread that its identifier leads to, the issuer is forgotten too (R330). -/
theorem endThread_departedIssuer_cur :
    (endThread departedIssuer ⟨0, 0⟩ killedValue).cur = deadTid := by
  decide +kernel

/-- Refutes O28, in its clause on kill: where the issuing slot holds no live thread and its
identifier leads to the thread killed, as in `departedIssuer`, the end of that thread makes every
reference to the issuer one to `deadTid`, and the answer goes there, not to `s.cur`. -/
theorem not_threadWords : ¬ Obligations.ThreadWords := by
  intro hw
  have hcur : (endThread (landed departedIssuer) ⟨0, 0⟩ killedValue).cur = departedIssuer.cur := by
    refine endThread_cur_of_threadWords clear_departedIssuer ?_ ?_ (by decide) hw
    · rw [landed_departedIssuer, targetTid_departedIssuer]
    · rw [landed_departedIssuer]
      exact killable_departedIssuer
  rw [landed_departedIssuer, endThread_departedIssuer_cur] at hcur
  exact absurd hcur (by decide)

end Sys2Proof.Machine
end

