-- ==== Sys2Proof/Proofs/Replies.lean ====
section
/-! SUPPORT. What replies, acknowledgements and arriving signals leave (R89, R129, R133, R235, R243,
R264, R313). -/

namespace Sys2Proof.Machine

/-! ### Packets and threads -/

@[simp] theorem thr_dropPkt (s : State) (id : Nat) (i : Tid) : thr (dropPkt s id) i = thr s i := rfl

@[simp] theorem tile_dropPkt (s : State) (id t : Nat) : tile (dropPkt s id) t = tile s t := rfl

/-- A thread replaced leaves its tile's write buffer. -/
theorem tile_setThr_wbuf (s : State) (i : Tid) (x : Thread) (t : Nat) :
    (tile (setThr s i x) t).wbuf = (tile s t).wbuf := by
  rcases tile_setThr s i x t with h | h <;> rw [h]

/-! ### Failures (R89, R303) -/

/-- A thread that leads no understudy takes a trap alone. -/
theorem trapPair_of_single {s : State} {i : Tid} (c : Cause) (v : Word)
    (h : (thr s i).leader = false) : trapPair s i c v = trapThread s i c v := by
  simp [trapPair, h]

theorem setPfcause_zero (s : State) (i : Tid) : setPfcause s i 0 = s := rfl

/-- A failed translation's sub-cause stands in PFCAUSE of a thread that leads no understudy. -/
theorem setPfcause_of_single {s : State} {i : Tid} {sub : Nat} (h : (thr s i).leader = false)
    (hsub : sub ≠ 0) : setPfcause s i sub
      = setThr s i { thr s i with pfcause := BitVec.ofNat 8 sub } := by
  simp [setPfcause, withShadow, h, hsub]

theorem failThread_without_sub {s : State} {i : Tid} (c : Cause) (v : Word)
    (h : (thr s i).leader = false) : failThread s i ⟨c, 0⟩ v = trapThread s i c v := by
  rw [failThread, setPfcause_zero, trapPair_of_single c v h]

theorem failThread_with_sub {s : State} {i : Tid} {sub : Nat} (c : Cause) (v : Word)
    (hi : i.tile < 1024) (h : (thr s i).leader = false) (hsub : sub ≠ 0) :
    failThread s i ⟨c, sub⟩ v
      = trapThread (setThr s i { thr s i with pfcause := BitVec.ofNat 8 sub }) i c v := by
  have hsingle : (thr (setPfcause s i sub) i).leader = false := by
    rw [setPfcause_of_single h hsub, thr_setThr_same s _ hi]
    exact h
  rw [failThread, trapPair_of_single _ _ hsingle, setPfcause_of_single h hsub]

/-! ### A reply delivered (R89, R129, R313) -/

section Deliver

variable {s : State} {i : Tid} {w : Wait} (hw : (thr s i).wait? = some w)
include hw

theorem deliver_value (v : Nat) : deliver s i v none none = landWait s i v w := by
  simp only [deliver, hw]

theorem deliver_uncorrectable (v src : Nat) : deliver s i v (some src) none = parkThread s i src := by
  simp only [deliver, hw]

theorem deliver_failure (v : Nat) (bad : Option Nat) (f : Failure) :
    deliver s i v bad (some f) = failThread s i f w.ea := by
  simp only [deliver, hw]

end Deliver

/-- ACCESS_REPLY of a reply. -/
theorem exec_accessReply {s : State} {id k tgt v : Nat} {i : Tid} {bad : Option Nat}
    {fail : Option Failure} (hp : pktOf s id = some ⟨k, i, tgt, .reply v bad fail⟩) :
    exec (.accessReply id) s = .next (deliver (dropPkt s id) i v bad fail) := by
  show execAccessReply id s = _
  simp only [execAccessReply, hp]

/-! ### Units that a global load has fetched (R235) -/

/-- A state with the same memory and the same threads. -/
def KeepsThreads (s u : State) : Prop := u.hbm = s.hbm ∧ ∀ i, thr u i = thr s i

theorem KeepsThreads.refl (s : State) : KeepsThreads s s := ⟨rfl, fun _ => rfl⟩

theorem KeepsThreads.trans {s t u : State} (h : KeepsThreads s t) (g : KeepsThreads t u) :
    KeepsThreads s u := ⟨g.1.trans h.1, fun i => (g.2 i).trans (h.2 i)⟩

theorem updTile_keepsThreads (s : State) (t : Nat) {f : Tile → Tile}
    (h : (f (tile s t)).threads = (tile s t).threads) : KeepsThreads s (updTile s t f) :=
  ⟨rfl, fun i => thr_updTile s t f i h⟩

theorem refetch_keepsThreads (s : State) (t : Nat) (p : Nat → Bool) :
    KeepsThreads s (refetch s t p) := ⟨rfl, fun _ => rfl⟩

theorem dropView_keepsThreads (s : State) (t : Nat) (p : Nat → Bool) :
    KeepsThreads s (dropView s t p) := by
  refine (updTile_keepsThreads s t ?_).trans (refetch_keepsThreads _ t p)
  rfl

/-- Room in the view is made by dropping a unit of it, if at all. -/
theorem viewRoom_keepsThreads {s u : State} {t : Nat} (h : viewRoom s t = some u) :
    KeepsThreads s u := by
  simp only [viewRoom] at h
  split at h
  · cases h
    exact KeepsThreads.refl s
  · split at h
    · cases h
      exact dropView_keepsThreads s t _
    · cases h

theorem enterView_keepsThreads (s : State) (t k : Nat) (x : Unit64) :
    KeepsThreads s (enterView s t k x) := by
  unfold enterView
  split
  · exact KeepsThreads.refl s
  · split
    · next u hroom =>
      refine (viewRoom_keepsThreads hroom).trans (updTile_keepsThreads u t ?_)
      rfl
    · exact refetch_keepsThreads s t _

/-- What a fetched unit of an ended load does at its tile. -/
def takeFetched (t : Nat) (s : State) (e : Nat × (Unit64 × Bool)) : State :=
  if e.2.2 then enterView s t e.1 e.2.1 else refetch s t (· == e.1)

theorem takeFetched_keepsThreads (t : Nat) (s : State) (e : Nat × (Unit64 × Bool)) :
    KeepsThreads s (takeFetched t s e) := by
  unfold takeFetched
  split
  · exact enterView_keepsThreads s t e.1 e.2.1
  · exact refetch_keepsThreads s t _

theorem foldl_takeFetched_keepsThreads (t : Nat) (got : SMap (Unit64 × Bool)) (s : State) :
    KeepsThreads s (got.foldl (takeFetched t) s) := by
  induction got generalizing s with
  | nil => exact KeepsThreads.refl s
  | cons e got ih => exact (takeFetched_keepsThreads t s e).trans (ih _)

/-- A global load whose units have all come: they are taken at its tile, then the value is delivered. -/
theorem exec_accessReply_gload {s : State} {id k tgt off n priv : Nat} {i : Tid} {asid : BitVec 16}
    {fill : Bool} {data : SMap Unit64} {got : SMap (Unit64 × Bool)}
    (hp : pktOf s id = some ⟨k, i, tgt, .gload off n asid priv [] fill data got false⟩) :
    exec (.accessReply id) s
      = .next (deliver (got.foldl (takeFetched i.tile) (dropPkt s id)) i
          (spanValue off n (data.map fun e => loadedUnit (tile s i.tile) got e.1 e.2)) none none) := by
  show execAccessReply id s = _
  simp only [execAccessReply, hp]
  rfl

/-! ### Acknowledgements (R129, R243) -/

theorem exec_postedAck {s : State} {id k tgt : Nat} {i : Tid} {signal : Bool} {posted : Option Nat}
    {fail : Option Word} (hp : pktOf s id = some ⟨k, i, tgt, .ack signal posted fail⟩) :
    exec (.postedAck id) s = .next (ackLand (dropPkt s id) i id signal posted fail) := by
  show execPostedAck id s = _
  simp only [execPostedAck, hp]

theorem fenceWake_of_not_waiting {s : State} {i : Tid} (h : (thr s i).wait? = none) :
    fenceWake s i = s := by
  simp only [fenceWake, h]

/-- A thread's context with an acknowledgement counted: of a posted signal, or of a posted store. -/
def ackCounted (id : Nat) (signal : Bool) (fail : Option Word) (th : Thread) : Thread :=
  if signal then { th with postedN := th.postedN - 1, failN := noteFail th.failN id fail }
  else { th with postedW := th.postedW - 1, failW := noteFail th.failW id fail }

theorem ackCounted_wait? (id : Nat) (signal : Bool) (fail : Option Word) (th : Thread) :
    (ackCounted id signal fail th).wait? = th.wait? := by
  cases signal <;> rfl

/-- An acknowledgement that no tile counts, of a thread that does not wait, changes its counts only. -/
theorem ackLand_of_not_waiting {s : State} {i : Tid} (hi : i.tile < 1024) (id : Nat)
    (signal : Bool) (fail : Option Word) (h : (thr s i).wait? = none) :
    ackLand s i id signal none fail = setThr s i (ackCounted id signal fail (thr s i)) := by
  have hcount : ackLand s i id signal none fail
      = fenceWake (updThr s i (ackCounted id signal fail)) i := rfl
  rw [hcount, updThr_eq, fenceWake_of_not_waiting]
  rw [thr_setThr_same s _ hi, ackCounted_wait?, h]

/-! ### A probe's answer (R133) -/

/-- A tile that keeps the answers for the pages of these keys, with the newest of those it had. -/
def keepProbed (keys : List Nat) (tl : Tile) : Tile :=
  let ps := tl.probed.filter (fun k => !keys.contains k) ++ keys
  { tl with probed := ps.drop (ps.length - 64) }

theorem keepProbed_wbuf (keys : List Nat) (tl : Tile) : (keepProbed keys tl).wbuf = tl.wbuf := by
  simp only [keepProbed]

theorem keepProbed_probed_length_le (keys : List Nat) (tl : Tile) :
    (keepProbed keys tl).probed.length ≤ 64 := by
  simp only [keepProbed, List.length_drop]
  omega

/-- The new answers are the last in the list, and of no more than 64 all stay. -/
theorem mem_keepProbed_probed {keys : List Nat} (tl : Tile) (h : keys.length ≤ 64) {x : Nat}
    (hx : x ∈ keys) : x ∈ (keepProbed keys tl).probed := by
  simp only [keepProbed, List.length_append]
  rw [List.drop_append_of_le_length (by omega)]
  exact List.mem_append_right _ hx

/-- The keys of the pages that a probed store touches. -/
def probedKeys (s : State) (i : Tid) (ea : Word) (bytes : List Byte) : List Nat :=
  (spanPages (pOff ea) bytes.length).map (pageKey (thr s i).asid)

/-- A probed store put into its tile's write buffer, once its packet has left the network. -/
def probedStore (s : State) (i : Tid) (ea : Word) (bytes : List Byte) : Option State :=
  storeSpan s i.tile (thr s i).asid (pOff ea) bytes.length (bytesNat bytes)

/-- The state in which a probed store completes: its units are remembered for fences, and its tile keeps
the answer. -/
def probeKept (s u : State) (i : Tid) (ea : Word) (bytes : List Byte) : State :=
  let u := noteStores u i (unitKeys (thr s i).asid (pOff ea) bytes.length)
  updTile u i.tile (keepProbed (probedKeys s i ea bytes))

theorem tile_probeKept (s u : State) (i : Tid) (ea : Word) (bytes : List Byte) :
    ∃ tl : Tile, tl.wbuf = (tile u i.tile).wbuf
      ∧ tile (probeKept s u i ea bytes) i.tile = keepProbed (probedKeys s i ea bytes) tl :=
  ⟨_, tile_setThr_wbuf u i _ i.tile, tile_setTile_same _ _ _⟩

section Probe

variable {s : State} {id k tgt v : Nat} {i : Tid} {bad : Option Nat} {ea : Word} {bytes : List Byte}
  {pops : List Nat} (hw : (thr s i).wait? = some (.probe ea bytes pops))
include hw

theorem exec_storeProbeReply_failure {f : Failure}
    (hp : pktOf s id = some ⟨k, i, tgt, .reply v bad (some f)⟩) :
    exec (.storeProbeReply id) s = .next (failThread (dropPkt s id) i f ea) := by
  show execStoreProbeReply id s = _
  simp only [execStoreProbeReply, hp, hw]

theorem exec_storeProbeReply_full (hp : pktOf s id = some ⟨k, i, tgt, .reply v bad none⟩)
    (hfull : probedStore (dropPkt s id) i ea bytes = none) :
    exec (.storeProbeReply id) s = .next (trapPair (dropPkt s id) i .phaseLogFull ea) := by
  unfold probedStore at hfull
  show execStoreProbeReply id s = _
  simp only [execStoreProbeReply, hp, hw, hfull]

theorem exec_storeProbeReply_stored {u : State}
    (hp : pktOf s id = some ⟨k, i, tgt, .reply v bad none⟩)
    (hstored : probedStore (dropPkt s id) i ea bytes = some u) :
    exec (.storeProbeReply id) s = .next (retryTile
      (complete (popStreams (probeKept s u i ea bytes) i pops) i (fun th => th)) i.tile) := by
  unfold probedStore at hstored
  show execStoreProbeReply id s = _
  simp only [execStoreProbeReply, hp, hw, hstored]
  rfl

end Probe

/-! ### A signal that arrives (R243, R264) -/

/-- At a place in the package the cue is signalled and the packet becomes the acknowledgement; at a saved
context's it stays for the inbox (R330). -/
theorem exec_cueSignalArrival {s : State} {id k tgt t cue n : Nat} {i : Tid} {x : Word}
    (hp : pktOf s id = some ⟨k, i, tgt, .cueSig t cue n x⟩) :
    exec (.cueSignalArrival id) s = .next (if savedBase ≤ t then s
      else cueSignal (setBody s id (.ack true none none)) (.tile t cue) n) := by
  show execCueSignalArrival id s = _
  simp only [execCueSignalArrival, hp]
  split <;> rfl

/-! ### The statement -/

/-- Settles O44: the clauses are what `deliver` does with each kind of reply, what a fetched load, an
acknowledgement and a probe's answer leave, and the two places of an arriving signal. -/
theorem repliesReachTheirThreads : Obligations.RepliesReachTheirThreads := by
  unfold Obligations.RepliesReachTheirThreads
  intro s id k tgt i hi s0
  refine ⟨fun v w hp hw => ?value, fun v src w hp hw => ?uncorrectable,
    fun v b c sub w hp hw hl => ?failure,
    fun off n asid priv fill data got hp rd sg ea hw => ?fetched,
    fun signal posted fail hp => ?ack, fun v b ea bytes pops hw => ?probe,
    fun t cue n x hp => ?signal⟩
  case value =>
    have hland : exec (.accessReply id) s = .next (landWait s0 i v w) :=
      (exec_accessReply hp).trans (congrArg _ (deliver_value (s := s0) hw v))
    refine ⟨?_, ?_, ?_, ?_, ?_, ?_⟩
    · rintro rd n sg ea rfl
      exact hland
    · rintro rd n ea rfl
      exact hland
    · rintro rd rfl
      exact hland
    · rintro vd n ea (rfl | rfl)
      · exact hland
      · exact hland
    · rintro rd ea arg rfl
      exact hland
    · rintro rfl
      exact hland
  case uncorrectable =>
    exact (exec_accessReply hp).trans
      (congrArg _ (deliver_uncorrectable (s := s0) hw v src))
  case failure =>
    have hfail : exec (.accessReply id) s = .next (failThread s0 i ⟨c, sub⟩ w.ea) :=
      (exec_accessReply hp).trans (congrArg _ (deliver_failure (s := s0) hw v b ⟨c, sub⟩))
    refine ⟨?_, fun hsub => ?_⟩
    · rintro rfl
      rw [hfail, failThread_without_sub (s := s0) c w.ea hl]
    · rw [hfail, failThread_with_sub (s := s0) c w.ea hi hl hsub]
  case fetched =>
    obtain ⟨hhbm, hthr⟩ := foldl_takeFetched_keepsThreads i.tile got s0
    refine ⟨got.foldl (takeFetched i.tile) s0, ?_, hhbm, ?_⟩
    · exact (exec_accessReply_gload hp).trans
        (congrArg _ (deliver_value ((congrArg Thread.wait? (hthr i)).trans hw) _))
    · rintro rfl
      rfl
  case ack =>
    have hack := exec_postedAck hp
    refine ⟨hack, ?_, ?_⟩
    · rintro rfl hw rfl
      exact hack.trans (congrArg _ (ackLand_of_not_waiting hi id true fail hw))
    · rintro rfl hw rfl
      exact hack.trans (congrArg _ (ackLand_of_not_waiting hi id false fail hw))
  case probe =>
    intro keys stored
    refine ⟨fun hp => ⟨fun u hu => ?_, fun hfull hl => ?_⟩,
      fun f hp => exec_storeProbeReply_failure hw hp⟩
    · obtain ⟨tl, hwbuf, htile⟩ := tile_probeKept s u i ea bytes
      refine ⟨probeKept s u i ea bytes, exec_storeProbeReply_stored hw hp hu, ?_⟩
      rw [htile]
      exact ⟨(keepProbed_wbuf keys tl).trans hwbuf, keepProbed_probed_length_le keys tl,
        fun hlen x hx => mem_keepProbed_probed tl hlen hx⟩
    · rw [exec_storeProbeReply_full hw hp hfull, trapPair_of_single (s := dropPkt s id) _ _ hl]
  case signal =>
    have harrive := exec_cueSignalArrival hp
    exact ⟨fun ht => by rw [harrive, if_neg (Nat.not_le.2 ht)],
      fun ht => by rw [harrive, if_pos ht]⟩

end Sys2Proof.Machine
end

