-- ==== Sys2Proof/Proofs/Translation.lean ====
section
/-! SUPPORT. What a phase, IFENCE and the translation commands leave when they complete (R91 to R93,
R247, R248). -/

namespace Sys2Proof.Machine

/-! ### Phases (R247) -/

/-- What a group that has published does: its members' accesses are performed, its tiles' views cleared and
every member is ready, or it waits while an access cannot be performed. -/
def phaseEnd (g : List (Tid × Thread)) (s : State) : State :=
  match groupPerform g s with
  | some s2 => g.foldl (fun s e => complete s e.1 id) ((groupTiles g).foldl phaseClear s2)
  | none => s

theorem phaseEnd_of_performed {g : List (Tid × Thread)} {s s2 : State}
    (h : groupPerform g s = some s2) : phaseEnd g s
      = g.foldl (fun s e => complete s e.1 id) ((groupTiles g).foldl phaseClear s2) := by
  simp only [phaseEnd, h]

theorem phaseEnd_of_not_performed {g : List (Tid × Thread)} {s : State}
    (h : groupPerform g s = none) : phaseEnd g s = s := by
  simp only [phaseEnd, h]

/-- Nothing happens before the whole group has arrived; then its tiles publish, and the phase ends in the
step in which the last publication does. -/
theorem exec_phaseComplete {s : State} {i : Tid} {scope : Nat} {pred succ : BitVec 6}
    {g : List (Tid × Thread)} (hw : (thr s i).wait? = some (.phase scope pred succ))
    (hg : phaseGroup s (thr s i) scope = g) :
    exec (.phaseComplete i.tile i.slot) s = .next (
      if groupArrived g scope then
        if (publishTiles s (groupTiles g)).2 then phaseEnd g (publishTiles s (groupTiles g)).1
        else (publishTiles s (groupTiles g)).1
      else s) := by
  show execPhaseComplete i.tile i.slot s = _
  simp only [execPhaseComplete, hw, hg]
  split
  · split
    · unfold phaseEnd
      cases groupPerform g (publishTiles s (groupTiles g)).1 <;> rfl
    · rfl
  · rfl

/-! ### IFENCE (R248) -/

theorem smGet_smMap {α : Type} (d : α) (f : Nat → α → α) {m : SMap α} {k : Nat}
    (h : smFind m k ≠ none) : smGet d (smMap f m) k = f k (smGet d m k) := by
  induction m with
  | nil => exact absurd rfl h
  | cons e m ih =>
    obtain ⟨j, v⟩ := e
    by_cases hj : j = k
    · subst hj
      simp [smMap, smGet]
    · simpa [smMap, smGet, hj] using ih (by simpa [smFind, hj] using h)

/-- Tile `u` with its instruction cache emptied where it lies in the scope of tile `t`. -/
def emptyIcache (s : State) (t scope u : Nat) (tl : Tile) : Tile :=
  if inScope s t scope u then { tl with icache := [] } else tl

/-- The package with every instruction cache of a tile's scope emptied. -/
def icachesEmptied (s : State) (t scope : Nat) : State :=
  { s with tiles := smMap (emptyIcache s t scope) s.tiles }

theorem tile_icachesEmptied {s : State} {u : Nat} (t scope : Nat) (h : smFind s.tiles u ≠ none) :
    tile (icachesEmptied s t scope) u = emptyIcache s t scope u (tile s u) :=
  smGet_smMap Tile.zero (emptyIcache s t scope) h

theorem exec_ifenceComplete {s : State} {i : Tid} {scope : Nat}
    (hw : (thr s i).wait? = some (.ifence scope)) :
    exec (.ifenceComplete i.tile i.slot) s
      = .next (complete (icachesEmptied s i.tile scope) i id) := by
  show execIfenceComplete i.tile i.slot s = _
  simp only [execIfenceComplete, hw]
  rfl

/-! ### Translations and generations (R91, R95) -/

/-- No translation that was to be dropped is left. -/
theorem of_mem_dropTlbs {s : State} {p : Tlb → Bool} {t : Tlb} (h : t ∈ (dropTlbs s p).tlbs) :
    p t = false := by
  simpa using (List.mem_filter.1 h).2

@[simp] theorem setRetired_tlbs (s : State) (asid : BitVec 16) (v : Bool) :
    (setRetired s asid v).tlbs = s.tlbs := rfl

@[simp] theorem isRetired_setRetired (s : State) (asid : BitVec 16) (v : Bool) :
    isRetired (setRetired s asid v) asid = v := by
  have hn : asid.toNat % 16 < 16 := Nat.mod_lt _ (by decide)
  have hbit : (BitVec.ofNat 16 (2 ^ (asid.toNat % 16))).getLsbD (asid.toNat % 16) = true := by
    rw [BitVec.getLsbD_ofNat, Nat.testBit_two_pow_self, decide_eq_true hn, Bool.and_self]
  have hmask : retiredMask (setRetired s asid v) asid
      = if v then retiredMask s asid ||| BitVec.ofNat 16 (2 ^ (asid.toNat % 16))
        else retiredMask s asid &&& ~~~BitVec.ofNat 16 (2 ^ (asid.toNat % 16)) :=
    smGet_smSet_same _ _ _ _
  unfold isRetired
  rw [hmask]
  cases v
  · rw [if_neg Bool.false_ne_true, BitVec.getLsbD_and, BitVec.getLsbD_not, hbit, Bool.not_true,
      Bool.and_false, Bool.and_false]
  · rw [if_pos rfl, BitVec.getLsbD_or, hbit, Bool.or_true]

/-! ### Translation commands (R92, R93) -/

section Commands

variable {s : State} {id : Nat} {c : XlCmd}

/-- The translations that an INVPAGE drops: of the command's space, those of its pages, and every big one
whose 4,096 pages meet them. -/
def invpageHit (c : XlCmd) (t : Tlb) : Bool :=
  let first := pOff c.va / 65536
  t.asid == c.asid &&
    (if t.big then decide (first / 4096 ≤ t.page / 4096)
        && decide (t.page / 4096 ≤ (first + c.count - 1) / 4096)
      else decide (first ≤ t.page) && decide (t.page < first + c.count))

theorem page_outside_of_not_invpageHit {t : Tlb} (h : invpageHit c t = false)
    (ha : t.asid = c.asid) (hb : t.big = false) :
    t.page < pOff c.va / 65536 ∨ pOff c.va / 65536 + c.count ≤ t.page := by
  simp only [invpageHit, ha, hb, beq_self_eq_true, Bool.true_and, Bool.false_eq_true, if_false,
    Bool.and_eq_false_iff, decide_eq_false_iff_not] at h
  omega

theorem exec_xlInvpage (h : xlOf s id 1 = some c) :
    exec (.xlInvpage id) s = .next (xlEnd (dropTlbs s (invpageHit c)) c 0) := by
  show execXlInvpage id s = _
  simp only [execXlInvpage, h]
  rfl

/-- The state of an ASID that a RETIRE leaves: no line, no translation, and its generation retired. -/
def retireAsid (s : State) (asid : BitVec 16) : State :=
  setRetired (dropTlbs (expelAsid (physNote s 0 (spaceAt s asid)) asid) (fun t => t.asid == asid))
    asid true

theorem ne_of_mem_retireAsid_tlbs {asid : BitVec 16} {t : Tlb} (h : t ∈ (retireAsid s asid).tlbs) :
    t.asid ≠ asid := by
  rw [retireAsid, setRetired_tlbs] at h
  simpa using of_mem_dropTlbs h

theorem exec_xlRetire (h : xlOf s id 3 = some c) :
    exec (.xlRetire id) s = .next (
      if genActive s c.asid then xlEnd (physNote s 0 (spaceAt s c.asid)) c 2
      else if asidHeld s c.asid then s
      else xlEnd (retireAsid s c.asid) c 0) := by
  show execXlRetire id s = _
  simp only [execXlRetire, h]
  split
  · rfl
  · split <;> rfl

/-- The state that an ACTIVATE leaves: the generation in the space entry, and no longer retired. -/
def activateAsid (s : State) (asid : BitVec 16) : State :=
  setRetired (setPte s (spaceAt s asid) fun e => withField e 43 40 (asid.toNat % 16)) asid false

theorem exec_xlActivate (h : xlOf s id 4 = some c) :
    exec (.xlActivate id) s
      = .next (if isRetired s c.asid then xlEnd (activateAsid s c.asid) c 0 else xlEnd s c 1) := by
  show execXlActivate id s = _
  simp only [execXlActivate, h]
  split <;> rfl

theorem exec_xlHarvest_page (h : xlOf s id 5 = some c) (hd : c.done < c.count) :
    let r := harvestPage s c.asid (pOff c.va + 65536 * c.done)
    exec (.xlHarvest id) s = .next { r.1 with xl := r.1.xl.map fun x =>
      if x.id = id then
        { c with done := c.done + 1, fault := c.fault || r.2.isNone,
                 bits := c.bits + if r.2 = some true then 2 ^ c.done else 0 }
      else x } := by
  show execXlHarvest id s = _
  simp only [execXlHarvest, h, hd, if_true, beq_iff_eq]

theorem exec_xlHarvest_end (h : xlOf s id 5 = some c) (hd : c.count ≤ c.done) :
    exec (.xlHarvest id) s = .next (harvestEnd s c) := by
  show execXlHarvest id s = _
  simp only [execXlHarvest, h, Nat.not_lt.2 hd, if_false]

end Commands

/-! ### The statement -/

/-- Settles O47: each clause is a branch of its row, and what the row's own part of the state (caches,
translations, retired generations) holds after it. -/
theorem phasesAndTranslationCommandsComplete :
    Obligations.PhasesAndTranslationCommandsComplete := by
  unfold Obligations.PhasesAndTranslationCommandsComplete
  refine ⟨fun s i scope pred succ hw => ?phase, fun s i scope hw => ?ifence,
    fun s id c => ⟨fun h => ?invpage, fun h => ?retire, fun h => ?activate,
      fun h => ⟨exec_xlHarvest_page h, exec_xlHarvest_end h⟩⟩⟩
  case phase =>
    intro g s1 cleared
    have hexec := exec_phaseComplete hw (rfl : _ = g)
    refine ⟨fun ha => ?_, fun ha hdone => ⟨fun s2 hs2 => ?_, fun hnone => ?_⟩, fun ha hwaits => ?_⟩
    · rw [hexec, if_neg (Bool.eq_false_iff.1 ha)]
    · rw [hexec, if_pos ha, if_pos hdone, phaseEnd_of_performed hs2]
      rfl
    · rw [hexec, if_pos ha, if_pos hdone, phaseEnd_of_not_performed hnone]
    · rw [hexec, if_pos ha, if_neg (Bool.eq_false_iff.1 hwaits)]
  case ifence =>
    refine ⟨icachesEmptied s i.tile scope, exec_ifenceComplete hw, fun u hu =>
      ⟨fun hin => ?_, fun hout => ?_⟩⟩
    · rw [tile_icachesEmptied i.tile scope hu, emptyIcache, if_pos hin]
    · rw [tile_icachesEmptied i.tile scope hu, emptyIcache, if_neg (Bool.eq_false_iff.1 hout)]
  case invpage =>
    exact ⟨dropTlbs s (invpageHit c), exec_xlInvpage h, fun t ht =>
      page_outside_of_not_invpageHit (of_mem_dropTlbs ht)⟩
  case retire =>
    refine ⟨fun hactive => ?_, fun hactive hheld => ?_, fun hactive hheld =>
      ⟨retireAsid s c.asid, ?_, isRetired_setRetired _ _ _, fun t ht => ne_of_mem_retireAsid_tlbs ht⟩⟩
    · rw [exec_xlRetire h, if_pos hactive]
    · rw [exec_xlRetire h, if_neg (Bool.eq_false_iff.1 hactive), if_pos hheld]
    · rw [exec_xlRetire h, if_neg (Bool.eq_false_iff.1 hactive),
        if_neg (Bool.eq_false_iff.1 hheld)]
  case activate =>
    refine ⟨fun hold => ?_, fun hretired =>
      ⟨activateAsid s c.asid, ?_, isRetired_setRetired _ _ _⟩⟩
    · rw [exec_xlActivate h, if_neg (Bool.eq_false_iff.1 hold)]
    · rw [exec_xlActivate h, if_pos hretired]

end Sys2Proof.Machine
end

