-- ==== Sys2Proof/Proofs/MatrixIssue.lean ====
section
/-! SUPPORT. What the matrix words do at an issue that nothing turns away: claims and releases (R200),
and the commands of port 0 with the SLOT check (R199, R201). -/

namespace Sys2Proof.Machine

/-- The part of a mask that a thread lacks is empty where what it holds of the mask is all of it. -/
theorem maskLacks_eq_zero_iff (m held : Nat) :
    m - Nat.land m held = 0 ↔ Nat.land m held = m := by
  have hle : Nat.land m held ≤ m := Nat.and_le_left
  omega

/-! ### Claims and releases (R200) -/

section Claims

variable {s : State} {ra : BitVec 5} (stl : BitVec 3) (h : Clear { xs := [ra] } s)
include h

/-- mclaim judges its mask, then what of it the thread holds already. -/
theorem exec_mclaim :
    let s0 := landed s
    let m := (rx s0 ra).toNat
    exec (.mclaim stl ra) s = .next (
      if badMask m = true then trapThread s0 s.cur .illegal (rx s0 ra)
      else if Nat.land m (myHeld s0) = 0 then
        slept stl .claim (updTile { s0 with fresh := s0.fresh + 1 } (me s0).home fun tl =>
          { tl with claims := tl.claims ++ [⟨s0.fresh, s.cur, m⟩] })
      else trapThread s0 s.cur .slot (BitVec.ofNat 64 (Nat.land m (myHeld s0)))) := by
  intro s0 m
  have hcur : (freshId (landed s)).2.cur = s.cur := landed_cur s
  refine (run_clear_pair stl _ _ _ h).trans ?_
  simp only [settle_ite, settle_trap, settle_sleep, hcur, landed_cur, bne_iff_ne, ne_eq, ite_not]
  rfl

/-- mrel judges its mask, then what of it the thread lacks. -/
theorem exec_mrel :
    let s0 := landed s
    let m := (rx s0 ra).toNat
    exec (.mrel stl ra) s = .next (
      if badMask m = true then trapThread s0 s.cur .illegal (rx s0 ra)
      else if Nat.land m (myHeld s0) = m then
        slept stl .release (updTile { s0 with fresh := s0.fresh + 1 } (me s0).home fun tl =>
          { tl with releases := tl.releases ++ [⟨s0.fresh, s.cur, m⟩] })
      else trapThread s0 s.cur .slot (BitVec.ofNat 64 (m - Nat.land m (myHeld s0)))) := by
  intro s0 m
  have hcur : (freshId (landed s)).2.cur = s.cur := landed_cur s
  refine (run_clear_pair stl _ _ _ h).trans ?_
  simp only [settle_ite, settle_trap, settle_sleep, hcur, landed_cur, bne_iff_ne, ne_eq, ite_not,
    ← maskLacks_eq_zero_iff]
  rfl

end Claims

/-! ### Commands of port 0 (R199, R201) -/

/-- A port-0 word puts its command on its way when the thread holds all that the command names. -/
theorem matrixIssue_eq {s : State} {cmd : Nat} {ok : Bool} {xs : List (BitVec 5)}
    (a b : State → Word) (stl : BitVec 3) (tag : BitVec 4)
    (h : Clear { ok := ok, xs := xs, res := xs.map fun x => (x, 5), kind := 3 } s) :
    let s0 := landed s
    let c := commandOf s0 0 cmd tag (a s0) (b s0)
    let s1 := { s0 with fresh := s0.fresh + 1 }
    let home := (me s0).home
    let need := cmdNames (tile s0 home) (tile s0 home).mQueue c
    matrixIssue cmd ok xs a b stl tag s = .next (
      if Nat.land need (myHeld s0) = need then
        slept stl (.accept 0)
          (updTile s1 home fun tl => { tl with mArrivals := tl.mArrivals ++ [c] })
      else trapThread s1 s.cur .slot (BitVec.ofNat 64 (need - Nat.land need (myHeld s0)))) := by
  intro s0 c s1 home need
  refine (run_clear stl _ _ s h).trans ?_
  have hcur : s1.cur = s.cur := landed_cur s
  simp only [settle_ite, settle_trap, settle_sleep, bne_iff_ne, ne_eq, ite_not, ← hcur,
    ← maskLacks_eq_zero_iff]
  rfl

/-- Every word of the table issues the command of its row. -/
theorem exec_of_matrixTable {s : State} {i : Instr} {r : MatrixRow}
    (hr : matrixTable (landed s) i = some r) : ∃ a b : State → Word,
      exec i s = matrixIssue r.cmd r.ok r.xs a b r.stl r.tag s
      ∧ a (landed s) = r.a ∧ b (landed s) = r.b := by
  unfold matrixTable at hr
  split at hr <;> cases hr
  case h_1 stl tag ra rb => exact ⟨numOp ra, (rx · rb), rfl, rfl, rfl⟩
  case h_2 stl tag ra rb => exact ⟨numOp ra, numOp rb, rfl, rfl, rfl⟩
  case h_3 stl tag ra rb => exact ⟨numOp ra, numOp rb, rfl, rfl, rfl⟩
  case h_4 stl tag ra rb => exact ⟨(rx · ra), (rx · rb), rfl, rfl, rfl⟩
  case h_5 stl tag ra rb => exact ⟨numOp ra, (rx · rb), rfl, rfl, rfl⟩
  case h_6 stl tag ra => exact ⟨numOp ra, fun _ => 0, rfl, rfl, rfl⟩
  case h_7 stl tag ra => exact ⟨numOp ra, fun _ => 0, rfl, rfl, rfl⟩

/-! ### The statement -/

/-- Settles O32: the clauses are the branches of `exec_mclaim`, `exec_mrel` and, for each word of
the table, `matrixIssue_eq`. -/
theorem matrixWordsClaimAndIssue : Obligations.MatrixWordsClaimAndIssue := by
  unfold Obligations.MatrixWordsClaimAndIssue
  constructor
  · intro s stl ra h s0 m q s1
    have hclaim := exec_mclaim stl h
    have hrel := exec_mrel stl h
    refine ⟨fun hm hn => ?_, fun hm hn => ?_, fun hm hn => ?_, fun hm hn => ?_, fun hm => ⟨?_, ?_⟩⟩
    · rw [hclaim, if_neg (Bool.eq_false_iff.1 hm), if_pos hn]
    · rw [hrel, if_neg (Bool.eq_false_iff.1 hm), if_pos hn]
    · rw [hclaim, if_neg (Bool.eq_false_iff.1 hm), if_neg hn]
    · rw [hrel, if_neg (Bool.eq_false_iff.1 hm), if_neg hn]
    · rw [hclaim, if_pos hm]
    · rw [hrel, if_pos hm]
  · intro s i r hr h s0 c s1 home need
    obtain ⟨a, b, hexec, ha, hb⟩ := exec_of_matrixTable hr
    have hissue := hexec.trans (matrixIssue_eq a b r.stl r.tag h)
    simp only [ha, hb] at hissue
    exact ⟨fun hall => by rw [hissue, if_pos hall], fun hlacks => by rw [hissue, if_neg hlacks]⟩

end Sys2Proof.Machine
end

