-- ==== Sys2Proof/Proofs/StreamWords.lean ====
section
/-! SUPPORT. What the stream words do at an issue that nothing turns away (R114, R117, R119 to R121). -/

namespace Sys2Proof.Machine

/-! ### A binding replaced -/

theorem away_setStream {s : State} (n : Nat) (b : Stream) (hcur : s.cur.tile < 1024) :
    away (setStream s s.cur n b) = away s := by
  have hme : me (setStream s s.cur n b) = { me s with streams := smSet (me s).streams n b } :=
    me_onMe s (fun th => { th with streams := smSet th.streams n b }) hcur
  have hc : (setStream s s.cur n b).cur = s.cur := setThr_cur _ _ _
  unfold away
  rw [hme, hc]

/-- An operation on the home tile without a result, in the terms of the statements. -/
theorem settle_homeDone_eq_doneAt (stl : BitVec 3) (s : State) :
    settle stl (homeDone s) = doneAt (away s) stl s :=
  settle_homeDone stl s

/-! ### sbind: what a binder meets (R117, R119) -/

/-- The pipe that an sbind creates: its own end is taken. -/
def newPipe (i : Tid) (troupe : Nat) (b : Stream) : Pipe :=
  { troupe := troupe, key := b.key, fifo := [], writer := if b.dir = 1 then some i else none,
    reader := if b.dir = 1 then none else some i, ended := false, rgone := false }

/-- The end of an existing pipe that a thread takes. -/
def takeEnd (i : Tid) (troupe : Nat) (b : Stream) (q : Pipe) : Pipe :=
  if q.troupe = troupe ∧ q.key = b.key then
    (if b.dir = 1 then { q with writer := some i } else { q with reader := some i })
  else q

/-- Whether the end that a binding names is not free any more. -/
def endTaken (b : Stream) (q : Pipe) : Bool :=
  if b.dir = 1 then q.writer.isSome || q.ended else q.reader.isSome || q.rgone

section BindTry

variable {s : State} {i : Tid} {b : Stream} (n : Nat)

theorem bindTry_of_not_pipe (hk : b.kind ≠ 3) : bindTry s i n b
    = if 32 ≤ fifosUsed (tile s i.tile) then .full else .bound (setStream s i n b) := by
  simp only [bindTry, hk, if_false]

variable {tr : Nat} (htr : (thr s i).troupe = tr)
include htr

theorem bindTry_new_pipe (hk : b.kind = 3) (hp : findPipe (tile s i.tile) tr b.key = none) :
    bindTry s i n b = if 32 ≤ fifosUsed (tile s i.tile) then .full
      else .bound (setStream (updTile s i.tile fun tl =>
        { tl with pipes := tl.pipes ++ [newPipe i tr b] }) i n b) := by
  subst htr
  simp only [bindTry, hk, if_true, hp, Pipe.attach, newPipe, beq_iff_eq]
  split
  · rfl
  · by_cases hd : b.dir = 1 <;> simp only [hd, if_true, if_false]

theorem bindTry_full (hk : b.kind ≠ 3 ∨ findPipe (tile s i.tile) tr b.key = none)
    (hfull : 32 ≤ fifosUsed (tile s i.tile)) : bindTry s i n b = .full := by
  by_cases h3 : b.kind = 3
  · rw [bindTry_new_pipe n htr h3 (hk.resolve_left (not_not_intro h3)), if_pos hfull]
  · rw [bindTry_of_not_pipe n h3, if_pos hfull]

theorem bindTry_pipe {q : Pipe} (hk : b.kind = 3)
    (hp : findPipe (tile s i.tile) tr b.key = some q) :
    bindTry s i n b = if endTaken b q = true then .taken
      else .bound (setStream (updTile s i.tile fun tl =>
        { tl with pipes := tl.pipes.map (takeEnd i tr b) }) i n b) := by
  subst htr
  have hmap : takeEnd i (thr s i).troupe b = fun p =>
      if (p.troupe == (thr s i).troupe && p.key == b.key) = true then p.attach i (b.dir == 1) else p := by
    funext p
    simp only [takeEnd, Pipe.attach, Bool.and_eq_true, beq_iff_eq]
  simp only [bindTry, hk, if_true, hp, hmap, endTaken, beq_iff_eq]

end BindTry

/-! ### sbind (R114, R119, R121) -/

/-- How an sbind ends that meets a taken end, no free FIFO, or its binding. -/
def bindRet (n : Nat) (b : Stream) (s : State) : BindRes → Ret
  | .taken => .trap .stream (bindWord b.kind 0x01) s
  | .full => .sleep (.bind n b) s
  | .bound t => homeDone t

/-- An sbind that binds is done at the home tile. -/
theorem settle_bindRet_bound (stl : BitVec 3) (n : Nat) (b : Stream) {s t : State}
    (hcur : s.cur.tile < 1024) (hc : t.cur = s.cur) (ha : away t = away s) :
    settle stl (bindRet n b s (.bound (setStream t s.cur n b)))
      = doneAt (away s) stl (setStream t s.cur n b) := by
  rw [bindRet, settle_homeDone_eq_doneAt, ← hc, away_setStream n b (hc ▸ hcur), ha]

theorem away_updTile (s : State) (t : Nat) {f : Tile → Tile}
    (hf : (f (tile s t)).threads = (tile s t).threads) : away (updTile s t f) = away s := by
  unfold away
  rw [me_updTile s t f hf]
  rfl

section Sbind

variable {s : State} {rd ra : BitVec 5} (stl : BitVec 3)
  (h : Clear { ok := streamOk rd, xs := [ra] } s)
include h

/-- The pointer of a descriptor is judged before anything is read. -/
theorem exec_sbind_bad_pointer
    (hp : pSpace (rx (landed s) ra) ≠ 2 ∨ pOff (rx (landed s) ra) % 32 ≠ 0
      ∨ spadSize < pOff (rx (landed s) ra) + 32) :
    exec (.sbind stl rd ra) s = .next (trapThread (landed s) s.cur .stream 4) := by
  refine (run_clear stl _ _ s h).trans ?_
  simp only [settle_ite, settle_trap, landed_cur, Bool.or_eq_true, bne_iff_ne, ne_eq,
    decide_eq_true_eq, or_assoc]
  rw [if_pos hp]
  rfl

/-- A descriptor read without error is judged: a bound stream or reserved fields first, then its
spaces and alignment, then what the binder meets. -/
theorem exec_sbind_descriptor (hspace : pSpace (rx (landed s) ra) = 2)
    (hal : pOff (rx (landed s) ra) % 32 = 0) (hend : pOff (rx (landed s) ra) + 32 ≤ spadSize)
    (hok : (spadRead (landed s) (me (landed s)).home (pOff (rx (landed s) ra)) 32).2 = false)
    {d : Nat} {b : Stream}
    (hd : d = readLE (tile (landed s) (me (landed s)).home).spad (pOff (rx (landed s) ra)) 32)
    (hb : b = { parseStream d with asid := (me (landed s)).asid, priv := (me (landed s)).priv }) :
    let s0 := landed s
    exec (.sbind stl rd ra) s = .next (
      if (smFind (me s0).streams rd.toNat).isSome = true ∨ streamReserved b d = true then
        trapThread s0 s.cur .stream (bindWord b.kind 0x01)
      else if streamMisplaced b = true then trapThread s0 s.cur .stream (bindWord b.kind 0x04)
      else settle stl (bindRet rd.toNat b s0 (bindTry s0 s.cur rd.toNat b))) := by
  intro s0
  have hread : (spadRead (landed s) (me (landed s)).home (pOff (rx (landed s) ra)) 32).1 = d := hd.symm
  have hkind : (parseStream d).kind = b.kind := hb ▸ rfl
  dsimp only at hb
  have hpointer : (pSpace (rx (landed s) ra) != 2 || pOff (rx (landed s) ra) % 32 != 0
      || decide (spadSize < pOff (rx (landed s) ra) + 32)) = false := by
    simp [hspace, hal, Nat.not_lt.2 hend]
  refine (run_clear stl _ _ s h).trans ?_
  simp only [hpointer, hok, hread, ← hb, Bool.false_eq_true, if_false, settle_ite, settle_trap,
    landed_cur, Bool.or_eq_true]
  rw [hkind]
  rfl

end Sbind

/-! ### sunbind and sdrain (R119) -/

/-- A pipe's read end is an input stream. -/
theorem not_read_end {b : Stream} (hin : b.isInput = false) : ¬ (b.kind = 3 ∧ b.dir = 0) := by
  rintro ⟨hk, hd⟩
  simp [Stream.isInput, hk, hd] at hin

section Drained

variable {s : State} {i : Tid} {b : Stream} (hin : b.isInput = false) (hst : b.st ≠ 3)
include hin hst

theorem streamDrained_of_not_pipe (hk : b.kind ≠ 3) : streamDrained s i b = true ↔ b.fifo = [] := by
  simp [streamDrained, hin, hst, hk]

theorem streamDrained_of_pipe {q : Pipe} (hk : b.kind = 3) (hq : pipeOf s i b = some q) :
    streamDrained s i b = true ↔ q.fifo = [] ∨ q.rgone = true := by
  simp [streamDrained, hin, hst, hk, hq]

end Drained

section OneStream

variable {s : State} {rd : BitVec 5} (stl : BitVec 3) (h : Clear { ok := streamOk rd } s)
include h

theorem exec_sunbind_unbound (hn : smFind (me (landed s)).streams rd.toNat = none) :
    exec (.sunbind stl rd) s = .next (went stl (landed s)) := by
  refine (run_clear stl _ _ s h).trans ?_
  simp only [hn, settle_go]

theorem exec_sunbind {b : Stream} (hb : smFind (me (landed s)).streams rd.toNat = some b) :
    let s0 := landed s
    exec (.sunbind stl rd) s = .next (
      if streamDrained s0 s.cur b = true then went stl (streamFree s0 s.cur rd.toNat b)
      else slept stl .retry s0) := by
  intro s0
  refine (run_clear stl _ _ s h).trans ?_
  simp only [hb, settle_ite, settle_go, settle_sleep, landed_cur, s0]

theorem exec_sdrain_unbound (hn : smFind (me (landed s)).streams rd.toNat = none) :
    exec (.sdrain stl rd) s
      = .next (trapThread (landed s) s.cur .stream (sstatWord (landed s) s.cur rd.toNat)) := by
  refine (run_clear stl _ _ s h).trans ?_
  simp only [hn, settle_trap, landed_cur]

/-- sdrain leaves a pipe's read end, empties another input stream, and of an output stream or a pipe's
write end waits for the entries, unless it is in error. -/
theorem exec_sdrain {b : Stream} (hb : smFind (me (landed s)).streams rd.toNat = some b) :
    let s0 := landed s
    exec (.sdrain stl rd) s = .next (
      if b.kind = 3 ∧ b.dir = 0 then went stl s0
      else if b.isInput = true then went stl (setStream s0 s.cur rd.toNat
        { b with fifo := [], seen := [], next := b.pos, err := if b.marked then 0 else b.err,
                 marked := false })
      else if b.st = 3 then
        trapThread s0 s.cur .stream (sstatWord s0 s.cur rd.toNat)
      else if streamDrained s0 s.cur b = true then went stl s0
      else slept stl .retry s0) := by
  intro s0
  refine (run_clear stl _ _ s h).trans ?_
  simp only [hb, settle_ite, settle_go, settle_sleep, settle_trap, landed_cur, s0,
    Bool.and_eq_true, decide_eq_true_eq]

end OneStream

/-! ### sstat (R120) -/

theorem exec_sstat {s : State} {rd ra : BitVec 5} (stl : BitVec 3)
    (h : Clear { ok := streamOk ra, xs := [rd] } s) :
    exec (.sstat stl rd ra) s
      = .next (went stl (giveX stl 1 rd (sstatWord (landed s) s.cur ra.toNat) (landed s))) := by
  refine (run_clear stl { ok := streamOk ra, xs := [rd], pair := .takes (some rd.toNat) } _ s
    (clear_agree h rfl rfl rfl rfl rfl)).trans ?_
  simp only [settle_go, putX_eq_giveX, landed_cur]

/-! ### sskip (R119, R121) -/

/-- A pipe's read end after `k` of its entries have been skipped. -/
def pipeSkipped (s : State) (i : Tid) (n : Nat) (b : Stream) (q : Pipe) (k next : Nat) : State :=
  let t := setStream (setPipeFifo s i b (q.fifo.drop k)) i n { b with pos := b.pos + k, next := next }
  if k = 0 then t else retryTile t i.tile

/-- sskip of a pipe's read end: `next` of the binding counts what earlier issues have skipped. -/
theorem skipPipe_eq (n c : Nat) {s : State} {b : Stream} {q : Pipe}
    (hq : pipeOf s s.cur b = some q) :
    let k := min (c - b.next) q.fifo.length
    skipPipe n c b s =
      if c - b.next ≤ q.fifo.length ∨ q.ended = true then .go (pipeSkipped s s.cur n b q k 0)
      else .sleep .retry (pipeSkipped s s.cur n b q k (b.next + k)) := by
  intro k
  have hdone : (decide (c - b.next - min (c - b.next) q.fifo.length = 0) || q.ended) = true
      ↔ c - b.next ≤ q.fifo.length ∨ q.ended = true := by
    rw [Bool.or_eq_true, decide_eq_true_eq, Nat.sub_eq_zero_iff_le, Nat.le_min]
    simp only [Nat.le_refl, true_and]
  unfold skipPipe
  simp only [hq, hdone]
  by_cases h : c - b.next ≤ q.fifo.length ∨ q.ended = true
  · simp only [h, if_true]
    rfl
  · simp only [h, if_false]
    rfl

section Sskip

variable {s : State} {rd ra : BitVec 5} (stl : BitVec 3)
  (h : Clear { ok := streamOk rd, xs := [ra] } s)
include h

theorem exec_sskip_unbound (hn : smFind (me (landed s)).streams rd.toNat = none) :
    exec (.sskip stl rd ra) s
      = .next (trapThread (landed s) s.cur .stream (sstatWord (landed s) s.cur rd.toNat)) := by
  refine (run_clear stl _ _ s h).trans ?_
  simp only [hn, settle_trap, landed_cur]

theorem exec_sskip_stream {b : Stream} (hb : smFind (me (landed s)).streams rd.toNat = some b)
    (hk : b.kind ≠ 3) :
    exec (.sskip stl rd ra) s = .next (went stl (setStream (landed s) s.cur rd.toNat
      (if b.isInput then skipInput b (rx (landed s) ra).toNat
       else { b with pos := b.pos + (rx (landed s) ra).toNat }))) := by
  refine (run_clear stl _ _ s h).trans ?_
  simp only [hb, hk, if_false, settle_ite, settle_go, landed_cur]
  split <;> rfl

theorem exec_sskip_write_end {b : Stream} (hb : smFind (me (landed s)).streams rd.toNat = some b)
    (hk : b.kind = 3) (hd : b.dir = 1) :
    exec (.sskip stl rd ra) s
      = .next (trapThread (landed s) s.cur .stream (sstatWord (landed s) s.cur rd.toNat)) := by
  refine (run_clear stl _ _ s h).trans ?_
  simp only [hb, hk, hd, if_true, settle_trap, landed_cur]

theorem exec_sskip_read_end {b : Stream} {q : Pipe}
    (hb : smFind (me (landed s)).streams rd.toNat = some b) (hk : b.kind = 3) (hd : b.dir = 0)
    (hq : pipeOf (landed s) s.cur b = some q) :
    let s0 := landed s
    let left := (rx s0 ra).toNat - b.next
    let k := min left q.fifo.length
    exec (.sskip stl rd ra) s = .next (
      if left ≤ q.fifo.length ∨ q.ended = true then went stl (pipeSkipped s0 s.cur rd.toNat b q k 0)
      else slept stl .retry (pipeSkipped s0 s.cur rd.toNat b q k (b.next + k))) := by
  intro s0 left k
  refine (run_clear stl _ _ s h).trans ?_
  simp only [hb]
  rw [if_pos hk, if_neg (by rw [hd]; decide), skipPipe_eq _ _ (by rwa [landed_cur]), settle_ite,
    settle_go, settle_sleep, landed_cur]

end Sskip

/-! ### The statement -/

/-- Settles O27: the clauses are the branches of the five words' lemmas, and of sbind those of what its
binder meets. -/
theorem streamWords : Obligations.StreamWords := by
  unfold Obligations.StreamWords
  intro s stl rd ra s0 n p tl
  refine ⟨?sbind, ?pointer, ?one, ?sstat, ?sskip⟩
  case sbind =>
    intro h hspace hal hend hok d b bound fails mine
    have hexec := exec_sbind_descriptor stl h hspace hal hend hok (rfl : d = _) (rfl : b = _)
    have hcur : s0.cur = s.cur := landed_cur s
    have htr : (thr s0 s.cur).troupe = (me s0).troupe := by rw [me, hcur]
    have hbound : ∀ t, t.cur = s0.cur → away t = away s0 →
        settle stl (bindRet n b s0 (.bound (setStream t s.cur n b)))
          = doneAt (away s0) stl (setStream t s.cur n b) :=
      fun t hc ha => hcur ▸ settle_bindRet_bound stl n b (hcur ▸ h.place) hc ha
    dsimp only at hexec
    refine ⟨fun hbad => hexec.trans (by rw [if_pos hbad]; rfl), fun hn hres => ?_⟩
    have hgood : ¬ ((smFind (me s0).streams n).isSome = true ∨ streamReserved b d = true) := by
      simp [hn, hres]
    rw [if_neg hgood] at hexec
    refine ⟨fun hmis => hexec.trans (by rw [if_pos hmis]; rfl), fun hmis => ?_⟩
    rw [if_neg (Bool.eq_false_iff.1 hmis)] at hexec
    refine ⟨fun hk hfree => ?stream, ?newPipe, fun hk hfull => ?full, ?pipe⟩
    case stream =>
      rw [bindTry_of_not_pipe _ hk, if_neg (Nat.not_le.2 hfree)] at hexec
      exact hexec.trans (congrArg _ (hbound s0 rfl rfl))
    case newPipe =>
      intro hk hp hfree q
      rw [bindTry_new_pipe _ htr hk hp, if_neg (Nat.not_le.2 hfree)] at hexec
      exact hexec.trans (congrArg _ (hbound _ rfl (away_updTile s0 _ rfl)))
    case full =>
      rw [bindTry_full _ htr hk hfull] at hexec
      exact hexec.trans (congrArg _ (settle_sleep stl _ s0))
    case pipe =>
      intro q hk hp taken
      rw [bindTry_pipe _ htr hk hp] at hexec
      refine ⟨fun (htaken : endTaken b q = true) => ?_, fun (hfree : endTaken b q = false) => ?_⟩
      · rw [if_pos htaken] at hexec
        exact hexec.trans (by rw [bindRet, settle_trap, hcur]; rfl)
      · rw [if_neg (Bool.eq_false_iff.1 hfree)] at hexec
        exact hexec.trans (congrArg _ (hbound _ rfl (away_updTile s0 _ rfl)))
  case pointer => exact fun h hp => exec_sbind_bad_pointer stl h hp
  case one =>
    intro h
    refine ⟨fun hn => ⟨exec_sunbind_unbound stl h hn, exec_sdrain_unbound stl h hn⟩, fun b hb => ?_⟩
    have hunbind := exec_sunbind stl h hb
    have hdrain := exec_sdrain stl h hb
    dsimp only at hunbind hdrain
    refine ⟨fun hd => ?_, fun hd => ?_, fun hin hk => ?_, fun hk hd => ?_, fun hin hst => ?_,
      fun hin hst => ⟨fun hd => ?_, fun hd => ?_, streamDrained_of_not_pipe hin hst,
        fun hk q => streamDrained_of_pipe hin hst hk⟩⟩
    · rw [hunbind, if_pos hd]
    · rw [hunbind, if_neg (Bool.eq_false_iff.1 hd)]
    · rw [hdrain, if_neg fun hp => hk hp.1, if_pos hin]
    · rw [hdrain, if_pos ⟨hk, hd⟩]
    · rw [hdrain, if_neg (not_read_end hin), if_neg (Bool.eq_false_iff.1 hin), if_pos hst]
    · rw [hdrain, if_neg (not_read_end hin), if_neg (Bool.eq_false_iff.1 hin), if_neg hst, if_pos hd]
    · rw [hdrain, if_neg (not_read_end hin), if_neg (Bool.eq_false_iff.1 hin), if_neg hst,
        if_neg (Bool.eq_false_iff.1 hd)]
  case sstat => exact fun h => exec_sstat stl h
  case sskip =>
    intro h fails
    refine ⟨exec_sskip_unbound stl h, fun b hb => ⟨exec_sskip_stream stl h hb,
      exec_sskip_write_end stl h hb, ?_⟩⟩
    intro hk hd q hq k moved
    have hskip := exec_sskip_read_end stl h hb hk hd hq
    dsimp only at hskip
    refine ⟨fun hdone => ?_, fun hleft hopen => ?_⟩
    · rw [hskip, if_pos hdone]
      rfl
    · rw [hskip, if_neg (not_or.2 ⟨Nat.not_le.2 hleft, Bool.eq_false_iff.1 hopen⟩)]
      rfl

end Sys2Proof.Machine
end

