-- ==== Sys2Proof/Proofs/VectorOperands.lean ====
section
/-! SUPPORT. How a vector word whose operands are there ends (R112, R113), and what landing a thread's
results leaves of its context (R45). -/

namespace Sys2Proof.Machine

/-! ### Landing -/

/-- What no write of a scalar register changes, a landed result leaves. -/
theorem landOne_keeps {α : Type} {g : Thread → α} (hx : ∀ th n v r, g (setXR th n v r) = g th)
    (t : Tile) (slot : Nat) (p : Pending) :
    g (smGet Thread.none (landOne t slot p).threads slot) = g (smGet Thread.none t.threads slot) := by
  unfold landOne
  split
  · simp only [smUpd, smGet_smSet_same, hx]
  · rfl

theorem foldl_landOne_keeps {α : Type} {g : Thread → α}
    (hx : ∀ th n v r, g (setXR th n v r) = g th) (slot : Nat) (ps : List Pending) (t : Tile) :
    g (smGet Thread.none (ps.foldl (fun t p => landOne t slot p) t).threads slot)
      = g (smGet Thread.none t.threads slot) := by
  induction ps generalizing t with
  | nil => rfl
  | cons p ps ih => exact (ih _).trans (landOne_keeps hx t slot p)

/-- What neither a write of a scalar register nor one of the pending results changes, landing leaves. -/
theorem me_landed_keeps {α : Type} {g : Thread → α} (hx : ∀ th n v r, g (setXR th n v r) = g th)
    (hp : ∀ th ps, g { th with pend := ps } = g th) {s : State} (hcur : s.cur.tile < 1024) :
    g (me (landed s)) = g (me s) := by
  unfold me
  rw [landed_cur]
  unfold landed landUpTo
  split
  · rfl
  · rw [updThr_eq, thr_setThr_same _ _ hcur, hp, thr, tile_setTile_same]
    exact foldl_landOne_keeps hx _ _ _

theorem frmMode_landed {s : State} (hcur : s.cur.tile < 1024) :
    frmMode (me (landed s)) = frmMode (me s) := by
  refine me_landed_keeps (g := frmMode) (fun th n v r => ?_) (fun _ _ => rfl) hcur
  unfold setXR
  split <;> rfl

/-! ### Pops -/

theorem streamPop_cur {s t : State} {i : Tid} {n : Nat} {e : FifoEntry}
    (h : streamPop s i n = .ok t e) : t.cur = s.cur := by
  unfold streamPop at h
  repeat' split at h
  all_goals cases h
  all_goals simp [setPipeFifo, setStream]

theorem before_of_map_eq_ok {x : Except (BitVec 5) Pops} {wait : Bool} {v : VWord}
    {bad : Option Nat} {p : Pops} (h : x.map (Pops.before wait v bad) = .ok p) :
    ∃ q, x = .ok q ∧ q.s = p.s := by
  cases x with
  | error => cases h
  | ok q => cases h; exact ⟨q, rfl, rfl⟩

/-- Pops change the streams and pipes only: the thread that issues stays. -/
theorem popAll_cur {i : Tid} {fs : List (BitVec 5)} {s : State} {p : Pops}
    (h : popAll i fs s = .ok p) : p.s.cur = s.cur := by
  induction fs generalizing s p with
  | nil => cases h; rfl
  | cons f fs ih =>
    unfold popAll at h
    split at h
    · split at h
      · cases h
      · obtain ⟨q, hq, hs⟩ := before_of_map_eq_ok h
        exact hs ▸ ih hq
      case h_3 t e hpop =>
        obtain ⟨q, hq, hs⟩ := before_of_map_eq_ok h
        exact hs ▸ (ih hq).trans (streamPop_cur hpop)
    · obtain ⟨q, hq, hs⟩ := before_of_map_eq_ok h
      exact hs ▸ ih hq

theorem Operands.cur {s s' : State} {srcs : List (BitVec 5)} {dst : Option (BitVec 5)}
    {vs : List VWord} (ho : Operands s srcs dst vs s') : s'.cur = s.cur :=
  popAll_cur ho.pops

/-! ### The end of a vector word -/

/-- The outcome of a vector word's body, as the streams it names are settled (R113). -/
def afterOperands (s0 : State) (srcs : List (BitVec 5)) (dst : Option (BitVec 5)) (r : Ret) : Ret :=
  if (srcs ++ dst.toList).any isStream then
    afterPops s0 ((srcs.filter isStream).map fun f => f.toNat - 24) r
  else r

/-- Where the operands are there, the body works on their values, after the pops. -/
theorem withVecs_of_operands {s s' : State} {srcs : List (BitVec 5)} {dst : Option (BitVec 5)}
    {vs : List VWord} (body : List VWord → State → Ret) (ho : Operands s srcs dst vs s') :
    withVecs srcs dst body s = afterOperands s srcs dst (body vs s') := by
  obtain ⟨hpops, hroom⟩ := ho
  unfold withVecs afterOperands
  simp only [hpops]
  cases dst with
  | none => rfl
  | some f =>
    by_cases hf : isStream f = true
    · obtain ⟨t, e, hpush⟩ := hroom f rfl hf
      simp only [hf, if_true, hpush]
      rfl
    · simp only [hf]
      rfl

/-- A clear issue of a vector word whose operands are there. -/
theorem run_operands (stl : BitVec 3) {c : Chk} {s s' : State} {srcs : List (BitVec 5)}
    {dst : Option (BitVec 5)} {vs : List VWord} (body : List VWord → State → Ret) (h : Clear c s)
    (ho : Operands (landed s) srcs dst vs s') :
    run stl c (withVecs srcs dst body) s
      = .next (settle stl (afterOperands (landed s) srcs dst (body vs s'))) := by
  rw [run_clear stl c _ s h, withVecs_of_operands body ho]

section Ends

variable (stl : BitVec 3) (s0 s : State) (srcs : List (BitVec 5)) (dst : Option (BitVec 5))

@[simp] theorem undoPops_cur : (undoPops s0 s).cur = s.cur := by simp [undoPops, updMe]

/-- A trap leaves the streams as they were. -/
theorem settle_afterOperands_trap (c : Cause) (v : Word) :
    settle stl (afterOperands s0 srcs dst (.trap c v s))
      = trapThread (backOut (srcs ++ dst.toList) s0 s) s.cur c v := by
  unfold afterOperands backOut
  split
  · exact congrArg (trapThread _ · c v) (undoPops_cur s0 s)
  · rfl

/-- A word that waits to issue again leaves the streams as they were. -/
theorem settle_afterOperands_retry :
    settle stl (afterOperands s0 srcs dst (.sleep .retry s))
      = slept stl .retry (backOut (srcs ++ dst.toList) s0 s) := by
  unfold afterOperands backOut
  split <;> rfl

/-- A word that waits for anything else keeps its pops. -/
theorem settle_afterOperands_sleep {w : Wait} (hprobe : ∀ ea bytes pops, w ≠ .probe ea bytes pops)
    (hretry : w ≠ .retry) :
    settle stl (afterOperands s0 srcs dst (.sleep w s))
      = slept stl w (lookAgain (srcs ++ dst.toList) s) := by
  unfold afterOperands lookAgain
  split
  · cases w with
    | probe ea bytes pops => exact absurd rfl (hprobe ea bytes pops)
    | retry => exact absurd rfl hretry
    | _ => rfl
  · exact settle_sleep stl w s

/-- A thread that takes uncorrectable data is parked with what it has done (R313). -/
theorem settle_afterOperands_park (src : Nat) :
    settle stl (afterOperands s0 srcs dst (.park src s)) = parkThread s s.cur src := by
  unfold afterOperands
  split <;> rfl

end Ends

end Sys2Proof.Machine
end

