-- ==== Sys2Proof/Proofs/PairMergeWords.lean ====
section
/-! SUPPORT. What pmx, pmsend and pmrecv do at an issue that nothing turns away and whose operands are
there (R189 to R191). -/

namespace Sys2Proof.Machine

theorem chargeSram_cur (s : State) (place code : Nat) : (chargeSram s place code).cur = s.cur := by
  unfold chargeSram
  split
  · unfold chargePart
    split <;> simp
  · rfl

theorem updTile_cur (s : State) (t : Nat) (f : Tile → Tile) : (updTile s t f).cur = s.cur := rfl

/-! ### pmx (R189) -/

/-- A group word that pmx takes on tile `t`: 2 to 32 participants from BASE on, of which the word's
own stands on the tile. -/
def GroupWord (s : State) (t g : Nat) : Prop :=
  g < 2 ^ 32 ∧ 2 ≤ field g 23 18 ∧ field g 23 18 ≤ 32 ∧ field g 17 12 < field g 23 18
    ∧ field g 11 0 + field g 17 12 = ltileOf s t

/-- A tile takes one more group of this KEY: fewer than four wait there, none with it. -/
def GroupRoom (s : State) (t key : Nat) : Prop :=
  (pmxWaits s t).length < 4 ∧ ∀ e ∈ pmxWaits s t, pmxKey e.2 ≠ some key

/-- The check of the group word by the instruction. -/
theorem groupWord_iff (s : State) (t g : Nat) :
    (g / 2 ^ 32 != 0 || decide (field g 23 18 < 2) || decide (32 < field g 23 18)
      || decide (field g 23 18 ≤ field g 17 12) || field g 11 0 + field g 17 12 != ltileOf s t) = false
    ↔ GroupWord s t g := by
  simp only [GroupWord, Bool.or_eq_false_iff, bne_eq_false_iff_eq, decide_eq_false_iff_not,
    Nat.not_lt, Nat.not_le, and_assoc, Nat.div_eq_zero_iff]
  simp

theorem groupRoom_iff (s : State) (t key : Nat) :
    (decide (4 ≤ (pmxWaits s t).length) || (pmxWaits s t).any fun w => pmxKey w.2 == some key) = false
    ↔ GroupRoom s t key := by
  simp [GroupRoom]

section Pmx

variable {s s' : State} {rd ra rb : BitVec 5} {et : BitVec 1} {vs : List VWord} (stl : BitVec 3)
  (h : Clear { ok := (frmMode (me (landed s))).isSome, xs := [rb], vs := [rd, ra] } s)
  (ho : Operands (landed s) [ra] (some rd) vs s')

include h in
/-- Landing changes no rounding mode, so the mode that pmx judges is that of the landed state. -/
theorem clear_pmx :
    Clear { ok := (frmMode (me s)).isSome, xs := [rb], vs := [rd, ra], form := some true } s :=
  clear_agree h (by rw [frmMode_landed h.place]) rfl rfl rfl rfl

include h ho

theorem exec_pmx_malformed (hg : ¬ GroupWord s' s.cur.tile (rx s' rb).toNat) :
    exec (.pmx stl rd ra rb et) s
      = .next (trapThread (backOut [ra, rd] (landed s) s') s.cur .illegal (rx s' rb)) := by
  have hcur : s'.cur = s.cur := ho.cur.trans (landed_cur s)
  have hbad := mt (groupWord_iff s' s.cur.tile (rx s' rb).toNat).1 hg
  rw [Bool.not_eq_false] at hbad
  refine (run_operands stl _ (clear_pmx h) ho).trans ?_
  simp only [hcur, hbad, if_true, settle_afterOperands_trap, w64, BitVec.ofNat_toNat,
    BitVec.setWidth_eq]
  rfl

section WellFormed

variable (hg : GroupWord s' s.cur.tile (rx s' rb).toNat)
include hg

theorem exec_pmx_unreachable {c : Cause}
    (hr : reachAll s' (myStanding s')
      (List.range' (field (rx s' rb).toNat 11 0) (field (rx s' rb).toNat 23 18)) = some c) :
    exec (.pmx stl rd ra rb et) s
      = .next (trapThread (backOut [ra, rd] (landed s) s') s.cur c (rx s' rb)) := by
  have hcur : s'.cur = s.cur := ho.cur.trans (landed_cur s)
  have hgood := (groupWord_iff s' s.cur.tile (rx s' rb).toNat).2 hg
  refine (run_operands stl _ (clear_pmx h) ho).trans ?_
  simp only [hcur, hgood, hr, Bool.false_eq_true, if_false, settle_afterOperands_trap, w64,
    BitVec.ofNat_toNat, BitVec.setWidth_eq]
  rfl

variable (hr : reachAll s' (myStanding s')
  (List.range' (field (rx s' rb).toNat 11 0) (field (rx s' rb).toNat 23 18)) = none)
include hr

/-- Without room for its group, pmx waits to issue again. -/
theorem exec_pmx_crowded (hf : ¬ GroupRoom s' s.cur.tile (field (rx s' rb).toNat 31 24)) :
    exec (.pmx stl rd ra rb et) s
      = .next (slept stl .retry (backOut [ra, rd] (landed s) s')) := by
  have hcur : s'.cur = s.cur := ho.cur.trans (landed_cur s)
  have hgood := (groupWord_iff s' s.cur.tile (rx s' rb).toNat).2 hg
  have hfull := mt (groupRoom_iff s' s.cur.tile (field (rx s' rb).toNat 31 24)).1 hf
  rw [Bool.not_eq_false] at hfull
  refine (run_operands stl _ (clear_pmx h) ho).trans ?_
  simp only [hcur, hgood, hr, hfull, Bool.false_eq_true, if_false, if_true,
    settle_afterOperands_retry]
  rfl

variable (hf : GroupRoom s' s.cur.tile (field (rx s' rb).toNat 31 24))
include hf

/-- Participant 0 sends its vector to participant 1. -/
theorem exec_pmx_first (hi : field (rx s' rb).toNat 17 12 = 0) {t : Nat}
    (ht : reachTile s' (myStanding s') (field (rx s' rb).toNat 11 0 + 1) = .ok t) :
    let g := (rx s' rb).toNat
    exec (.pmx stl rd ra rb et) s = .next (slept stl
      (.pmx (field g 31 24) (field g 11 0) (field g 23 18) (field g 17 12) rd.toNat (et == 0) none)
      (lookAgain [ra, rd] (send s' s.cur t (.pmx t (field g 31 24) (field g 11 0) (field g 23 18) 1
        (et == 0) false (vs.getD 0 0) false)))) := by
  intro g
  have hcur : s'.cur = s.cur := ho.cur.trans (landed_cur s)
  have hgood := (groupWord_iff s' s.cur.tile (rx s' rb).toNat).2 hg
  have hroom := (groupRoom_iff s' s.cur.tile (field (rx s' rb).toNat 31 24)).2 hf
  refine (run_operands stl _ (clear_pmx h) ho).trans ?_
  simp only [hcur, hgood, hr, hroom, Bool.false_eq_true, if_false, if_pos hi, ht]
  exact congrArg Host.Outcome.next
    (settle_afterOperands_sleep stl _ _ _ _ (by nofun) (by nofun))

/-- Any other participant waits for the contribution with its own vector. -/
theorem exec_pmx_later (hi : field (rx s' rb).toNat 17 12 ≠ 0) :
    let g := (rx s' rb).toNat
    exec (.pmx stl rd ra rb et) s = .next (slept stl
      (.pmx (field g 31 24) (field g 11 0) (field g 23 18) (field g 17 12) rd.toNat (et == 0)
        (some (vs.getD 0 0)))
      (lookAgain [ra, rd] s')) := by
  intro g
  have hcur : s'.cur = s.cur := ho.cur.trans (landed_cur s)
  have hgood := (groupWord_iff s' s.cur.tile (rx s' rb).toNat).2 hg
  have hroom := (groupRoom_iff s' s.cur.tile (field (rx s' rb).toNat 31 24)).2 hf
  refine (run_operands stl _ (clear_pmx h) ho).trans ?_
  simp only [hcur, hgood, hr, hroom, Bool.false_eq_true, if_false, if_neg hi]
  exact congrArg Host.Outcome.next
    (settle_afterOperands_sleep stl _ _ _ _ (by nofun) (by nofun))

end WellFormed

end Pmx

/-! ### pmsend and pmrecv (R190) -/

/-- A word with reserved bits names no target. -/
theorem pmWord_of_reserved {g : Nat} (hg : g / 2 ^ 32 ≠ 0 ∨ field g 23 12 ≠ 0) : pmWord g = none := by
  unfold pmWord
  rw [if_pos (by simpa using hg)]

/-- A word of KEY and logical tile alone. -/
theorem pmWord_of_parts {g key l : Nat} (hg : g = key * 2 ^ 24 + l) (hkey : key < 256)
    (hl : l < 4096) : pmWord g = some (key, l) := by
  have hreserved : g / 2 ^ 32 = 0 ∧ field g 23 12 = 0 := by
    simp only [field]
    omega
  have hfields : field g 31 24 = key ∧ field g 11 0 = l := by
    simp only [field]
    omega
  unfold pmWord
  simp only [hreserved, hfields, bne_self_eq_false, Bool.or_self, Bool.false_eq_true, if_false]

section Pmsend

variable {s s' : State} {ra rb : BitVec 5} {vs : List VWord} (stl : BitVec 3)
  (h : Clear { xs := [rb], vs := [ra] } s) (ho : Operands (landed s) [ra] none vs s')
include h ho

theorem exec_pmsend_malformed (hg : pmWord (rx s' rb).toNat = none) :
    exec (.pmsend stl ra rb) s
      = .next (trapThread (backOut [ra] (landed s) s') s.cur .illegal (rx s' rb)) := by
  have hcur : s'.cur = s.cur := ho.cur.trans (landed_cur s)
  refine (run_operands stl _ h ho).trans ?_
  simp only [hg, settle_afterOperands_trap, hcur]
  rfl

theorem exec_pmsend_unreachable {key l : Nat} {c : Cause}
    (hg : pmWord (rx s' rb).toNat = some (key, l))
    (hr : reachTile s' (myStanding s') l = .error c) :
    exec (.pmsend stl ra rb) s
      = .next (trapThread (backOut [ra] (landed s) s') s.cur c (rx s' rb)) := by
  have hcur : s'.cur = s.cur := ho.cur.trans (landed_cur s)
  refine (run_operands stl _ h ho).trans ?_
  simp only [hg, hr, settle_afterOperands_trap, hcur]
  rfl

theorem exec_pmsend_sent {key l t : Nat} (hg : pmWord (rx s' rb).toNat = some (key, l))
    (hr : reachTile s' (myStanding s') l = .ok t) :
    exec (.pmsend stl ra rb) s = .next (slept stl .pmsend (lookAgain [ra]
      (send s' s.cur t (.pmsend t (ltileOf s' s.cur.tile) key (vs.getD 0 0))))) := by
  have hcur : s'.cur = s.cur := ho.cur.trans (landed_cur s)
  refine (run_operands stl _ h ho).trans ?_
  simp only [hg, hr, hcur]
  exact congrArg Host.Outcome.next
    (settle_afterOperands_sleep stl _ _ _ _ (by nofun) (by nofun))

end Pmsend

section Pmrecv

variable {s : State} {rd rb : BitVec 5} (stl : BitVec 3)
  (h : Clear { xs := [rb], vs := [rd] } s) (ho : Operands (landed s) [] (some rd) [] (landed s))

include h in
theorem clear_pmrecv : Clear { xs := [rb], vs := [rd], pair := takesVec rd } s :=
  clear_agree h rfl rfl rfl rfl rfl

include h ho

theorem exec_pmrecv_malformed (hg : pmWord (rx (landed s) rb).toNat = none) :
    exec (.pmrecv stl rd rb) s = .next
      (trapThread (backOut [rd] (landed s) (landed s)) s.cur .illegal (rx (landed s) rb)) := by
  refine (run_operands stl _ (clear_pmrecv h) ho).trans ?_
  simp only [hg, settle_afterOperands_trap, landed_cur]
  rfl

variable {key l : Nat} (hg : pmWord (rx (landed s) rb).toNat = some (key, l))
include hg

theorem exec_pmrecv_unreachable {c : Cause}
    (hr : reachTile (landed s) (myStanding (landed s)) l = .error c) :
    exec (.pmrecv stl rd rb) s = .next
      (trapThread (backOut [rd] (landed s) (landed s)) s.cur c (rx (landed s) rb)) := by
  refine (run_operands stl _ (clear_pmrecv h) ho).trans ?_
  simp only [hg, hr, settle_afterOperands_trap, landed_cur]
  rfl

variable {t : Nat} (hr : reachTile (landed s) (myStanding (landed s)) l = .ok t)
include hr

/-- pmrecv waits where no vector of its source and KEY has come. -/
theorem exec_pmrecv_empty (hf : pmFind (tile (landed s) s.cur.tile) l key = none) :
    exec (.pmrecv stl rd rb) s
      = .next (slept stl (.pmrecv l key rd.toNat) (lookAgain [rd] (landed s))) := by
  refine (run_operands stl _ (clear_pmrecv h) ho).trans ?_
  simp only [hg, hr, landed_cur, hf]
  exact congrArg Host.Outcome.next
    (settle_afterOperands_sleep stl _ _ _ _ (by nofun) (by nofun))

variable {e : PmEntry} (hf : pmFind (tile (landed s) s.cur.tile) l key = some e)
include hf

theorem exec_pmrecv_entry (hbad : e.bad = false) :
    let s1 := updTile (landed s) s.cur.tile fun tl =>
      { tl with pmEntries := pmRemove l key tl.pmEntries }
    exec (.pmrecv stl rd rb) s = .next (slept stl (.vector rd.toNat)
      (lookAgain [rd] (send s1 s.cur 0 (.reply e.vec.toNat none none)))) := by
  intro s1
  refine (run_operands stl _ (clear_pmrecv h) ho).trans ?_
  simp only [hg, hr, landed_cur, hf, hbad, Bool.false_eq_true, if_false, updTile_cur]
  exact congrArg Host.Outcome.next
    (settle_afterOperands_sleep stl _ _ _ _ (by nofun) (by nofun))

/-- An uncorrectable vector is charged to its tile and parks the thread (R313). -/
theorem exec_pmrecv_uncorrectable (hbad : e.bad = true) :
    let s1 := updTile (landed s) s.cur.tile fun tl =>
      { tl with pmEntries := pmRemove l key tl.pmEntries }
    exec (.pmrecv stl rd rb) s
      = .next (parkThread (chargeSram s1 s.cur.tile 3) s.cur 6) := by
  intro s1
  refine (run_operands stl _ (clear_pmrecv h) ho).trans ?_
  simp only [hg, hr, landed_cur, hf, hbad, if_true, settle_afterOperands_park, chargeSram_cur,
    updTile_cur]
  rfl

end Pmrecv

/-! ### The statement -/

/-- Settles O23: the clauses are the outcomes of the three words, one lemma each. -/
theorem pairMergeWords : Obligations.PairMergeWords := by
  unfold Obligations.PairMergeWords
  refine ⟨?pmx, ?pmsend, ?pmrecv⟩
  case pmx =>
    intro s s' stl rd ra rb et vs s0 g key n idx base w trap right free h ho
    refine ⟨exec_pmx_malformed stl h ho, fun hg c => exec_pmx_unreachable stl h ho hg,
      fun hg hr => ⟨exec_pmx_crowded stl h ho hg hr, fun hf hi => ?_, fun hf hi t ht => ?_⟩⟩
    · have hw : w = .pmx key base n idx rd.toNat (et == 0) (some (vs.getD 0 0)) := by
        simp only [w, hi, if_false]
      exact hw ▸ exec_pmx_later stl h ho hg hr hf hi
    · have hw : w = .pmx key base n idx rd.toNat (et == 0) none := by
        simp only [w, hi, if_true]
      exact hw ▸ exec_pmx_first stl h ho hg hr hf hi ht
  case pmsend =>
    intro s s' stl ra rb vs v trap h ho
    refine ⟨fun hg => exec_pmsend_malformed stl h ho (pmWord_of_reserved hg), ?_⟩
    intro key l hv hkey hl
    have hg := pmWord_of_parts hv hkey hl
    exact ⟨fun c hr => exec_pmsend_unreachable stl h ho hg hr,
      fun t hr => exec_pmsend_sent stl h ho hg hr⟩
  case pmrecv =>
    intro s stl rd rb s0 v trap h ho
    refine ⟨fun hg => exec_pmrecv_malformed stl h ho (pmWord_of_reserved hg), ?_⟩
    intro key l hv hkey hl
    have hg := pmWord_of_parts hv hkey hl
    exact ⟨fun c hr => exec_pmrecv_unreachable stl h ho hg hr,
      fun t e hr hf => ⟨exec_pmrecv_entry stl h ho hg hr hf,
        exec_pmrecv_uncorrectable stl h ho hg hr hf⟩,
      fun t hr hf => exec_pmrecv_empty stl h ho hg hr hf⟩

end Sys2Proof.Machine
end
